-- ==== Sys2Proof/Word.lean ====
section
/-!
DEFINITION. The word types of the LT-20: bytes of frames and cells, and the 32-bit wrapping counts of symbols and
superframes (00_scope.md, "Time base").
-/

namespace Sys2Proof

/-- One byte of a frame, a cell or a message body. -/
abbrev Byte := BitVec 8

/-- A value of the 32-bit wrapping symbol counter. -/
abbrev Sym := BitVec 32

/-- A superframe, named by the 32-bit wrapping superframe counter. -/
abbrev Sf := BitVec 32

end Sys2Proof
end

