-- ==== Sys2Proof/Syntax.lean ====
section
/-!
DEFINITION. The names the LT-20's rules use for their values, the settings groups of chapter 12, and `Instr`: one
constructor per row of spec/opcode_table.json, with the operands its rule gives. Enumerations list their values in the
order their rule or table first lists them, because R59 and R168 number them so on the wire.
-/

namespace Sys2Proof

/-! ## Names -/

/-- The two phone ports (chapter 5). -/
inductive Port where
  | a | b
  deriving DecidableEq, Repr

/-- Line profiles in order of increasing restriction (R17). -/
inductive Profile where
  | full | trim | lifeline
  deriving DecidableEq, Repr

/-- Voice codings (R57). -/
inductive Coding where
  | full | reduced
  deriving DecidableEq, Repr

/-- Direction argument of LINE_TABLE_READ (R39). -/
inductive Direction where
  | down | up
  deriving DecidableEq, Repr

/-- Table argument of LINE_TABLE_READ (R39). -/
inductive TableSel where
  | running | candidate
  deriving DecidableEq, Repr

/-- Actions of TONE_MASK (R37). -/
inductive MaskAction where
  | mask | unmask | replace
  deriving DecidableEq, Repr

/-- The service ratio N of the cell arbiter (R75). -/
inductive ServiceRatio where
  | one | two | four | eight
  deriving DecidableEq, Repr

/-- Ringing frequencies (R77). -/
inductive RingFreq where
  | hz20 | hz25
  deriving DecidableEq, Repr

/-- Sweep rates, in the order of R118's table and R127. -/
inductive SweepRate where
  | r1000 | r250 | r50 | r10
  deriving DecidableEq, Repr

/-- Kinds of snapshot, in the order of R124. -/
inductive SnapKind where
  | reset | keep
  deriving DecidableEq, Repr

/-- The three tests (R143). -/
inductive TestKind where
  | lineForeign | lineInsulation | portLoop
  deriving DecidableEq, Repr

/-- Targets of a test (R143). -/
inductive Target where
  | line | portA | portB
  deriving DecidableEq, Repr

/-- Fault policies, in the order R154's column of allowed policies first lists them. -/
inductive Policy where
  | retryFast | retrySlow | latched | report | silent
  deriving DecidableEq, Repr

/-- The sixteen fault records, one per class and source, in the order of the table of R154. -/
inductive FaultId where
  | linkLoss | trainFail | linkProtocol | impulseNoise | foreignVoltage | leakage
  | feedOvercurrentA | feedOvercurrentB | ringOverloadA | ringOverloadB | voiceCapacityA | voiceCapacityB
  | thermalWarn | thermalShutdown | batteryFault | settingsCorrupt
  deriving DecidableEq, Repr

/-- A ring plan of RING_PLAN (R109); the cadence is the number given. -/
inductive Plan where
  | ring (cadence : Nat) | silent | reject
  deriving DecidableEq, Repr

/-- The record argument of FAULT_CLEAR (R166): a class and source, or ALL. `none` is a pair that names no record. -/
inductive ClearSel where
  | one (record : Option FaultId) | all
  deriving DecidableEq, Repr

/-- An enumerated argument as a frame carries it: a value of its set, or a code outside the set (R168, R172). -/
inductive Enum (α : Type) where
  | known (a : α) | outside (code : Nat)
  deriving DecidableEq, Repr

/-- A keypad digit: 0 to 9, * or # (R87, R88). -/
inductive Digit where
  | num (n : Fin 10) | star | hash
  deriving DecidableEq, Repr

/-! ## Tables by port, fault record and measurement channel -/

/-- One value for each port. -/
structure PerPort (α : Type) where
  a : α
  b : α
  deriving DecidableEq, Repr

/-- One value for each of the sixteen fault records (R154). -/
structure PerFault (α : Type) where
  linkLoss : α
  trainFail : α
  linkProtocol : α
  impulseNoise : α
  foreignVoltage : α
  leakage : α
  feedOvercurrentA : α
  feedOvercurrentB : α
  ringOverloadA : α
  ringOverloadB : α
  voiceCapacityA : α
  voiceCapacityB : α
  thermalWarn : α
  thermalShutdown : α
  batteryFault : α
  settingsCorrupt : α
  deriving DecidableEq, Repr

/-- The twelve measurement channels (7.1), in index order. -/
inductive Chan where
  | battV | battI | adapterV | lineTipE | lineRingE | lineTR | paV | paI | pbV | pbI | dieT | ldI
  deriving DecidableEq, Repr

/-- One value for each measurement channel. -/
structure PerChan (α : Type) where
  battV : α
  battI : α
  adapterV : α
  lineTipE : α
  lineRingE : α
  lineTR : α
  paV : α
  paI : α
  pbV : α
  pbI : α
  dieT : α
  ldI : α
  deriving DecidableEq, Repr

/-! ## The running settings (12.1) -/

/-- LINE group (R21, R37). The mask has one flag per downstream tone, tone 32 first. -/
structure LineSettings where
  linkEnable : Bool
  marginTarget : Nat
  upshiftEnable : Bool
  requestedMask : List Bool
  deriving DecidableEq, Repr

/-- GATE group (R40). The hit threshold is in dB. -/
structure GateSettings where
  hitThreshold : Nat
  windowWidth : Nat
  impulseThreshold : Nat
  agreementEnable : Bool
  deriving DecidableEq, Repr

/-- The eight PORTS settings of one port (R77), currents in mA. -/
structure PortSettings where
  enable : Bool
  currentLimit : Nat
  offHookThreshold : Nat
  frequency : RingFreq
  fenceExposed : Bool
  lifelineMarked : Bool
  reverseOnAnswer : Bool
  intercomEnable : Bool
  deriving DecidableEq, Repr

/-- A cadence: 1 to 4 pairs of on time and off time in ms (5.4). -/
abbrev Cadence := List (Nat × Nat)

/-- CADENCES group (5.4). -/
structure Cadences where
  c0 : Cadence
  c1 : Cadence
  c2 : Cadence
  c3 : Cadence
  deriving DecidableEq, Repr

/-- MEASURE group: the staged settings (R117, R127). -/
structure MeasureSettings where
  rate : SweepRate
  enables : PerChan Bool
  kind : SnapKind
  deriving DecidableEq, Repr

/-- SUPPLY group (R130), voltages in 10 mV, REN in tenths. -/
structure SupplySettings where
  reserveThreshold : Nat
  cutoff : Nat
  renLimit : Nat
  deriving DecidableEq, Repr

/-- Policy and level of one fault record (R154). -/
structure FaultSetting where
  policy : Policy
  level : Nat
  deriving DecidableEq, Repr

/-- FAULTS group (R154, R165). -/
structure FaultSettings where
  records : PerFault FaultSetting
  pinThreshold : Nat
  noticeThreshold : Nat
  beaconThreshold : Nat
  foreignThreshold : Nat
  leakageThreshold : Nat
  deriving DecidableEq, Repr

/-- The running settings: the eight groups of 12.1. -/
structure Settings where
  line : LineSettings
  gate : GateSettings
  ratio : ServiceRatio
  ports : PerPort PortSettings
  cadences : Cadences
  measure : MeasureSettings
  supply : SupplySettings
  faults : FaultSettings
  deriving DecidableEq, Repr

/-! ## Operands of events -/

/-- What the receiver measured of one symbol: its error energy E in qdB (3.2), whether a sync symbol passed
correlation and whether its power lay below the floor (R13), for each downstream tone the received power and the power
of the error from the known value (R24), and, in PROBE, the far end's 26 upstream readings (R26). -/
structure SymbolIn where
  energy : Int
  syncPass : Bool
  belowFloor : Bool
  tones : List (Nat × Nat)
  upstream : List Nat
  deriving DecidableEq, Repr

/-- One channel's sample of a sweep: the raw code (R119), and, for a channel a test owns, the two readings of the test
unit's measuring front-end (R146). -/
structure Sample where
  raw : Int
  first : Int
  second : Int
  deriving DecidableEq, Repr

/-! ## The commands -/

/-- The commands of spec/opcode_table.json, one constructor per row, in the table's order. A request carries its
arguments as R168 lets them stand: `none` is an argument marked absent. A management message carries the number byte,
the length byte and the body bytes of its unit (R59). -/
inductive Instr where
  -- resets and start
  | powerOnReset (strap : Bool)
  | pinReset (strap : Bool)
  | wake (strap : Bool)
  | settingsLoadEnd
  -- processor link
  | requestFrame (tag : Byte) (body : List Byte)
  | dataUp (tag : Byte) (body : List Byte)
  | frameError (stream : List Byte)
  | frameSent
  | unknownRequest
  -- requests
  | lineStatus
  | lineConfigure (linkEnable : Option (Enum Bool)) (margin : Option Nat) (upshift : Option (Enum Bool))
  | restartLine
  | restartPorts
  | lineTableRead (dir : Enum Direction) (table : Enum TableSel)
  | toneMask (action : Enum MaskAction) (ranges : List (Nat × Nat))
  | gateConfigure (hit width impulse : Option Nat) (agreement : Option (Enum Bool))
  | gateStatus (clear : Option (Enum Unit))
  | scheduleConfigure (ratio : Enum ServiceRatio)
  | scheduleStatus (clear : Option (Enum Unit))
  | portConfigure (port : Enum Port) (enable : Option (Enum Bool)) (limit threshold : Option Nat)
      (freq : Option (Enum RingFreq)) (fence lifeline reverse intercom : Option (Enum Bool))
  | cadenceSet (cadence : Nat) (pairs : List (Nat × Nat))
  | portStatus (port : Enum Port) (clear : Option (Enum Unit))
  | ringPlan (port : Enum Port) (plan : Enum Plan)
  | intercom (port : Enum Port)
  | custodyClaim
  | custodyRelease
  | callStatus
  | digitsRead (port : Enum Port)
  | snapshot (kind : Enum SnapKind)
  | measureConfigure (rate : Option (Enum SweepRate)) (enables : Option (List (Enum Bool)))
      (kind : Option (Enum SnapKind))
  | measureRead
  | supplyConfigure (threshold cutoff ren : Option Nat)
  | supplyStatus
  | testStart (kind : Enum TestKind) (target : Enum Target)
  | testAbort
  | testRead
  | faultPolicy (record : Option (Enum FaultId)) (policy : Option (Enum Policy))
      (level pin notice beacon foreign leakage : Option Nat)
  | faultClear (sel : ClearSel)
  | faultRead (record : Option (Enum FaultId))
  | faultHistory (count : Nat) (start : Option Nat)
  | settingsSave
  | settingsSaveWriteEnd
  | settingsDefaults
  | identityRead
  | identityWrite (serial : Nat) (ident : List Byte)
  | calibrate (channel gain : Nat) (offset : Int)
  | regionWriteEnd
  -- line training
  | quietTimerExpiry
  | startReply
  | refusal
  | handshakeTimeout
  | probeEnd
  | upstreamTable (tones : List (Nat × Nat))
  | confirmation (scheduleAccepted : Bool)
  | exchangeTimeout
  | backOffExpiry
  -- line service
  | symbolReceived (sym : SymbolIn)
  | windowMissed
  | syncFailureLoss
  | lowPowerLoss
  | retrain (number length : Byte) (body : List Byte)
  | retrainTimeout
  | profileTimerExpiry
  | evaluation
  | swapApply
  | rateApply
  | upTableApply
  | codingApply (port : Port)
  -- superframes and management messages
  | upstreamSuperframe (audioA audioB : List Byte)
  | downstreamSuperframe (payload : List Byte)
  | unknownTypeMessage (type number length : Byte) (body : List Byte)
  | ack (number length : Byte) (body : List Byte)
  | nak (number length : Byte) (body : List Byte)
  | transactionTimeout (number : Nat)
  | upTable (number length : Byte) (body : List Byte)
  | alert (number length : Byte) (body : List Byte)
  | clear (number length : Byte) (body : List Byte)
  | answered (number length : Byte) (body : List Byte)
  | testReq (number length : Byte) (body : List Byte)
  | beaconClear (number length : Byte) (body : List Byte)
  -- fence gate
  | agreementInForce
  | replacementInForce
  | agreementEnd
  | gateRetryExpiry
  | impulseSecondClose
  -- ports
  | hookSample (port : Port) (loop ring : Nat)
  | offHook (port : Port)
  | onHook (port : Port)
  | ringTrip (port : Port)
  | offHookOnTest (port : Port)
  | pulseTrainEnd (port : Port)
  | toneDigit (port : Port) (digit : Digit)
  | toneAbsenceEnd (port : Port)
  | polaritySwapEnd (port : Port)
  | cadencePhaseEnd (port : Port)
  | feedOvercurrent (port : Port)
  | ringOverload (port : Port)
  -- calls
  | admissionWaitExpiry (port : Port)
  | holdOffExpiry
  | decisionTimerExpiry (port : Port)
  | alertTimerExpiry (port : Port)
  | graceTimerExpiry
  -- measurement and supply
  | sweepPeriodStart (samples : PerChan Sample)
  | sweepEnd
  | mainsTimerExpiry
  | recoveryTimerExpiry
  | cutoffTimerExpiry
  | lowBatteryTimerExpiry
  | batteryGoodTimerExpiry
  | lossMessageTimeout
  -- tests and faults
  | armingTimeout
  | testDurationEnd
  | retryTimerExpiry (record : FaultId)
  | spacingTimerExpiry
  deriving DecidableEq, Repr

end Sys2Proof
end

