-- ==== Sys2Proof/Config.lean ====
section
/-!
DEFINITION. What is fixed for the part: the constants its rules give, the defaults after SETTINGS_DEFAULTS, and the free
values: opaque constants of which nothing can be proved, where the spec states no value.
-/

namespace Sys2Proof.Config

/-! ## Free values -/

/-- FREE VALUE (DESIGN CHOICE, log 13). The bytes over which the stored record's check is taken: R177 says "a CRC-16
... over all the values" and gives no layout of the values. -/
opaque recordImage : Settings → List Byte

/-- FREE VALUE (DESIGN CHOICE, log 13). The bytes over which the check of the identity and calibration region is taken,
"formed as in R177" (R179), from the serial number, the line identifier, and each channel's gain and offset. -/
opaque regionImage : Option Nat → Option (List Byte) → List (Nat × Int) → List Byte

/-- FREE VALUE (DESIGN CHOICE, log 18). The select periods that the host gives the stream in one millisecond of the
uptime, each as its number of clocks: R169 leaves them to the host. -/
opaque selectClocks : Nat → List Nat

/-- FREE VALUE (DESIGN CHOICE, log 35). The BATT_V average that a FAULT_BEACON or a POWER_LOSS carries when none has
been handed: R137 and R162 state no value. -/
opaque unstatedAverage : Nat

/-- FREE VALUE (DESIGN CHOICE, log 68). The newest sequence number that FAULT_HISTORY carries while the ring is empty:
R167 states no value. -/
opaque newestOfNone : Nat

/-! ## Constants of the line (chapters 1 and 2) -/

/-- G of R23 and R27, in qdB. -/
def gap : Int := 38
/-- The least total a table may have, in bits per symbol (R7, R32, R34, R37). -/
def floorBits : Nat := 30
def nDown : Nat := 224
def nUp : Nat := 26
/-- First downstream and first upstream tone. -/
def firstDown : Nat := 32
def firstUp : Nat := 6
def quietMs : Nat := 200
def handshakeMs : Nat := 2000
def exchangeMs : Nat := 1000
def probeSymbols : Nat := 4000
def profileMs : Nat := 2000
def farEndMs : Nat := 100
def syncLimit : Nat := 8
def powerLimit : Nat := 40

/-! ## Constants of the fence tracker (chapter 3) -/

def periodMin : Nat := 3200
def periodMax : Nat := 8000
def gateLead : Nat := 64
def gateRetryMs : Nat := 10000

/-! ## Constants of the scheduler (chapter 4) -/

def upQueueCells : Nat := 128
def poolCells : Nat := 64
def answerMs : Nat := 200
def maxTransactions : Nat := 8
/-- Places of the outbound queue open to answers and unanswered messages (R69). -/
def answerPlaces : Nat := 24

/-! ## Constants of the measurement unit (chapter 7) -/

def accLimit : Int := 549755813887
def countLimit : Nat := 16777215

/-! ## Constants of the supply supervisor (chapter 8) -/

def adapterPresent : Int := 1080
def adapterAbsent : Int := 1000
def batteryFaultLevel : Int := 900

/-! ## Defaults after SETTINGS_DEFAULTS -/

/-- R21; "The default requested mask is empty" (12.1). -/
def lineDefaults : LineSettings :=
  { linkEnable := true, marginTarget := 6, upshiftEnable := true, requestedMask := List.replicate 224 false }

/-- R40. -/
def gateDefaults : GateSettings :=
  { hitThreshold := 12, windowWidth := 4, impulseThreshold := 10, agreementEnable := true }

/-- R77. -/
def portDefaults : Port → PortSettings
  | .a => { enable := true, currentLimit := 25, offHookThreshold := 10, frequency := .hz25, fenceExposed := false,
            lifelineMarked := true, reverseOnAnswer := false, intercomEnable := true }
  | .b => { enable := true, currentLimit := 25, offHookThreshold := 10, frequency := .hz25, fenceExposed := false,
            lifelineMarked := false, reverseOnAnswer := false, intercomEnable := true }

/-- Section 5.4. -/
def cadenceDefaults : Cadences :=
  { c0 := [(1200, 4800)]
    c1 := [(400, 400), (800, 3400)]
    c2 := [(800, 5200)]
    c3 := [(300, 300), (300, 300), (300, 2800)] }

/-- R117. -/
def measureDefaults : MeasureSettings :=
  { rate := .r250
    enables := ⟨true, true, true, true, true, true, true, true, true, true, true, true⟩
    kind := .keep }

/-- R130. -/
def supplyDefaults : SupplySettings :=
  { reserveThreshold := 1160, cutoff := 1050, renLimit := 20 }

/-- R154 (policy and level by record) and R165 (thresholds). -/
def faultDefaults : FaultSettings :=
  { records :=
      { linkLoss := ⟨.retrySlow, 9⟩
        trainFail := ⟨.report, 11⟩
        linkProtocol := ⟨.report, 6⟩
        impulseNoise := ⟨.report, 5⟩
        foreignVoltage := ⟨.retrySlow, 14⟩
        leakage := ⟨.report, 8⟩
        feedOvercurrentA := ⟨.retryFast, 10⟩
        feedOvercurrentB := ⟨.retryFast, 10⟩
        ringOverloadA := ⟨.retrySlow, 7⟩
        ringOverloadB := ⟨.retrySlow, 7⟩
        voiceCapacityA := ⟨.report, 6⟩
        voiceCapacityB := ⟨.report, 6⟩
        thermalWarn := ⟨.report, 8⟩
        thermalShutdown := ⟨.retrySlow, 15⟩
        batteryFault := ⟨.report, 9⟩
        settingsCorrupt := ⟨.report, 12⟩ }
    pinThreshold := 8
    noticeThreshold := 1
    beaconThreshold := 10
    foreignThreshold := 25
    leakageThreshold := 150 }

/-- The defaults of all eight groups; "4 after SETTINGS_DEFAULTS" for N is R56. -/
def defaults : Settings :=
  { line := lineDefaults
    gate := gateDefaults
    ratio := .four
    ports := ⟨portDefaults .a, portDefaults .b⟩
    cadences := cadenceDefaults
    measure := measureDefaults
    supply := supplyDefaults
    faults := faultDefaults }

end Sys2Proof.Config
end

