-- ==== Sys2Proof/Machine/State.lean ====
section
/-!
DEFINITION. Everything the spec gives the LT-20 to hold, block by block, as plain data; the queue of waiting commands;
and the machine right after a power-on reset.
-/

namespace Sys2Proof.Machine

/-- A running timer with its time left in ms, or a stopped one. -/
abbrev Timer := Option Nat

/-! ## Line engine -/

/-- Link states (1.1). -/
inductive LinkState where
  | idle | testHold | quiet | handshake | probe | exchange | inService | retrainWait
  deriving DecidableEq, Repr

/-- Members of the line hold set (R1). -/
inductive LineMember where
  | disabled | latched | foreign | thermal | test | supply
  deriving DecidableEq, Repr

/-- The line hold set, one flag per member: it "holds no member twice" (1.2). -/
structure LineHold where
  disabled : Bool
  latched : Bool
  foreign : Bool
  thermal : Bool
  test : Bool
  supply : Bool
  deriving DecidableEq, Repr

/-- Causes of an attempt failure (R1). -/
inductive AttemptCause where
  | none | timeout | refused | cap | capacity
  deriving DecidableEq, Repr

/-- Causes of a loss (R1). -/
inductive LossCause where
  | none | sync | signal | farEnd | protocol
  deriving DecidableEq, Repr

/-- One tone's record (R23): smoothed SNR in qdB, bits, mask mark. The margin is computed. -/
structure ToneRec where
  s : Nat
  b : Nat
  masked : Bool
  deriving DecidableEq, Repr

/-- A gate schedule (R40): period and width in symbols, the anchor superframe, the offset of the first window within
it, and the symbol at which the latest begun or first window starts (R46, R48). -/
structure Sched where
  period : Nat
  width : Nat
  anchor : Sf
  offset : Nat
  origin : Sym
  deriving DecidableEq, Repr

/-- What PROBE has found and EXCHANGE has sent and received (R6 to R8, R26): the means of PROBE, downstream and
upstream; the profile, the margin in use and the cap sent, the downstream bits sent, the lifeline need sent, the
schedule sent, the bits and the far end's smoothed value of each tone of the upstream table answered (R25), and whether
the LE has confirmed. -/
structure Exchange where
  snrDown : List Nat
  snrUp : List Nat
  profile : Profile
  margin : Int
  cap : Nat
  down : List Nat
  need : Option Nat
  sched : Option Sched
  up : Option (List (Nat × Nat))
  confirmed : Bool
  deriving DecidableEq, Repr

/-- The pending profile; its timer runs from the moment PROFILE is sent (R18). -/
structure PendingProfile where
  profile : Profile
  timer : Timer
  deriving DecidableEq, Repr

/-- A FAR_END loss pending: the number of the RETRAIN and the time left of its 100 ms (R14). -/
structure FarEndLoss where
  number : Byte
  timer : Nat
  deriving DecidableEq, Repr

/-- Link state and counters of the line engine (R1, R13, R14, R18), with what PROBE counts (R26): the probe symbols,
those not hit that carried downstream readings, those not hit that carried the far end's readings, and the sum of each
tone's readings. -/
structure LE where
  link : LinkState
  hold : LineHold
  attempts : Nat
  reduction : Nat
  backoffStep : Nat
  backoff : Timer
  phaseTimer : Timer
  lastFailure : AttemptCause
  lastLoss : LossCause
  inForce : Profile
  pending : Option PendingProfile
  changeInFlight : Bool
  needInFlight : Bool
  thermalTrim : Bool
  level : Int
  sf : Sf
  sym : Sym
  sfStart : Sym
  syncFails : Nat
  lowPower : Nat
  farEnd : Option FarEndLoss
  probeCount : Nat
  probeUnhit : Nat
  probeDown : List Nat
  probeUp : List Nat
  probeUpReadings : Nat
  exchange : Option Exchange
  evalDue : Bool
  deriving DecidableEq, Repr

/-- Reasons of a RATE (R34). -/
inductive RateReason where
  | downshift | upshift | mask | profile | need
  deriving DecidableEq, Repr

/-- What a RATE carries (R34). -/
structure RateMsg where
  bits : List Nat
  mask : List Bool
  level : Int
  reason : RateReason
  deriving DecidableEq, Repr

/-- The downstream change in flight, with its transaction number and, once acknowledged, its S_eff (R23). Tones are
indices 32 to 255. -/
inductive DownChange where
  | none
  | swap (donor receiver : Nat) (number : Option Nat) (seff : Option Sf)
  | rate (msg : RateMsg) (number : Option Nat) (seff : Option Sf)
  deriving DecidableEq, Repr

/-- Last downstream change result (R23). -/
inductive ChangeResult where
  | none | applied | refused | failed | floor
  deriving DecidableEq, Repr

/-- An accepted UP_TABLE waiting for its S_eff, with the check cap used for it (R36). -/
structure UpChange where
  table : List ToneRec
  seff : Sf
  cap : Nat
  deriving DecidableEq, Repr

/-- What of a need change has been applied, and the upstream change that waited already when the need was sent, which is
no later one (R38). -/
structure NeedProgress where
  rate : Bool
  up : Bool
  old : Option UpChange
  deriving DecidableEq, Repr

/-- Tone tables and their changes (R23). -/
structure Tables where
  down : List ToneRec
  cand : List ToneRec
  up : List ToneRec
  maskInForce : List Bool
  cap : Nat
  lowCounts : List Nat
  upshift : Nat
  inFlight : DownChange
  waitingRate : Option RateReason
  upWaiting : Option UpChange
  lastSwap : Option Sf
  lastResult : ChangeResult
  needSent : Option Nat
  needProgress : Option NeedProgress
  deriving DecidableEq, Repr

/-! ## Fence tracker -/

/-- Tracking status (3.1). -/
inductive Tracking where
  | searching | locked
  deriving DecidableEq, Repr

/-- Tracker state as reported (3.1). -/
inductive Tracker where
  | searching | locked | agreed
  deriving DecidableEq, Repr

/-- An open burst (R41). -/
structure Burst where
  first : Sym
  latest : Sym
  deriving DecidableEq, Repr

/-- A predicted window that has begun (R43). -/
structure Window where
  start : Sym
  width : Nat
  caught : Bool
  deriving DecidableEq, Repr

/-- The gate agreement record (R40). -/
structure Agreement where
  cur : Sched
  active : Bool
  repl : Option Sched
  endSf : Option Sf
  deriving DecidableEq, Repr

/-- Gate request in flight (R40), with what it carries (R48, R51). -/
inductive GateReq where
  | none | set (sched : Sched) | clear (endSf : Sf)
  deriving DecidableEq, Repr

/-- Statistics of the tracker (R40). -/
structure FtStats where
  caught : Nat
  missed : Nat
  stray : Nat
  total : Nat
  peak : Nat
  deriving DecidableEq, Repr

/-- The fence tracker (R40). -/
structure FT where
  tracking : Tracking
  floor : Nat
  learn : Nat
  burst : Option Burst
  arrivals : List Sym
  period : Option Nat
  next : Option Sym
  misses : Nat
  window : Option Window
  agreement : Option Agreement
  request : GateReq
  retry : Timer
  hits : Nat
  highRun : Nat
  lowRun : Nat
  impulse : Bool
  stats : FtStats
  deriving DecidableEq, Repr

/-! ## Superframe scheduler -/

/-- One cell of a unit (R59): its kind is the queue's; the check byte is computed. -/
structure Cell where
  start : Bool
  fin : Bool
  index : Nat
  seq : Nat
  data : List Byte
  deriving DecidableEq, Repr

/-- Requests the part sends as transactions, in the order of R67's table. -/
inductive TxKind where
  | seize | digit | release | answer | coding | swap | rate | profile | gateSet | gateClear | testResult
  deriving DecidableEq, Repr

/-- Requests of the far end (R67). -/
inductive FarType where
  | alert | clear | answered | upTable | retrain | testReq | beaconClear
  deriving DecidableEq, Repr

/-- What a message of the outbound queue is (R69): the send of a transaction, an answer to the far end, or an
unanswered message. -/
inductive Sender where
  | send (number : Nat)
  | answer (type : Option FarType) (number : Byte) (positive : Bool)
  | beacon
  | ended (record : FaultId)
  | powerLoss
  deriving DecidableEq, Repr

/-- One message of the outbound queue, with its cells not yet placed (R69). -/
structure OutMsg where
  who : Sender
  cells : List Cell
  started : Bool
  deriving DecidableEq, Repr

/-- A request waiting for an entry, or the content of an entry (R70). The tag is the owner's own: a call's serial, a
test result's serial, or for PROFILE 1 when it carries a change of profile and 0 when it carries a need. -/
structure TxReq where
  kind : TxKind
  port : Option Port
  body : List Byte
  tag : Nat
  deriving DecidableEq, Repr

/-- A transaction list entry (R56). -/
structure Tx where
  req : TxReq
  number : Nat
  sends : Nat
  timeLeft : Timer
  deriving DecidableEq, Repr

/-- A stored answer (R56): absent, pending, or the complete message with its sign. -/
inductive Stored where
  | absent | pending | held (positive : Bool) (message : List Byte)
  deriving DecidableEq, Repr

/-- A repeat record (R56). -/
structure Repeat where
  last : Option Byte
  answer : Stored
  deriving DecidableEq, Repr

/-- The seven repeat records. -/
structure Repeats where
  alert : Repeat
  clear : Repeat
  answered : Repeat
  upTable : Repeat
  retrain : Repeat
  testReq : Repeat
  beaconClear : Repeat
  deriving DecidableEq, Repr

/-- A partial unit (R64). -/
structure Partial where
  seq : Nat
  nextIndex : Nat
  cells : Nat
  bytes : List Byte
  deriving DecidableEq, Repr

/-- A voice slot named for a superframe (R57, R63, R99). -/
structure Slot where
  channel : Nat
  coding : Coding
  port : Port
  deriving DecidableEq, Repr

/-- The counts of R76. -/
structure SsCounts where
  accepted : Nat
  noRoom : Nat
  empty : Nat
  mgmtCells : Nat
  dataCells : Nat
  idleCells : Nat
  slotsOmitted : Nat
  checkFails : Nat
  formatFaults : Nat
  orphans : Nat
  cellsSequence : Nat
  delivered : Nat
  unitsCheck : Nat
  unitsSequence : Nat
  unitsLong : Nat
  unitsRoom : Nat
  unitsPower : Nat
  unitsLink : Nat
  messages : Nat
  malformed : Nat
  unknownType : Nat
  repeats : Nat
  answersDropped : Nat
  unansweredDropped : Nat
  unmatched : Nat
  failed : Nat
  deriving DecidableEq, Repr

/-- The superframe scheduler (R56). -/
structure SS where
  upQueue : List Cell
  xon : Bool
  dataSeq : Nat
  mgmtSeq : Nat
  p : Nat
  outQueue : List OutMsg
  dataPartial : Option Partial
  mgmtPartial : Option Partial
  txs : List Tx
  nextNumber : Nat
  waiting : List TxReq
  repeats : Repeats
  counts : SsCounts
  slots : List Slot
  lastUp : List Byte
  deriving DecidableEq, Repr

/-! ## Phone ports -/

/-- Feed states (5.1). -/
inductive Feed where
  | disconnected | protect | testing | standby | active | reversed | polaritySwap | ringing | ringPause
  deriving DecidableEq, Repr

/-- Hook states (R77). -/
inductive Hook where
  | onHook | offHook | brk
  deriving DecidableEq, Repr

/-- Members of a port hold set (R77). -/
inductive PortMember where
  | fault | thermal | shed | test | disabled
  deriving DecidableEq, Repr

/-- A port hold set (5.2). -/
structure PortHold where
  fault : Bool
  thermal : Bool
  shed : Bool
  test : Bool
  disabled : Bool
  deriving DecidableEq, Repr

/-- Local tones (R91). -/
inductive Tone where
  | none | noService | congestion | busy | ringback
  deriving DecidableEq, Repr

/-- Audio sources (R91). -/
inductive Audio where
  | none | line | intercom
  deriving DecidableEq, Repr

/-- Cadence position (R77): the pairs being played, the pair index, the phase, the time left, whether the next phase
is to be taken from pair 0 of the requested cadence (R82, R94), and the voltage (Vrms) and frequency in effect since
the latest burst start (R82). -/
structure CadencePos where
  pairs : Cadence
  pair : Nat
  on : Bool
  timeLeft : Nat
  restart : Bool
  volts : Nat
  freq : RingFreq
  deriving DecidableEq, Repr

/-- How a digit was dialled (R88). -/
inductive Method where
  | pulse | tone
  deriving DecidableEq, Repr

/-- Marks of a digit (R88). -/
inductive Mark where
  | pending | forwarded | localDigit
  deriving DecidableEq, Repr

/-- An entry of a digit list (R88). -/
structure DigitEntry where
  digit : Digit
  method : Method
  mark : Mark
  deriving DecidableEq, Repr

/-- Detector runs and blanking intervals of a port (sections 5.4 to 5.7), in ms and samples. -/
structure Detect where
  blank : Nat
  offRun : Nat
  tripRun : Nat
  breakMs : Nat
  onHookDue : Bool
  make : Timer
  toneArmed : Bool
  ocBlank : Nat
  ocRun : Nat
  ocMax : Nat
  ocArmed : Bool
  roMs : Nat
  roPeak : Nat
  roRun : Nat
  roMax : Nat
  roArmed : Bool
  deriving DecidableEq, Repr

/-- Port counts (R97). -/
structure PortCounts where
  offHooks : Nat
  pulseDigits : Nat
  toneDigits : Nat
  trainsDiscarded : Nat
  glitches : Nat
  ringTrips : Nat
  overcurrents : Nat
  ringOverloads : Nat
  deriving DecidableEq, Repr

/-- Wanted polarity (R77). -/
inductive Polarity where
  | normal | reversed
  deriving DecidableEq, Repr

/-- One phone port (R77), with the place reached in the on and off times of its local tone (R91). -/
structure PP where
  feed : Feed
  hold : PortHold
  hook : Hook
  wanted : Polarity
  swapTimer : Timer
  ringRequest : Option Nat
  ringInhibit : Bool
  cadence : Option CadencePos
  pulses : Nat
  digits : List DigitEntry
  overflow : Bool
  tone : Tone
  toneMs : Nat
  audio : Audio
  detect : Detect
  counts : PortCounts
  voice : Option (List Byte)
  deriving DecidableEq, Repr

/-! ## Call controller -/

/-- Call record states (R98). -/
inductive CallState where
  | free | seizing | dialling | connected | alertingIn | clearing | farCleared | blocked
  | intercomCalling | intercomRinging | intercomConnected | intercomEnded | localOnly
  deriving DecidableEq, Repr

/-- Sub-states of ALERTING_IN (R98). -/
inductive SubState where
  | decisionWanted | ringingPlan
  deriving DecidableEq, Repr

/-- Directions of a call (R98). -/
inductive CallDir where
  | out | incoming | intercom
  deriving DecidableEq, Repr

/-- Release causes (6.4), NONE first (R98). -/
inductive RelCause where
  | none | normal | farEnd | capacity | noAnswer | rejected | refused | protocol | intercom | linkLost | restart
  | fault | shed | test | disabled
  deriving DecidableEq, Repr

/-- A plan as a call record holds it (R98). -/
inductive HeldPlan where
  | ring (cadence : Nat) | silent
  deriving DecidableEq, Repr

/-- A downgrade in flight, with its S_eff once acknowledged (R98). -/
structure Downgrade where
  seff : Option Sf
  deriving DecidableEq, Repr

/-- The call's transactions in flight, each present at most once (R98). -/
structure CallTxs where
  seize : Bool
  release : Bool
  answer : Bool
  digit : Bool
  coding : Bool
  deriving DecidableEq, Repr

/-- A call record (R98), with the model's own order marks (log 16). -/
structure CallRec where
  state : CallState
  sub : Option SubState
  dir : Option CallDir
  channel : Option Nat
  coding : Option Coding
  downgrade : Option Downgrade
  connect : Option Sf
  caller : Option (List Digit)
  plan : Option HeldPlan
  cause : RelCause
  admission : Timer
  decision : Timer
  alert : Timer
  txs : CallTxs
  serial : Nat
  order : Nat
  alertNumber : Option Byte
  alertChannel : Option Nat
  digitsUpTo : Nat
  deriving DecidableEq, Repr

/-- Custody (R98). -/
inductive Custody where
  | part | box | releasing
  deriving DecidableEq, Repr

/-- The call controller (R98). -/
structure CC where
  recs : PerPort CallRec
  custody : Custody
  grace : Timer
  nReported : Nat
  holdOff : Timer
  lastR : Nat
  pDown : Nat
  pUp : Nat
  nextSerial : Nat
  deriving DecidableEq, Repr

/-! ## Measurement unit -/

/-- State of one channel (R117). `owned` is owner TEST; `fresh` says that a sample of it was kept in the present sweep
(R120). -/
structure MuChan where
  latest : Option Int
  window : List Int
  lastKept : Option Sf
  fresh : Bool
  owned : Bool
  deriving DecidableEq, Repr

/-- The four consumers (7.4). -/
inductive Consumer where
  | total | line | portA | portB
  deriving DecidableEq, Repr

/-- An energy account (7.4): accumulator in microjoules and count. -/
structure Account where
  acc : Int
  count : Nat
  deriving DecidableEq, Repr

structure Accounts where
  total : Account
  line : Account
  portA : Account
  portB : Account
  deriving DecidableEq, Repr

/-- Causes of a snapshot (R117). -/
inductive SnapCause where
  | requested | supplyChange
  deriving DecidableEq, Repr

/-- A pending snapshot (R117). -/
structure SnapPending where
  cause : SnapCause
  kind : SnapKind
  deriving DecidableEq, Repr

/-- Supply modes (R130). -/
inductive SupplyMode where
  | start | mains | battery | reserve | depleted
  deriving DecidableEq, Repr

/-- One channel as a snapshot copies it (R124). -/
structure ChanRead where
  latest : Option Int
  average : Option Int
  values : Nat
  lastKept : Option Sf
  owned : Bool
  deriving DecidableEq, Repr

/-- The readout record: the fields R124 lists, and the active rate, which R126 says the readout shows beside the rate in
force. It is the one before the staged settings become active (DESIGN CHOICE, log 63). -/
structure Readout where
  number : Nat
  cause : SnapCause
  kind : SnapKind
  uptime : BitVec 32
  sweep : Sf
  mode : SupplyMode
  rate : SweepRate
  activeRate : SweepRate
  chans : PerChan ChanRead
  accounts : Accounts
  overflow : Bool
  deriving DecidableEq, Repr

/-- The measurement unit (R117). -/
structure MU where
  chans : PerChan MuChan
  sweep : Sf
  accounts : Accounts
  overflow : Bool
  active : MeasureSettings
  forced : Bool
  pending : Option SnapPending
  readout : Option Readout
  snapNumber : Nat
  started : Bool
  sweeping : Bool
  periodRate : SweepRate
  deriving DecidableEq, Repr

/-! ## Supply supervisor -/

/-- Adapter states (R130). -/
inductive Adapter where
  | unknown | present | absent
  deriving DecidableEq, Repr

/-- The loss message (R130): NONE, WAITING with its time left, or ended, which dormancy follows in the same step. -/
inductive LossMsg where
  | none | waiting (timer : Nat) | ended
  deriving DecidableEq, Repr

/-- The supply supervisor (R130). -/
structure SUP where
  mode : SupplyMode
  adapter : Adapter
  profile : Profile
  procPwr : Bool
  mains : Timer
  recovery : Timer
  cutoff : Timer
  lowBattery : Timer
  batteryGood : Timer
  batteryFault : Bool
  loss : LossMsg
  enteredAt : BitVec 32
  battV : Option Int
  battI : Option Int
  adapterV : Option Int
  deriving DecidableEq, Repr

/-! ## Test unit -/

/-- Who asked for a test (R143). -/
inductive Requester where
  | box | operator
  deriving DecidableEq, Repr

/-- Phases of a test (R143). -/
inductive Phase where
  | arming | running
  deriving DecidableEq, Repr

/-- Readings kept of one claimed channel (R146): how many, and the sums of both values of each. -/
structure Reading where
  n : Nat
  sum1 : Int
  sum2 : Int
  deriving DecidableEq, Repr

/-- The current-test record (R143). The channels owned are those R144 gives for kind and target. -/
structure CurrentTest where
  kind : TestKind
  target : Target
  requester : Requester
  priority : Bool
  reqNumber : Option Byte
  phase : Phase
  start : Option (BitVec 32)
  timeLeft : Timer
  arm : Timer
  r0 : Reading
  r1 : Reading
  r2 : Reading
  deriving DecidableEq, Repr

/-- Outcomes (R143). -/
inductive Outcome where
  | pass | fail | aborted
  deriving DecidableEq, Repr

/-- Abort causes (R148). -/
inductive AbortCause where
  | offHook | alert | supply | held | restart | preempted | requested | noReadings
  deriving DecidableEq, Repr

/-- One measured value, marked when clamped at its limit (R146). -/
structure TestValue where
  value : Int
  mark : Bool
  deriving DecidableEq, Repr

structure Latest where
  outcome : Outcome
  cause : Option AbortCause
  requester : Requester
  endTime : BitVec 32
  deriving DecidableEq, Repr

structure Completed where
  values : List TestValue
  outcome : Outcome
  requester : Requester
  endTime : BitVec 32
  deriving DecidableEq, Repr

/-- Report states (R143). -/
inductive Report where
  | none | waiting | inFlight | delivered | undelivered
  deriving DecidableEq, Repr

/-- A last-result record (R143); the serial names the result written last (log 16). -/
structure LastResult where
  latest : Option Latest
  completed : Option Completed
  report : Report
  serial : Nat
  deriving DecidableEq, Repr

/-- The four last-result records (R143). -/
inductive ResultId where
  | lineForeign | lineInsulation | portLoopA | portLoopB
  deriving DecidableEq, Repr

structure Results where
  lineForeign : LastResult
  lineInsulation : LastResult
  portLoopA : LastResult
  portLoopB : LastResult
  deriving DecidableEq, Repr

/-- The test unit (R143). -/
structure TU where
  current : Option CurrentTest
  results : Results
  lastWritten : Option ResultId
  nextSerial : Nat
  deriving DecidableEq, Repr

/-! ## Fault supervisor -/

/-- States of a fault record (R154). -/
inductive FaultState where
  | clear | active | retryWait | latched | recovered
  deriving DecidableEq, Repr

/-- Transitions of a history entry (R160). -/
inductive Transition where
  | raised | retryStarted | resumed | latched | recovered | cleared
  deriving DecidableEq, Repr

/-- A fault record (R154). Policy and level are in the running settings. -/
structure FaultRec where
  state : FaultState
  run : Option Policy
  condition : Bool
  retry : Timer
  firstSeen : Option (BitVec 32)
  lastSeen : Option (BitVec 32)
  count : Nat
  value : Option Int
  silenced : Bool
  owed : Bool
  deriving DecidableEq, Repr

/-- A history entry (R160). -/
structure HistEntry where
  seq : Nat
  uptime : BitVec 32
  record : FaultId
  transition : Transition
  value : Option Int
  deriving DecidableEq, Repr

/-- The fault supervisor (R154, R160, R163). The history is oldest first. `endVoid` marks an end report in flight whose
record was cleared or silenced since, so that its carriage changes nothing (R164, R166). -/
structure FS where
  recs : PerFault FaultRec
  history : List HistEntry
  nextSeq : Nat
  endReport : Option FaultId
  endVoid : Bool
  spacing : Timer
  deriving DecidableEq, Repr

/-! ## Processor link -/

/-- Receiver states (R169). -/
inductive Rx where
  | hunt | length | header | body | check
  deriving DecidableEq, Repr

/-- Kinds of the latest error (R174). -/
inductive FrameErr where
  | check | length | kind | discarded
  deriving DecidableEq, Repr

/-- A notice kind with its source (R174). -/
inductive Notice where
  | started | link | gate | flow | custody | snapshot | supply | test | fault | frameError
  | hook (p : Port) | digits (p : Port) | call (p : Port)
  deriving DecidableEq, Repr

/-- A formed reply: its place in the order of forming, and its body (R173). -/
structure Reply where
  order : Nat
  body : List Byte
  deriving DecidableEq, Repr

/-- A request queue entry (R169). -/
structure ReqEntry where
  tag : Byte
  body : List Byte
  executing : Bool
  reply : Option Reply
  deriving DecidableEq, Repr

/-- A BUSY reply of the busy-answer list (R171). -/
structure BusyReply where
  tag : Byte
  reply : Reply
  deriving DecidableEq, Repr

/-- Where the frame in progress came from (R173). -/
inductive FrameSrc where
  | reply (order : Nat) | notice (n : Notice) | data
  deriving DecidableEq, Repr

/-- The frame in progress, and how many of its bytes have been sent so far (R169). -/
structure Frame where
  src : FrameSrc
  bytes : List Byte
  sent : Nat := 0
  deriving DecidableEq, Repr

/-- Error counts (R169). -/
structure ErrCounts where
  check : Nat
  length : Nat
  kind : Nat
  discarded : Nat
  deriving DecidableEq, Repr

/-- The processor link (R169). -/
structure PLK where
  isOpen : Bool
  rx : Rx
  rxBytes : List Byte
  requests : List ReqEntry
  busy : List BusyReply
  notices : List Notice
  dataDown : List (List Byte)
  frame : Option Frame
  noticeSeq : Nat
  errors : ErrCounts
  lastError : Option FrameErr
  nextOrder : Nat
  deriving DecidableEq, Repr

/-! ## Settings store -/

/-- Calibration of one channel (R119, R179). -/
structure Calib where
  gain : Nat
  offset : Int
  deriving DecidableEq, Repr

/-- Values of the identity and calibration region (R179); the identity is absent where its check failed. -/
structure Region where
  serial : Option Nat
  ident : Option (List Byte)
  calib : PerChan Calib
  deriving DecidableEq, Repr

/-- The stored settings record (R177); `whole` is cleared while a write is under way, so that a write cut short leaves
a failing check (R178). -/
structure StoredRecord where
  values : Settings
  check : BitVec 16
  whole : Bool
  deriving DecidableEq, Repr

/-- The region as stored, with its own check; `whole` is cleared while a write is under way (R179). -/
structure StoredRegion where
  values : Region
  check : BitVec 16
  whole : Bool
  deriving DecidableEq, Repr

/-- A write under way (R178, R179), with its reply's result fields. -/
inductive Write where
  | save (values : Settings)
  | region (values : Region) (reply : List Byte)
  deriving DecidableEq, Repr

/-- Load results (R177). -/
inductive LoadResult where
  | stored | defaults
  deriving DecidableEq, Repr

/-- Reset causes (R180). -/
inductive ResetCause where
  | powerOn | pin | depletedWake
  deriving DecidableEq, Repr

/-- The settings store (R177 to R180), less the running settings. -/
structure STS where
  stored : Option StoredRecord
  storedRegion : Option StoredRegion
  region : Region
  regionOk : Bool
  loadResult : LoadResult
  strap : Bool
  cause : ResetCause
  loading : Bool
  writing : Option Write
  startedRaised : Bool
  deriving DecidableEq, Repr

/-! ## The machine -/

/-- Everything the LT-20 holds, and the queue of the commands that wait, first in first out. While `resetLow` holds,
RESETn is low and the part does nothing (R180); `dormant` is then set too, as no command is taken but a start. -/
structure State where
  le : LE
  tt : Tables
  ft : FT
  ss : SS
  ports : PerPort PP
  cc : CC
  mu : MU
  sup : SUP
  tu : TU
  fs : FS
  plk : PLK
  sts : STS
  settings : Settings
  uptime : BitVec 32
  uptimeMs : Nat
  dormant : Bool
  resetLow : Bool
  pending : List Instr
  deriving DecidableEq, Repr

/-- Reasons for which the machine would stop with a fault. There is none: the spec gives the part no machine stop and
no exception; its "faults" are records of State (R154). -/
inductive Fault where
  deriving DecidableEq, Repr

/-- Reasons for which a command has no meaning. -/
inductive Refusal where
  /-- Raised by `exec`'s arm of a command that has no meaning yet (safe). No arm raises it. -/
  | notModelled (mnemonic : String)
  deriving DecidableEq, Repr

/-! ## Reset values -/

namespace Reset

/-- R1. The driver is off. -/
def le : LE :=
  { link := .idle
    hold := { disabled := true, latched := false, foreign := false, thermal := false, test := false, supply := true }
    attempts := 0, reduction := 0, backoffStep := 0, backoff := none, phaseTimer := none
    lastFailure := .none, lastLoss := .none, inForce := .full, pending := none
    changeInFlight := false, needInFlight := false, thermalTrim := false, level := 0
    sf := 0, sym := 0, sfStart := 0, syncFails := 0, lowPower := 0, farEnd := none
    probeCount := 0, probeUnhit := 0, probeDown := List.replicate 224 0, probeUp := List.replicate 26 0, probeUpReadings := 0
    exchange := none, evalDue := false }

/-- An empty table has s = 0 and b = 0 on every tone and no mask marks (R23). -/
def emptyTone : ToneRec := { s := 0, b := 0, masked := false }

/-- R1, R23. -/
def tables : Tables :=
  { down := List.replicate 224 emptyTone, cand := List.replicate 224 emptyTone, up := List.replicate 26 emptyTone
    maskInForce := List.replicate 224 false, cap := 10, lowCounts := List.replicate 224 0, upshift := 0
    inFlight := .none, waitingRate := none, upWaiting := none, lastSwap := none, lastResult := .none
    needSent := none, needProgress := none }

/-- R40. -/
def ft : FT :=
  { tracking := .searching, floor := 0, learn := 0, burst := none, arrivals := [], period := none, next := none
    misses := 0, window := none, agreement := none, request := .none, retry := none, hits := 0, highRun := 0
    lowRun := 0, impulse := false, stats := { caught := 0, missed := 0, stray := 0, total := 0, peak := 0 } }

def repeatRec : Repeat := { last := none, answer := .absent }

def repeats : Repeats :=
  ⟨repeatRec, repeatRec, repeatRec, repeatRec, repeatRec, repeatRec, repeatRec⟩

def ssCounts : SsCounts :=
  ⟨0, 0, 0, 0, 0, 0, 0, 0, 0, 0, 0, 0, 0, 0, 0, 0, 0, 0, 0, 0, 0, 0, 0, 0, 0, 0⟩

/-- R56. -/
def ss : SS :=
  { upQueue := [], xon := true, dataSeq := 0, mgmtSeq := 0, p := 0, outQueue := [], dataPartial := none
    mgmtPartial := none, txs := [], nextNumber := 0, waiting := [], repeats := repeats, counts := ssCounts
    slots := [], lastUp := [] }

def detect : Detect :=
  { blank := 0, offRun := 0, tripRun := 0, breakMs := 0, onHookDue := false, make := none, toneArmed := true
    ocBlank := 0, ocRun := 0, ocMax := 0, ocArmed := true, roMs := 0, roPeak := 0, roRun := 0, roMax := 0
    roArmed := true }

def portCounts : PortCounts := ⟨0, 0, 0, 0, 0, 0, 0, 0⟩

/-- R77. -/
def port : PP :=
  { feed := .disconnected
    hold := { fault := false, thermal := false, shed := true, test := false, disabled := true }
    hook := .onHook, wanted := .normal, swapTimer := none, ringRequest := none, ringInhibit := false
    cadence := none, pulses := 0, digits := [], overflow := false, tone := .none, toneMs := 0, audio := .none
    detect := detect, counts := portCounts, voice := none }

/-- R98: a record in FREE with cause NONE. -/
def call : CallRec :=
  { state := .free, sub := none, dir := none, channel := none, coding := none, downgrade := none, connect := none
    caller := none, plan := none, cause := .none, admission := none, decision := none, alert := none
    txs := ⟨false, false, false, false, false⟩, serial := 0, order := 0, alertNumber := none
    alertChannel := none, digitsUpTo := 0 }

/-- R98. -/
def cc : CC :=
  { recs := ⟨call, call⟩, custody := .part, grace := none, nReported := 0, holdOff := none, lastR := 64
    pDown := 0, pUp := 0, nextSerial := 1 }

def muChan : MuChan := { latest := none, window := [], lastKept := none, fresh := false, owned := false }

def perChan {α : Type} (x : α) : PerChan α := ⟨x, x, x, x, x, x, x, x, x, x, x, x⟩

def account : Account := ⟨0, 0⟩

/-- R117, after a power-on reset. -/
def mu : MU :=
  { chans := perChan muChan, sweep := 0, accounts := ⟨account, account, account, account⟩, overflow := false
    active := Config.measureDefaults, forced := false, pending := none, readout := none, snapNumber := 0
    started := false, sweeping := false, periodRate := .r250 }

/-- R130. -/
def sup : SUP :=
  { mode := .start, adapter := .unknown, profile := .full, procPwr := false, mains := none, recovery := none
    cutoff := none, lowBattery := none, batteryGood := none, batteryFault := false, loss := .none
    enteredAt := 0, battV := none, battI := none, adapterV := none }

def result : LastResult := { latest := none, completed := none, report := .none, serial := 0 }

/-- R143. -/
def tu : TU :=
  { current := none, results := ⟨result, result, result, result⟩, lastWritten := none, nextSerial := 1 }

def faultRec : FaultRec :=
  { state := .clear, run := none, condition := false, retry := none, firstSeen := none, lastSeen := none
    count := 0, value := none, silenced := false, owed := false }

def perFault {α : Type} (x : α) : PerFault α := ⟨x, x, x, x, x, x, x, x, x, x, x, x, x, x, x, x⟩

/-- R154, R160, R163, after a power-on reset. -/
def fs : FS :=
  { recs := perFault faultRec, history := [], nextSeq := 0, endReport := none, endVoid := false, spacing := none }

/-- R169. -/
def plk : PLK :=
  { isOpen := false, rx := .hunt, rxBytes := [], requests := [], busy := [], notices := [], dataDown := []
    frame := none, noticeSeq := 0, errors := ⟨0, 0, 0, 0⟩, lastError := none, nextOrder := 0 }

/-- The region as after a failed check (R179). -/
def region : Region := { serial := none, ident := none, calib := perChan { gain := 16384, offset := 0 } }

/-- R177 to R180 at a power-on start whose non-volatile stores have never been written (DESIGN CHOICE, log 3). -/
def sts : STS :=
  { stored := none, storedRegion := none, region := region, regionOk := false, loadResult := .defaults
    strap := false, cause := .powerOn, loading := true, writing := none, startedRaised := false }

end Reset

/-- The machine right after a power-on reset: every block at its reset values, the settings load under way (R180). The
first entry to START raises no SUPPLY notice (DESIGN CHOICE, log 78). -/
def State.reset : State :=
  { le := Reset.le, tt := Reset.tables, ft := Reset.ft, ss := Reset.ss, ports := ⟨Reset.port, Reset.port⟩
    cc := Reset.cc, mu := Reset.mu, sup := Reset.sup, tu := Reset.tu, fs := Reset.fs, plk := Reset.plk
    sts := Reset.sts, settings := Config.defaults, uptime := 0, uptimeMs := 0, dormant := false
    resetLow := false, pending := [] }

end Sys2Proof.Machine
end

