-- ==== Sys2Proof/Machine/Flags.lean ====
section
/-!
DEFINITION. The arithmetic words of 00_scope.md ("Units and number conventions"), the comparison of wrapping counters
(R35), the two cyclic checks (R59, R168) and the signal-to-noise ratio in quarter-decibels (R24).
-/

namespace Sys2Proof.Machine

/-! ## Arithmetic words -/

/-- Clamped to a range. -/
def clampNat (lo hi x : Nat) : Nat := max lo (min hi x)

/-- Clamped to a range. -/
def clampInt (lo hi x : Int) : Int := max lo (min hi x)

/-- A saturating count raised by 1. -/
def satInc (limit n : Nat) : Nat := min limit (n + 1)

/-- A 32-bit saturating count raised by 1 (R76, R97, R169). -/
def inc32 (n : Nat) : Nat := satInc 4294967295 n

/-- A 32-bit saturating count raised by `k`. -/
def add32 (n k : Nat) : Nat := min 4294967295 (n + k)

/-- ceil(n / d). -/
def ceilDiv (n d : Nat) : Nat := (n + d - 1) / d

/-- n / d rounded half up: floor(n / d + 1 / 2). -/
def roundHalfUp (n d : Nat) : Nat := (2 * n + d) / (2 * d)

/-- n / d rounded half away from zero. -/
def roundHalfAway (n : Int) (d : Nat) : Int :=
  let m : Int := ((2 * n.natAbs + d) / (2 * d) : Nat)
  if n < 0 then -m else m

/-! ## Wrapping counters -/

/-- R35: `x` is ahead of `c` when (x - c) modulo 2^32 lies in 1 to 2^31 - 1. -/
def ahead (x c : BitVec 32) : Bool :=
  let d := (x - c).toNat
  decide (1 ≤ d) && decide (d < 2147483648)

/-- The signed distance from `c` to `x`, for counts that lie within 2^31 of each other. -/
def dist (x c : BitVec 32) : Int := (x - c).toInt

/-! ## Cyclic checks -/

/-- One bit of a CRC of width w with polynomial `poly`, the most significant bit first. -/
def crcShift {w : Nat} (poly c : BitVec w) : BitVec w :=
  if c.msb then (c <<< 1) ^^^ poly else c <<< 1

def crcByte8 (c : BitVec 8) (b : Byte) : BitVec 8 :=
  (List.range 8).foldl (fun c _ => crcShift 0x07#8 c) (c ^^^ b)

/-- CRC-8 of a cell (R59): x^8 + x^2 + x + 1, initial value 0xFF, no final inversion. -/
def crc8 (l : List Byte) : BitVec 8 := l.foldl crcByte8 0xFF#8

def crcByte16 (c : BitVec 16) (b : Byte) : BitVec 16 :=
  (List.range 8).foldl (fun c _ => crcShift 0x1021#16 c) (c ^^^ ((b.zeroExtend 16) <<< 8))

/-- CRC-16 of a frame (R168): x^16 + x^12 + x^5 + 1, initial value 0xFFFF, no final inversion. -/
def crc16 (l : List Byte) : BitVec 16 := l.foldl crcByte16 0xFFFF#16

/-! ## Signal-to-noise ratio -/

/-- Whether 40 log10(p / e) is at least x - 1/2 qdB, decided exactly: 10^(2x-1) e^80 ≤ p^80. -/
def snrAtLeast (p e x : Nat) : Bool := 10 ^ (2 * x - 1) * e ^ 80 ≤ p ^ 80

/-- R24: the instant SNR of a tone from its received power and its error power, in qdB, rounded half up and clamped to
0 to 240; a tone whose error power is zero takes 240. -/
def instantSnr (p e : Nat) : Nat :=
  if e = 0 then 240
  else [128, 64, 32, 16, 8, 4, 2, 1].foldl
    (fun x k => if x + k ≤ 240 && snrAtLeast p e (x + k) then x + k else x) 0

/-- R25: s + floor((x - s + 4) / 8), clamped to 0 to 240. -/
def smooth (s x : Nat) : Nat :=
  (clampInt 0 240 ((s : Int) + ((x : Int) - s + 4) / 8)).toNat

end Sys2Proof.Machine
end

