-- ==== Sys2Proof/Machine/Operands.lean ====
section
/-!
DEFINITION. The operand forms on the wire: how numbers, flags, enumerations, options and lists are read from and
written to frames (R168) and management messages (R59), the codes of requests, messages, notices and records, and the
cells and frames themselves.
-/

namespace Sys2Proof.Machine

/-! ## Writing -/

/-- A number in `k` bytes, most significant first; negative numbers in two's complement. -/
def beInt (k : Nat) (n : Int) : List Byte :=
  (List.range k).map fun i => BitVec.ofInt 8 (n / 256 ^ (k - 1 - i))

def wNat (k n : Nat) : List Byte := beInt k n
def w8 (n : Nat) : List Byte := wNat 1 n
def w16 (n : Nat) : List Byte := wNat 2 n
def w32 (n : Nat) : List Byte := wNat 4 n
def i16 (n : Int) : List Byte := beInt 2 n
def wBV (x : BitVec 32) : List Byte := wNat 4 x.toNat
def wBool (b : Bool) : List Byte := [if b then 1 else 0]

/-- One of two values that a rule lists by name, numbered in the order listed: 0 when the first holds (R168). -/
def wFirst (first : Bool) : List Byte := [if first then 0 else 1]

/-- A possibly absent field: 0x00, or 0x01 and the field. -/
def wOpt {α : Type} (f : α → List Byte) : Option α → List Byte
  | none => [0]
  | some a => 1 :: f a

/-- A list or set: a count byte and its members. -/
def wList {α : Type} (f : α → List Byte) (l : List α) : List Byte := w8 l.length ++ l.flatMap f

/-- A port: 0x01 for A, 0x02 for B. -/
def wPort : Port → List Byte
  | .a => [1]
  | .b => [2]

def Digit.code : Digit → Nat
  | .num n => n.val
  | .star => 10
  | .hash => 11

def wDigit (d : Digit) : List Byte := w8 (Digit.code d)

/-! ## Reading -/

/-- A reader takes bytes from the front and answers what it read with the rest, or nothing. -/
abbrev Reader (α : Type) := List Byte → Option (α × List Byte)

def rByte : Reader Byte
  | [] => none
  | b :: t => some (b, t)

/-- An unsigned number of `k` bytes. -/
def rNat : Nat → Reader Nat
  | 0, l => some (0, l)
  | k + 1, l =>
    match l with
    | [] => none
    | b :: t => (rNat k t).map fun (n, r) => (b.toNat * 256 ^ k + n, r)

/-- A two's-complement number of 2 bytes. -/
def rInt16 : Reader Int := fun l => (rNat 2 l).map fun (n, r) => ((BitVec.ofNat 16 n).toInt, r)

/-- A superframe number (4 bytes). -/
def rSf : Reader Sf := fun l => (rNat 4 l).map fun (n, r) => (BitVec.ofNat 32 n, r)

/-- A value of an enumeration by its code, the code being the place in the list. -/
def enumOf {α : Type} (vals : List α) (c : Nat) : Enum α :=
  match vals[c]? with
  | some a => .known a
  | none => .outside c

def rEnum {α : Type} (vals : List α) : Reader (Enum α) := fun l =>
  (rByte l).map fun (b, r) => (enumOf vals b.toNat, r)

def onOff : List Bool := [false, true]

/-- A port argument: any byte other than 0x01 and 0x02 names no port. -/
def rPort : Reader (Enum Port) := fun l =>
  (rByte l).map fun (b, r) =>
    (match b.toNat with
     | 1 => .known .a
     | 2 => .known .b
     | c => .outside c, r)

/-- An argument of a request: 0x00 absent, or 0x01 and its value (R168). -/
def rArg {α : Type} (f : Reader α) : Reader (Option α)
  | [] => none
  | b :: t =>
    if b = 0 then some (none, t)
    else if b = 1 then (f t).map fun (a, r) => (some a, r)
    else none

/-- An argument the request requires: marked absent, it cannot be read (R172). -/
def rReq {α : Type} (f : Reader α) : Reader α := fun l =>
  match rArg f l with
  | some (some a, r) => some (a, r)
  | _ => none

def rTimes {α : Type} (f : Reader α) : Nat → Reader (List α)
  | 0, l => some ([], l)
  | k + 1, l =>
    match f l with
    | none => none
    | some (a, r) => (rTimes f k r).map fun (as, r') => (a :: as, r')

/-- A list: a count byte and its members. -/
def rList {α : Type} (f : Reader α) : Reader (List α) := fun l =>
  match rByte l with
  | none => none
  | some (n, r) => rTimes f n.toNat r

def rPair {α β : Type} (f : Reader α) (g : Reader β) : Reader (α × β) := fun l =>
  match f l with
  | none => none
  | some (a, r) => (g r).map fun (b, r') => ((a, b), r')

/-- The whole of the bytes, neither too short nor too long (R172). -/
def readAll {α : Type} (f : Reader α) (l : List Byte) : Option α :=
  match f l with
  | some (a, []) => some a
  | _ => none

/-- No argument at all. -/
def rNothing : Reader Unit := fun l => some ((), l)

/-! ## Fault records -/

/-- The class code (0 to 12, R154's order) and source code (LINE, PORT_A, PORT_B, PART) of a record. -/
def FaultId.codes : FaultId → Nat × Nat
  | .linkLoss => (0, 0)
  | .trainFail => (1, 0)
  | .linkProtocol => (2, 0)
  | .impulseNoise => (3, 0)
  | .foreignVoltage => (4, 0)
  | .leakage => (5, 0)
  | .feedOvercurrentA => (6, 1)
  | .feedOvercurrentB => (6, 2)
  | .ringOverloadA => (7, 1)
  | .ringOverloadB => (7, 2)
  | .voiceCapacityA => (8, 1)
  | .voiceCapacityB => (8, 2)
  | .thermalWarn => (9, 3)
  | .thermalShutdown => (10, 3)
  | .batteryFault => (11, 3)
  | .settingsCorrupt => (12, 3)

/-- The sixteen records in the order of the table (R154). -/
def allFaults : List FaultId :=
  [.linkLoss, .trainFail, .linkProtocol, .impulseNoise, .foreignVoltage, .leakage, .feedOvercurrentA,
   .feedOvercurrentB, .ringOverloadA, .ringOverloadB, .voiceCapacityA, .voiceCapacityB, .thermalWarn,
   .thermalShutdown, .batteryFault, .settingsCorrupt]

def wFault (f : FaultId) : List Byte := w8 (FaultId.codes f).1 ++ w8 (FaultId.codes f).2

/-- The record a class and a source name, if any. -/
def faultOf (c src : Nat) : Option FaultId := allFaults.find? fun f => FaultId.codes f == (c, src)

def rFault : Reader (Enum FaultId) := fun l =>
  (rPair rByte rByte l).map fun ((c, src), r) =>
    (match faultOf c.toNat src.toNat with
     | some f => .known f
     | none => .outside (c.toNat * 256 + src.toNat), r)

/-- FAULT_CLEAR's choice: 0 and a class and source, or 1 for ALL (R166, R168). -/
def rClearSel : Reader ClearSel := fun l =>
  match rByte l with
  | some (b, r) =>
    if b = 0 then
      (rFault r).map fun (e, r') =>
        (match e with
         | .known f => .one (some f)
         | .outside _ => .one none, r')
    else if b = 1 then some (.all, r)
    else none
  | none => none

/-- RING_PLAN's choice: 0 RING and a cadence, 1 SILENT, 2 REJECT (R109, R168). -/
def rPlan : Reader (Enum Plan) := fun l =>
  match rByte l with
  | some (b, r) =>
    if b = 0 then (rNat 1 r).map fun (c, r') => (.known (.ring c), r')
    else if b = 1 then some (.known .silent, r)
    else if b = 2 then some (.known .reject, r)
    else some (.outside b.toNat, r)
  | none => none

/-! ## Message codes (R67) -/

def TxKind.code : TxKind → Nat
  | .seize => 0x10
  | .digit => 0x11
  | .release => 0x12
  | .answer => 0x13
  | .coding => 0x14
  | .swap => 0x20
  | .rate => 0x21
  | .profile => 0x22
  | .gateSet => 0x28
  | .gateClear => 0x29
  | .testResult => 0x30

/-- The far end's request types and their codes. -/
def FarType.ofCode (c : Nat) : Option FarType :=
  [(0x50, FarType.alert), (0x51, .clear), (0x52, .answered), (0x60, .upTable), (0x61, .retrain), (0x70, .testReq),
   (0x78, .beaconClear)].lookup c

def codeBeacon : Nat := 0x38
def codePowerLoss : Nat := 0x39
def codeAck : Nat := 0x7E
def codeNak : Nat := 0x7F

/-- NAK causes (R67). -/
inductive NakCause where
  | unknown | invalid | busy | capacity | cleared | cap | table | late | supply | call | portState | noneRunning
  deriving DecidableEq, Repr

/-- 0x01 to 0x0C in the order of the table. -/
def NakCause.code (c : NakCause) : Nat := c.ctorIdx + 1

/-- A management message (R59): type, number, length, body. -/
def message (type : Nat) (number : Nat) (body : List Byte) : List Byte :=
  w8 type ++ w8 number ++ w8 body.length ++ body

/-! ## Cells (R59, R60) -/

/-- The bytes of a cell of a unit: kind 01 DATA or 10 MGMT, flags, index, sequence, used count, payload and check. -/
def cellBytes (mgmt : Bool) (c : Cell) : List Byte :=
  let head := (if mgmt then 128 else 64) + (if c.start then 32 else 0) + (if c.fin then 16 else 0) + c.index
  let body := w8 head ++ w8 c.seq ++ w8 c.data.length ++ (c.data ++ List.replicate 60 0).take 60
  body ++ [crc8 body]

/-- An IDLE cell (R59). -/
def idleCell : List Byte :=
  let body := List.replicate 63 (0 : Byte)
  body ++ [crc8 body]

/-- A unit cut into cells, the first at `index` (R60). -/
def cutCells (seq : Nat) : Nat → Nat → List Byte → List Cell
  | 0, _, _ => []
  | fuel + 1, index, l =>
    let rest := l.drop 60
    { start := index == 0, fin := rest.isEmpty, index := index % 16, seq := seq, data := l.take 60 }
      :: (if rest.isEmpty then [] else cutCells seq fuel (index + 1) rest)

/-- The cells of a unit of n bytes: ceil(n / 60) of them (R60). -/
def cellsOf (seq : Nat) (l : List Byte) : List Cell := cutCells seq (l.length + 1) 0 l

/-! ## Frames (R168) -/

/-- Frame kinds. -/
inductive FrameKind where
  | request | reply | notice | dataUp | dataDown
  deriving DecidableEq, Repr

def FrameKind.code : FrameKind → Nat
  | .request => 0x10
  | .reply => 0x11
  | .notice => 0x12
  | .dataUp => 0x20
  | .dataDown => 0x21

/-- The bytes of a frame: SYNC, LEN, KIND, TAG, BODY, CHECK. -/
def frameBytes (kind : FrameKind) (tag : Byte) (body : List Byte) : List Byte :=
  let mid := w16 body.length ++ w8 (FrameKind.code kind) ++ [tag] ++ body
  0xC3 :: (mid ++ w16 (crc16 mid).toNat)

/-- Result codes, 0x00 to 0x06 in R168's order. -/
inductive Code where
  | ok | busy | unknownRequest | badArgument | refusedState | conflict | isProtected
  deriving DecidableEq, Repr

def Code.byte (c : Code) : Byte := BitVec.ofNat 8 c.ctorIdx

/-- What a request answers: its result code and the result fields. -/
structure Answer where
  code : Code
  fields : List Byte
  deriving DecidableEq, Repr

def Answer.ok (fields : List Byte) : Answer := ⟨.ok, fields⟩
def Answer.no (code : Code) : Answer := ⟨code, []⟩

/-! ## Tone tables in messages (R59) -/

/-- The 4-bit code of a downstream tone: 1 is a masked tone carrying no bits. -/
def toneCode (b : Nat) (masked : Bool) : Nat := if b = 0 then (if masked then 1 else 0) else b

/-- Codes two to a byte, the lower-indexed tone in the upper four bits. -/
def packCodes : List Nat → List Byte
  | a :: b :: t => BitVec.ofNat 8 (a * 16 + b) :: packCodes t
  | [a] => [BitVec.ofNat 8 (a * 16)]
  | [] => []

def unpackCodes (l : List Byte) : List Nat := l.flatMap fun b => [b.toNat / 16, b.toNat % 16]

/-! ## Enumerations in frames -/

def directions : List Direction := [.down, .up]
def tableSels : List TableSel := [.running, .candidate]
def maskActions : List MaskAction := [.mask, .unmask, .replace]
def serviceRatios : List ServiceRatio := [.one, .two, .four, .eight]
def ringFreqs : List RingFreq := [.hz20, .hz25]
def sweepRates : List SweepRate := [.r1000, .r250, .r50, .r10]
def snapKinds : List SnapKind := [.reset, .keep]
def testKinds : List TestKind := [.lineForeign, .lineInsulation, .portLoop]
def targets : List Target := [.line, .portA, .portB]
def policies : List Policy := [.retryFast, .retrySlow, .latched, .report, .silent]
def codings : List Coding := [.full, .reduced]
def digits : List Digit :=
  [.num 0, .num 1, .num 2, .num 3, .num 4, .num 5, .num 6, .num 7, .num 8, .num 9, .star, .hash]

/-- An enumerated value is its place in the order its rule first lists its values (R59, R168). -/
def wIdx (n : Nat) : List Byte := w8 n

end Sys2Proof.Machine
end

