-- ==== Sys2Proof/Machine/Ops.lean ====
section
/-!
DEFINITION. Named reads and updates of State: one per block, the tables by port, fault record and channel, the derived
views the rules name, and the raising of notices (R174, R175), which every block uses.
-/

namespace Sys2Proof

/-! ## Tables -/

def PerPort.get {α : Type} (t : PerPort α) : Port → α
  | .a => t.a
  | .b => t.b

def PerPort.set {α : Type} (t : PerPort α) (p : Port) (x : α) : PerPort α :=
  match p with
  | .a => { t with a := x }
  | .b => { t with b := x }

/-- The other port. -/
def Port.other : Port → Port
  | .a => .b
  | .b => .a

def PerFault.get {α : Type} (t : PerFault α) : FaultId → α
  | .linkLoss => t.linkLoss
  | .trainFail => t.trainFail
  | .linkProtocol => t.linkProtocol
  | .impulseNoise => t.impulseNoise
  | .foreignVoltage => t.foreignVoltage
  | .leakage => t.leakage
  | .feedOvercurrentA => t.feedOvercurrentA
  | .feedOvercurrentB => t.feedOvercurrentB
  | .ringOverloadA => t.ringOverloadA
  | .ringOverloadB => t.ringOverloadB
  | .voiceCapacityA => t.voiceCapacityA
  | .voiceCapacityB => t.voiceCapacityB
  | .thermalWarn => t.thermalWarn
  | .thermalShutdown => t.thermalShutdown
  | .batteryFault => t.batteryFault
  | .settingsCorrupt => t.settingsCorrupt

def PerFault.set {α : Type} (t : PerFault α) (i : FaultId) (x : α) : PerFault α :=
  match i with
  | .linkLoss => { t with linkLoss := x }
  | .trainFail => { t with trainFail := x }
  | .linkProtocol => { t with linkProtocol := x }
  | .impulseNoise => { t with impulseNoise := x }
  | .foreignVoltage => { t with foreignVoltage := x }
  | .leakage => { t with leakage := x }
  | .feedOvercurrentA => { t with feedOvercurrentA := x }
  | .feedOvercurrentB => { t with feedOvercurrentB := x }
  | .ringOverloadA => { t with ringOverloadA := x }
  | .ringOverloadB => { t with ringOverloadB := x }
  | .voiceCapacityA => { t with voiceCapacityA := x }
  | .voiceCapacityB => { t with voiceCapacityB := x }
  | .thermalWarn => { t with thermalWarn := x }
  | .thermalShutdown => { t with thermalShutdown := x }
  | .batteryFault => { t with batteryFault := x }
  | .settingsCorrupt => { t with settingsCorrupt := x }

def PerChan.get {α : Type} (t : PerChan α) : Chan → α
  | .battV => t.battV
  | .battI => t.battI
  | .adapterV => t.adapterV
  | .lineTipE => t.lineTipE
  | .lineRingE => t.lineRingE
  | .lineTR => t.lineTR
  | .paV => t.paV
  | .paI => t.paI
  | .pbV => t.pbV
  | .pbI => t.pbI
  | .dieT => t.dieT
  | .ldI => t.ldI

def PerChan.set {α : Type} (t : PerChan α) (i : Chan) (x : α) : PerChan α :=
  match i with
  | .battV => { t with battV := x }
  | .battI => { t with battI := x }
  | .adapterV => { t with adapterV := x }
  | .lineTipE => { t with lineTipE := x }
  | .lineRingE => { t with lineRingE := x }
  | .lineTR => { t with lineTR := x }
  | .paV => { t with paV := x }
  | .paI => { t with paI := x }
  | .pbV => { t with pbV := x }
  | .pbI => { t with pbI := x }
  | .dieT => { t with dieT := x }
  | .ldI => { t with ldI := x }

/-- The channels in index order (7.1). -/
def allChans : List Chan :=
  [.battV, .battI, .adapterV, .lineTipE, .lineRingE, .lineTR, .paV, .paI, .pbV, .pbI, .dieT, .ldI]

def PerChan.toList {α : Type} (t : PerChan α) : List α := allChans.map t.get

def PerChan.mapAll {α β : Type} (f : Chan → α → β) (t : PerChan α) : PerChan β :=
  { battV := f .battV t.battV, battI := f .battI t.battI, adapterV := f .adapterV t.adapterV
    lineTipE := f .lineTipE t.lineTipE, lineRingE := f .lineRingE t.lineRingE, lineTR := f .lineTR t.lineTR
    paV := f .paV t.paV, paI := f .paI t.paI, pbV := f .pbV t.pbV, pbI := f .pbI t.pbI
    dieT := f .dieT t.dieT, ldI := f .ldI t.ldI }

end Sys2Proof

namespace Sys2Proof.Machine

/-! ## Updates, one per block -/

def State.modLe (s : State) (f : LE → LE) : State := { s with le := f s.le }
def State.modTt (s : State) (f : Tables → Tables) : State := { s with tt := f s.tt }
def State.modFt (s : State) (f : FT → FT) : State := { s with ft := f s.ft }
def State.modSs (s : State) (f : SS → SS) : State := { s with ss := f s.ss }
def State.modCc (s : State) (f : CC → CC) : State := { s with cc := f s.cc }
def State.modMu (s : State) (f : MU → MU) : State := { s with mu := f s.mu }
def State.modSup (s : State) (f : SUP → SUP) : State := { s with sup := f s.sup }
def State.modTu (s : State) (f : TU → TU) : State := { s with tu := f s.tu }
def State.modFs (s : State) (f : FS → FS) : State := { s with fs := f s.fs }
def State.modPlk (s : State) (f : PLK → PLK) : State := { s with plk := f s.plk }
def State.modSts (s : State) (f : STS → STS) : State := { s with sts := f s.sts }
def State.modSettings (s : State) (f : Settings → Settings) : State := { s with settings := f s.settings }

/-- The port record. -/
def State.port (s : State) (p : Port) : PP := s.ports.get p

def State.modPort (s : State) (p : Port) (f : PP → PP) : State :=
  { s with ports := s.ports.set p (f (s.ports.get p)) }

/-- The call record of a port. -/
def State.call (s : State) (p : Port) : CallRec := s.cc.recs.get p

def State.modCallRaw (s : State) (p : Port) (f : CallRec → CallRec) : State :=
  s.modCc fun c => { c with recs := c.recs.set p (f (c.recs.get p)) }

/-- A fault record. -/
def State.faultRec (s : State) (i : FaultId) : FaultRec := s.fs.recs.get i

def State.modFault (s : State) (i : FaultId) (f : FaultRec → FaultRec) : State :=
  s.modFs fun x => { x with recs := x.recs.set i (f (x.recs.get i)) }

/-- Policy and level of a record, in the FAULTS group (R154). -/
def State.faultSetting (s : State) (i : FaultId) : FaultSetting := s.settings.faults.records.get i

def State.modCounts (s : State) (f : SsCounts → SsCounts) : State := s.modSs fun x => { x with counts := f x.counts }

/-- Applies `f` when the condition holds. -/
def State.when (s : State) (c : Bool) (f : State → State) : State := if c then f s else s

/-! ## Profiles (R17) -/

/-- Order of restriction: FULL < TRIM < LIFELINE. -/
def profileMax (a b : Profile) : Profile := if a.ctorIdx < b.ctorIdx then b else a

/-- The more restrictive of the supply profile and the thermal limit. -/
def State.effProfile (s : State) : Profile := profileMax s.sup.profile (if s.le.thermalTrim then .trim else .full)

def Profile.level : Profile → Int
  | .full => 0
  | .trim => -3
  | .lifeline => -6

/-- Upstream bit cap. -/
def Profile.cap : Profile → Nat
  | .full => 10
  | .trim => 6
  | .lifeline => 4

/-- Upstream tone budget as checked: for LIFELINE, the 26 upstream tones (R7, R36). -/
def Profile.upBudget : Profile → Nat
  | .full => 26
  | .trim => 20
  | .lifeline => 26

/-! ## Views of the link -/

/-- The line driver runs in every state but IDLE and TEST_HOLD (1.1). -/
def LinkState.driverOn : LinkState → Bool
  | .idle | .testHold => false
  | _ => true

def State.inService (s : State) : Bool := s.le.link == .inService

/-- The reduced-margin flag: set exactly while the margin reduction is above 0 dB (R1). -/
def State.reducedMargin (s : State) : Bool := decide (0 < s.le.reduction)

/-- The margin in use in dB: target less reduction, never below 0 (R10). -/
def State.marginDb (s : State) : Nat := s.settings.line.marginTarget - s.le.reduction

/-- The margin in use in qdB, four times its dB value (R10). -/
def State.margin (s : State) : Int := 4 * (s.marginDb : Int)

def LineHold.isEmpty (h : LineHold) : Bool :=
  !(h.disabled || h.latched || h.foreign || h.thermal || h.test || h.supply)

def LineHold.onlyTest (h : LineHold) : Bool :=
  h.test && !(h.disabled || h.latched || h.foreign || h.thermal || h.supply)

def LineHold.has (h : LineHold) : LineMember → Bool
  | .disabled => h.disabled
  | .latched => h.latched
  | .foreign => h.foreign
  | .thermal => h.thermal
  | .test => h.test
  | .supply => h.supply

def LineHold.put (h : LineHold) (m : LineMember) (v : Bool) : LineHold :=
  match m with
  | .disabled => { h with disabled := v }
  | .latched => { h with latched := v }
  | .foreign => { h with foreign := v }
  | .thermal => { h with thermal := v }
  | .test => { h with test := v }
  | .supply => { h with supply := v }

def PortHold.isEmpty (h : PortHold) : Bool := !(h.fault || h.thermal || h.shed || h.test || h.disabled)

def PortHold.has (h : PortHold) : PortMember → Bool
  | .fault => h.fault
  | .thermal => h.thermal
  | .shed => h.shed
  | .test => h.test
  | .disabled => h.disabled

def PortHold.put (h : PortHold) (m : PortMember) (v : Bool) : PortHold :=
  match m with
  | .fault => { h with fault := v }
  | .thermal => { h with thermal := v }
  | .shed => { h with shed := v }
  | .test => { h with test := v }
  | .disabled => { h with disabled := v }

/-- Off-hook means OFF_HOOK or BREAK (6.1). -/
def Hook.isOff : Hook → Bool
  | .onHook => false
  | _ => true

/-! ## Notices (R175, R176) -/

/-- Raising a notice: while the link is open a new entry joins at the end of the raise order, and one present keeps its
place; while it is closed the notice is not entered and the notice sequence rises by 1. -/
def State.raise (s : State) (n : Notice) : State :=
  s.modPlk fun k =>
    if k.isOpen then (if k.notices.contains n then k else { k with notices := k.notices ++ [n] })
    else { k with noticeSeq := (k.noticeSeq + 1) % 256 }

/-- Raises the notice when the condition holds. -/
def State.raiseIf (s : State) (c : Bool) (n : Notice) : State := if c then s.raise n else s

end Sys2Proof.Machine
end

