-- ==== Sys2Proof/Machine/OpsSched.lean ====
section
/-!
DEFINITION. Shared operations of the superframe scheduler: placing messages (R69), answering the far end (R73),
granting and ending transactions (R70 to R72).
-/

namespace Sys2Proof.Machine

/-! ## Small tables -/

def Repeats.get (r : Repeats) : FarType → Repeat
  | .alert => r.alert
  | .clear => r.clear
  | .answered => r.answered
  | .upTable => r.upTable
  | .retrain => r.retrain
  | .testReq => r.testReq
  | .beaconClear => r.beaconClear

def Repeats.set (r : Repeats) (t : FarType) (x : Repeat) : Repeats :=
  match t with
  | .alert => { r with alert := x }
  | .clear => { r with clear := x }
  | .answered => { r with answered := x }
  | .upTable => { r with upTable := x }
  | .retrain => { r with retrain := x }
  | .testReq => { r with testReq := x }
  | .beaconClear => { r with beaconClear := x }

def Results.get (r : Results) : ResultId → LastResult
  | .lineForeign => r.lineForeign
  | .lineInsulation => r.lineInsulation
  | .portLoopA => r.portLoopA
  | .portLoopB => r.portLoopB

def Results.set (r : Results) (i : ResultId) (x : LastResult) : Results :=
  match i with
  | .lineForeign => { r with lineForeign := x }
  | .lineInsulation => { r with lineInsulation := x }
  | .portLoopA => { r with portLoopA := x }
  | .portLoopB => { r with portLoopB := x }

def allResults : List ResultId := [.lineForeign, .lineInsulation, .portLoopA, .portLoopB]

/-! ## The outbound queue (R69) -/

def OutMsg.isSend (m : OutMsg) : Bool :=
  match m.who with
  | .send _ => true
  | _ => false

/-- A message joins the queue, cut into cells with the next management unit sequence (R60). A send joins whatever the
queue holds, which can come to 33 messages (R69; DESIGN CHOICE, log 52). -/
def SS.enqueue (x : SS) (who : Sender) (msg : List Byte) : SS :=
  { x with
    outQueue := x.outQueue ++ [{ who := who, cells := cellsOf x.mgmtSeq msg, started := false }]
    mgmtSeq := (x.mgmtSeq + 1) % 256 }

/-- Answers and unanswered messages together hold at most 24 places (R69). -/
def SS.answersFull (x : SS) : Bool :=
  Config.answerPlaces ≤ (x.outQueue.filter fun m => !m.isSend).length

/-- Placing an answer; one that finds the queue full is dropped and counted. Outside IN_SERVICE there is nothing to
answer (R69, R74). -/
def State.placeAnswer (s : State) (t : Option FarType) (number : Byte) (positive : Bool) (msg : List Byte) : State :=
  if !s.inService then s
  else if s.ss.answersFull then s.modCounts fun c => { c with answersDropped := inc32 c.answersDropped }
  else s.modSs fun x => x.enqueue (.answer t number positive) msg

/-- Placing an unanswered message; the second component says whether it was placed. -/
def State.placeUnanswered (s : State) (who : Sender) (msg : List Byte) : State × Bool :=
  if !s.inService || s.ss.answersFull then
    (s.modCounts fun c => { c with unansweredDropped := inc32 c.unansweredDropped }, false)
  else (s.modSs fun x => x.enqueue who msg, true)

/-- An owner's answer to a far-end request (R73): stored in the repeat record while its last number is the request's,
and placed. Formed after the flush, it is discarded (R74). -/
def State.answer (s : State) (t : FarType) (number : Byte) (positive : Bool) (body : List Byte) : State :=
  if !s.inService then s
  else
    let msg := message (if positive then codeAck else codeNak) number.toNat body
    let r := s.ss.repeats.get t
    let s := if r.last = some number
      then s.modSs fun x => { x with repeats := x.repeats.set t { r with answer := .held positive msg } }
      else s
    s.placeAnswer (some t) number positive msg

def State.answerAck (s : State) (t : FarType) (number : Byte) (body : List Byte) : State := s.answer t number true body

def State.answerNak (s : State) (t : FarType) (number : Byte) (c : NakCause) : State :=
  s.answer t number false (w8 c.code)

/-! ## Transactions (R70 to R72) -/

/-- The number a granted entry takes: the next one not in use (R70). -/
def SS.freeNumber (x : SS) : Nat :=
  (((List.range 16).map fun i => (x.nextNumber + i) % 16).find? fun n => !(x.txs.any fun t => t.number == n)).getD
    x.nextNumber

/-- What the grant tells the owner: PROFILE's 2 s start when it is sent (R18); a change in flight learns its number
(R23); a waiting report is in flight (R150). -/
def State.granted (s : State) (r : TxReq) (n : Nat) : State :=
  match r.kind with
  | .profile =>
    if r.tag = 1 then
      s.modLe fun x => { x with pending := x.pending.map fun p => { p with timer := some Config.profileMs } }
    else s
  | .swap | .rate =>
    s.modTt fun x =>
      { x with inFlight :=
          match x.inFlight with
          | .none => .none
          | .swap d c _ e => .swap d c (some n) e
          | .rate m _ e => .rate m (some n) e }
  | .testResult =>
    match allResults.find? fun i => (s.tu.results.get i).serial == r.tag with
    | none => s
    | some i =>
      let rec' := s.tu.results.get i
      if rec'.report = .waiting then
        (s.modTu fun x => { x with results := x.results.set i { rec' with report := .inFlight } }).raise .test
      else s
  | _ => s

/-- Granting a request an entry: its first send is placed (R70). -/
def State.grant (s : State) (r : TxReq) : State :=
  let n := s.ss.freeNumber
  let s := s.modSs fun x =>
    SS.enqueue
      { x with txs := x.txs ++ [{ req := r, number := n, sends := 1, timeLeft := none }], nextNumber := (n + 1) % 16 }
      (.send n) (message r.kind.code n r.body)
  s.granted r n

/-- A block's request for a transaction: granted at once, or waiting its turn (R70). -/
def State.requestTx (s : State) (kind : TxKind) (port : Option Port) (body : List Byte) (tag : Nat := 0) : State :=
  let r : TxReq := { kind := kind, port := port, body := body, tag := tag }
  if s.inService && decide (s.ss.txs.length < Config.maxTransactions) && s.ss.waiting.isEmpty then s.grant r
  else s.modSs fun x => { x with waiting := x.waiting ++ [r] }

def grantList : List TxReq → State → State
  | [], s => s
  | r :: rs, s =>
    if s.inService && decide (s.ss.txs.length < Config.maxTransactions) then grantList rs (s.grant r)
    else s.modSs fun x => { x with waiting := (r :: rs) ++ x.waiting }

/-- Each time an entry becomes free, or the link enters IN_SERVICE, waiting requests are granted, oldest first (R70). -/
def State.grantWaiting (s : State) : State :=
  grantList s.ss.waiting (s.modSs fun x => { x with waiting := [] })

/-- A request not yet granted is withdrawn. -/
def State.withdraw (s : State) (p : TxReq → Bool) : State :=
  s.modSs fun x => { x with waiting := x.waiting.filter fun r => !p r }

/-- Whether a request of this kind and port still waits for an entry. -/
def State.txWaits (s : State) (kind : TxKind) (port : Option Port) : Bool :=
  s.ss.waiting.any fun r => r.kind == kind && r.port == port

/-- A transaction ends: its entry is freed, and its send, if none of its cells has been placed, is removed
(R69, R72). -/
def State.freeEntry (s : State) (n : Nat) : State :=
  s.modSs fun x =>
    { x with txs := x.txs.filter fun t => t.number != n
             outQueue := x.outQueue.filter fun m => !(m.who == .send n && !m.started) }

end Sys2Proof.Machine
end

