-- ==== Sys2Proof/Machine/OpsFault.lean ====
section
/-!
DEFINITION. Shared operations of the fault supervisor on its records: the paths of a record (R155 to R157), the
history (R160), the pin (R161), eligibility and the beacons (R162, R163). What an action does to other blocks is
applied by the callers above (R158).
-/

namespace Sys2Proof.Machine

/-! ## Places and values -/

def FaultId.voiceCapacity : Port → FaultId
  | .a => .voiceCapacityA
  | .b => .voiceCapacityB

def FaultId.feedOvercurrent : Port → FaultId
  | .a => .feedOvercurrentA
  | .b => .feedOvercurrentB

def FaultId.ringOverload : Port → FaultId
  | .a => .ringOverloadA
  | .b => .ringOverloadB

/-- Condition classes; the others are event classes (R154). -/
def FaultId.isCondition : FaultId → Bool
  | .trainFail | .impulseNoise | .foreignVoltage | .leakage | .thermalWarn | .thermalShutdown | .batteryFault => true
  | _ => false

/-- Allowed policies (R154). -/
def FaultId.allows : FaultId → Policy → Bool
  | .linkLoss, p | .foreignVoltage, p | .feedOvercurrentA, p | .feedOvercurrentB, p | .ringOverloadA, p
  | .ringOverloadB, p => p != .silent
  | .trainFail, p => p == .report || p == .latched || p == .silent
  | .linkProtocol, p | .impulseNoise, p | .leakage, p | .voiceCapacityA, p | .voiceCapacityB, p
  | .batteryFault, p => p == .report || p == .silent
  | .thermalWarn, p => p == .report || p == .retrySlow
  | .thermalShutdown, p => p == .retrySlow
  | .settingsCorrupt, p => p == .report

/-- Records in ACTIVE, RETRY_WAIT or LATCHED. -/
def FaultState.isOpen : FaultState → Bool
  | .active | .retryWait | .latched => true
  | _ => false

/-- The retry time of a run policy (R155). -/
def Policy.retryMs : Policy → Nat
  | .retryFast => 500
  | _ => 5000

/-- R161: except while the part is dormant, the pin is asserted exactly while a record in ACTIVE, RETRY_WAIT or
LATCHED has a level at or above the pin threshold. -/
def State.faultPin (s : State) : Bool :=
  !s.dormant && allFaults.any fun i =>
    (s.faultRec i).state.isOpen && decide (s.settings.faults.pinThreshold ≤ (s.faultSetting i).level)

/-! ## History (R160) -/

/-- An entry joins the ring, overwriting the oldest of 32, and the FAULT notice is raised for a record at or above the
notice threshold (R161). -/
def State.historyAdd (s : State) (i : FaultId) (t : Transition) (v : Option Int) : State :=
  let e : HistEntry := { seq := s.fs.nextSeq, uptime := s.uptime, record := i, transition := t, value := v }
  let s := s.modFs fun x =>
    let h := x.history ++ [e]
    { x with history := h.drop (h.length - 32), nextSeq := (x.nextSeq + 1) % 65536 }
  s.raiseIf (decide (s.settings.faults.noticeThreshold ≤ (s.faultSetting i).level)) .fault

/-- An occurrence that the policy does not ignore (R154). -/
def FaultRec.occur (r : FaultRec) (now : BitVec 32) (v : Option Int) : FaultRec :=
  { r with count := satInc 255 r.count, lastSeen := some now, firstSeen := r.firstSeen <|> some now
           value := v <|> r.value }

/-- A change of a record's state with its history entry; the run ends at RECOVERED or CLEAR (R154). -/
def State.faultMove (s : State) (i : FaultId) (st : FaultState) (run : Option Policy) (retry : Timer)
    (t : Transition) (v : Option Int) : State :=
  (s.modFault i fun r => { r with state := st, run := run, retry := retry }).historyAdd i t v

def State.faultOccur (s : State) (i : FaultId) (v : Option Int) : State :=
  s.modFault i fun r => r.occur s.uptime v

/-- What a record's move asks of its protective action (R158). -/
inductive Act where
  | none | apply | lift
  deriving DecidableEq, Repr

/-! ## Paths -/

/-- LINK_LOSS holds no retry timer (R157). -/
def FaultId.retryTimer (i : FaultId) (p : Policy) : Timer := if i = .linkLoss then none else some (Policy.retryMs p)

/-- An event reported to an event record (R156, R157). -/
def State.faultEventCore (s : State) (i : FaultId) (v : Option Int) : State × Act :=
  let r := s.faultRec i
  match r.state with
  | .clear | .recovered =>
    match (s.faultSetting i).policy with
    | .silent => (s, .none)
    | .report => ((s.faultOccur i v).faultMove i .recovered none none .raised v, .none)
    | .latched => ((s.faultOccur i v).faultMove i .latched (some .latched) none .latched v, .apply)
    | p => ((s.faultOccur i v).faultMove i .retryWait (some p) (FaultId.retryTimer i p) .raised v, .apply)
  | .retryWait =>
    let p := r.run.getD (s.faultSetting i).policy
    ((s.faultOccur i v).faultMove i .retryWait r.run (FaultId.retryTimer i p) .raised v, .none)
  | .latched => ((s.faultOccur i v).historyAdd i .raised v, .none)
  | .active => (s, .none)

/-- A condition record raised from CLEAR or RECOVERED by its policy (R155, R165). -/
def State.faultRaise (s : State) (i : FaultId) (v : Option Int) : State × Act :=
  match (s.faultSetting i).policy with
  | .silent => (s, .none)
  | .report => ((s.faultOccur i v).faultMove i .active (some .report) none .raised v, .none)
  | .latched => ((s.faultOccur i v).faultMove i .latched (some .latched) none .latched v, .apply)
  | p => ((s.faultOccur i v).faultMove i .active (some p) none .raised v, .apply)

/-- A report of a condition (R155). One equal to the condition as it stands changes nothing. -/
def State.faultConditionCore (s : State) (i : FaultId) (present : Bool) (v : Option Int) : State × Act :=
  let r := s.faultRec i
  if r.condition = present then (s, .none)
  else
    let s := s.modFault i fun r => { r with condition := present }
    if present then
      match r.state with
      | .clear | .recovered => s.faultRaise i v
      | .retryWait => ((s.faultOccur i v).faultMove i .active r.run none .resumed v, .none)
      | .latched => ((s.faultOccur i v).historyAdd i .raised v, .none)
      | .active => (s, .none)
    else
      match r.state with
      | .active =>
        match r.run with
        | some .retryFast => (s.faultMove i .retryWait r.run (some (Policy.retryMs .retryFast)) .retryStarted v, .none)
        | some .retrySlow => (s.faultMove i .retryWait r.run (some (Policy.retryMs .retrySlow)) .retryStarted v, .none)
        | _ => (s.faultMove i .recovered none none .recovered v, .none)
      | _ => (s, .none)

/-- A report to a class without protective action: LINK_PROTOCOL, VOICE_CAPACITY, SETTINGS_CORRUPT (R154). -/
def State.faultEvent (s : State) (i : FaultId) : State := (s.faultEventCore i none).1

/-- A report to a condition class without protective action: IMPULSE_NOISE, LEAKAGE, BATTERY_FAULT (R154). -/
def State.faultCondition (s : State) (i : FaultId) (present : Bool) (v : Option Int) : State :=
  (s.faultConditionCore i present v).1

/-- LINK_LOSS through a retrain (R157): start of retraining. The entries of the three reports of this path carry the
record's last value (R160; DESIGN CHOICE, log 67). -/
def State.linkLossRetraining (s : State) : State :=
  let r := s.faultRec .linkLoss
  if r.state = .retryWait then s.faultMove .linkLoss .active r.run none .resumed r.value else s

/-- LINK_LOSS (R157): attempt failure with entry to RETRAIN_WAIT. -/
def State.linkLossFailed (s : State) : State :=
  let r := s.faultRec .linkLoss
  if r.state = .active then s.faultMove .linkLoss .retryWait r.run none .retryStarted r.value else s

/-- LINK_LOSS (R157): entry to IN_SERVICE. -/
def State.linkLossOver (s : State) : State :=
  let r := s.faultRec .linkLoss
  if r.state = .active || r.state = .retryWait then s.faultMove .linkLoss .recovered none none .recovered r.value
  else s

/-- A record cleared or silenced: an end report in flight for it will change nothing (R164, R166). -/
def State.voidEndReport (s : State) (i : FaultId) : State :=
  if s.fs.endReport = some i then s.modFs fun x => { x with endVoid := true } else s

/-- FAULT_CLEAR of one record (R166): what it does to the record, and whether its action is lifted. -/
def State.faultClearCore (s : State) (i : FaultId) : State × Act :=
  let r := s.faultRec i
  let cleared := fun (s : State) =>
    (s.historyAdd i .cleared r.value).modFault i fun x =>
      { Reset.faultRec with condition := x.condition }
  match r.state with
  | .recovered => ((cleared s).voidEndReport i, .none)
  | .latched => if r.condition then (s, .none) else ((cleared s).voidEndReport i, .lift)
  | _ => (s, .none)

/-! ## Beacons (R162, R163) -/

/-- R162. -/
def State.eligible (s : State) (i : FaultId) : Bool :=
  let r := s.faultRec i
  r.state.isOpen && decide (s.settings.faults.beaconThreshold ≤ (s.faultSetting i).level) && !r.silenced

/-- R163: owed and not eligible. -/
def State.endDue (s : State) (i : FaultId) : Bool := (s.faultRec i).owed && !s.eligible i

/-- Whether `i` is named before `j`: higher level, then earlier first-seen; the earlier in the table otherwise, since
records are compared in its order (R161, R162). -/
def State.outranks (s : State) (i j : FaultId) : Bool :=
  let li := (s.faultSetting i).level
  let lj := (s.faultSetting j).level
  let fi := ((s.faultRec i).firstSeen.map BitVec.toNat).getD 4294967296
  let fj := ((s.faultRec j).firstSeen.map BitVec.toNat).getD 4294967296
  decide (lj < li) || (li == lj && decide (fi < fj))

/-- The highest record of those given in table order. -/
def State.highest (s : State) : List FaultId → Option FaultId
  | [] => none
  | i :: t =>
    match s.highest t with
    | none => some i
    | some j => if s.outranks j i then some j else some i

/-- The body of a FAULT_BEACON (R162). -/
def State.beaconBody (s : State) (ended : Bool) (i : FaultId) : List Byte :=
  let r := s.faultRec i
  let others := (allFaults.filter fun j => j != i && s.eligible j).length
  wIdx (if ended then 1 else 0) ++ wFault i ++ w8 (s.faultSetting i).level ++ wIdx r.state.ctorIdx
    ++ wBV (r.firstSeen.getD 0) ++ w8 r.count ++ w8 others
    ++ i16 (s.sup.battV.getD Config.unstatedAverage)

/-- A record that becomes eligible sets its owed flag; as an eligible record keeps it set until it stops being
eligible, setting it on every eligible record says the same (R162). -/
def State.refreshOwed (s : State) : State :=
  allFaults.foldl (fun s i => if s.eligible i then s.modFault i fun r => { r with owed := true } else s) s

/-- R163: while the link is IN_SERVICE, with no end report in flight and the spacing timer stopped, the highest
end-due record gets its ENDED beacon. -/
def State.endReports (s : State) : State :=
  if s.inService && s.fs.endReport.isNone && s.fs.spacing.isNone then
    match s.highest (allFaults.filter s.endDue) with
    | none => s
    | some i =>
      let (s, placed) := s.placeUnanswered (.ended i) (message codeBeacon 0 (s.beaconBody true i))
      s.modFs fun x =>
        { x with endReport := if placed then some i else none, endVoid := false, spacing := some 1000 }
  else s

/-- R162: the periodic beacon, for the highest eligible record. -/
def State.periodicBeacon (s : State) : State :=
  if s.inService then
    match s.highest (allFaults.filter s.eligible) with
    | none => s
    | some i => (s.placeUnanswered .beacon (message codeBeacon 0 (s.beaconBody false i))).1
  else s

/-- R163: the ENDED beacon of a record has been carried. For a record cleared or silenced meanwhile the carriage changes
nothing (R164, R166). What counts is whether it is eligible at the carriage (DESIGN CHOICE, log 91). -/
def State.endCarried (s : State) (i : FaultId) : State :=
  let s := if s.fs.endVoid || s.eligible i then s else s.modFault i fun r => { r with owed := false }
  s.modFs fun x => { x with endReport := none, endVoid := false }

end Sys2Proof.Machine
end

