-- ==== Sys2Proof/Machine/OpsTable.lean ====
section
/-!
DEFINITION. The arithmetic of chapters 2 and 3 on tone tables and windows: bit loading, budgets, the lifeline need,
totals and payloads, gated symbols and schedules.
-/

namespace Sys2Proof.Machine

/-! ## Windows (R43, R46, R47) -/

/-- Whether a symbol lies in a window of the schedule: its windows start at `origin` plus any whole number of periods,
each `width` long (3.4). The windows run on both sides of `origin`: the tail of one that begins before the first symbol
of an anchor superframe is an agreed window within it (DESIGN CHOICE, log 80). -/
def Sched.covers (c : Sched) (x : Sym) : Bool := decide (dist x c.origin % (c.period : Int) < (c.width : Int))

/-- The agreed width W: that of the schedule in force while the agreement is in force, else 0 (R47). -/
def State.agreedWidth (s : State) : Nat :=
  match s.ft.agreement with
  | some a => if a.active then a.cur.width else 0
  | none => 0

/-- Whether a symbol lies in an agreed window in force (R47). -/
def State.inAgreed (s : State) (x : Sym) : Bool :=
  match s.ft.agreement with
  | some a => a.active && a.cur.covers x
  | none => false

def Window.covers (w : Window) (x : Sym) : Bool :=
  decide (0 ≤ dist x w.start) && decide (dist x w.start < (w.width : Int))

/-- The predicted window that runs or is next to begin, while LOCKED (R43). -/
def State.predicted (s : State) : Option Window :=
  match s.ft.tracking, s.ft.window, s.ft.next with
  | .locked, some w, _ => some w
  | .locked, none, some n =>
    some { start := n - 1, width := s.settings.gate.windowWidth, caught := false }
  | _, _, _ => none

def State.inPredicted (s : State) (x : Sym) : Bool :=
  match s.predicted with
  | some w => w.covers x
  | none => false

/-- R46: gated is in a predicted window while LOCKED, or in a window of the schedule in force. -/
def State.gated (s : State) (x : Sym) : Bool := s.inPredicted x || s.inAgreed x

/-- Whether the symbol now on the line is gated (R84, R120); there is none while the driver is off. -/
def State.gatedNow (s : State) : Bool := s.le.link.driverOn && s.gated s.le.sym

/-- The count g of the present superframe's payload symbols that an agreed window empties (R30, R47). -/
def State.emptied (s : State) : Nat :=
  ((List.range 39).filter fun k => s.inAgreed (s.le.sfStart + BitVec.ofNat 32 (k + 1))).length

/-- Tracker state as reported: AGREED while an agreement is in force, otherwise the tracking status (3.1). -/
def State.tracker (s : State) : Tracker :=
  if (s.ft.agreement.map (·.active)).getD false then .agreed
  else match s.ft.tracking with
    | .searching => .searching
    | .locked => .locked

/-! ## Bit loading (R27 to R29) -/

/-- R23: m = s - G - 12b for a loaded tone. -/
def ToneRec.margin (t : ToneRec) : Option Int :=
  if t.b = 0 then none else some ((t.s : Int) - Config.gap - 12 * t.b)

/-- R27: the bits the headroom s - G - M gives one tone. -/
def toneBits (m : Int) (s : Nat) (masked : Bool) : Nat :=
  let b := ((s : Int) - Config.gap - m) / 12
  if masked || b < 2 then 0 else if 12 < b then 12 else b.toNat

/-- The bits of the loaded tones that stand before tone `i` carrying `b`, when loaded tones are ordered by bits,
largest first, and by rising index among equals (R28, R29). -/
def bitsBefore (bits : List Nat) (i b : Nat) : List Nat :=
  (bits.zipIdx.filter fun (c, j) => decide (c ≠ 0) && (decide (b < c) || (c == b && decide (j < i)))).map (·.1)

/-- A tone budget: a count of tones (R28), or a need the tones kept must reach (R29). -/
inductive Budget where
  | count (k : Nat) | need (n : Nat)
  deriving DecidableEq, Repr

def Budget.keeps (g : Budget) (bits : List Nat) (i b : Nat) : Bool :=
  match g with
  | .count k => decide ((bitsBefore bits i b).length < k)
  | .need n => decide ((bitsBefore bits i b).sum < n)

/-- The budget only removes tones: those kept carry what R27 gave them (R28). -/
def Budget.apply (g : Budget) (bits : List Nat) : List Nat :=
  bits.zipIdx.map fun (b, i) => if g.keeps bits i b then b else 0

/-- R27 on every tone. -/
def loadBits (m : Int) (ss : List Nat) (mask : List Bool) : List Nat :=
  List.zipWith (fun s k => toneBits m s k) ss mask

def loadedTones (bits : List Nat) : Nat := (bits.filter fun b => decide (b ≠ 0)).length

/-- R29: the larger of 16 and ceil(8 (40 n + 64) / (39 - W)). -/
def lifelineNeed (n w : Nat) : Nat := max 16 (ceilDiv (8 * (40 * n + 64)) (39 - w))

def State.need (s : State) : Nat := lifelineNeed s.cc.nReported s.agreedWidth

/-- The downstream budget of a profile (R28, R29). -/
def State.budget (s : State) (p : Profile) : Budget :=
  match p with
  | .full => .count 224
  | .trim => .count 160
  | .lifeline => .need s.need

/-- R27 and R28: a computed table's bits, from the smoothed values given, the margin in use, a mask and a profile. -/
def State.loadDown (s : State) (snr : List Nat) (mask : List Bool) (p : Profile) : List Nat :=
  (s.budget p).apply (loadBits s.margin snr mask)

/-- R27 and R28 from the current smoothed values. -/
def State.computeDown (s : State) (mask : List Bool) (p : Profile) : List Nat :=
  s.loadDown (s.tt.down.map (·.s)) mask p

/-- The budget K as a count of tones; for LIFELINE, the count R29 takes from the table R27 gives. -/
def State.budgetCount (s : State) (p : Profile) : Nat :=
  match p with
  | .full => 224
  | .trim => 160
  | .lifeline =>
    loadedTones ((s.budget .lifeline).apply
      (loadBits s.margin (s.tt.down.map (·.s)) s.settings.line.requestedMask))

/-! ## Totals and payload (R30) -/

def total (t : List ToneRec) : Nat := (t.map (·.b)).sum

/-- floor(B (39 - g) / 8). -/
def payloadBytes (b g : Nat) : Nat := b * (39 - g) / 8

def State.pMinDown (s : State) : Nat := payloadBytes (total s.tt.down) s.agreedWidth
def State.pMinUp (s : State) : Nat := payloadBytes (total s.tt.up) s.agreedWidth

/-! ## Masks (R37) -/

/-- The mask in force changes; the marks of the running table follow it (R23). -/
def State.setMaskInForce (s : State) (mask : List Bool) : State :=
  s.modTt fun x =>
    { x with maskInForce := mask, down := List.zipWith (fun t k => { t with masked := k }) x.down mask }

/-- The tones a list of ranges names, as flags from tone 32 on. -/
def rangeFlags (ranges : List (Nat × Nat)) : List Bool :=
  (List.range 224).map fun i => ranges.any fun r => decide (r.1 ≤ i + 32) && decide (i + 32 ≤ r.2)

/-- Writing bits into a table, tone by tone. -/
def setBits (t : List ToneRec) (bits : List Nat) : List ToneRec := List.zipWith (fun r b => { r with b := b }) t bits

/-! ## Schedules (R48) -/

/-- The first window start at or after `target`, from a window starting at `start` and period `p`. -/
def firstWindowFrom (start : Sym) (p : Nat) (target : Sym) : Sym :=
  let d := dist target start
  if d ≤ 0 then start else start + BitVec.ofNat 32 (ceilDiv d.toNat p * p)

/-- The schedule of a GATE_SET placed now (R48): the anchor is the superframe that contains the first predicted window
beginning at or after the first symbol of superframe c + 64. -/
def State.formSchedule (s : State) (p : Nat) (next : Sym) : Sched :=
  let target := s.le.sfStart + BitVec.ofNat 32 (40 * Config.gateLead)
  let start := firstWindowFrom (next - 1) p target
  let d := (dist start s.le.sfStart).toNat
  { period := p, width := s.settings.gate.windowWidth, anchor := s.le.sf + BitVec.ofNat 32 (d / 40)
    offset := d % 40, origin := start }

/-- The body of a GATE_SET: P, width, anchor and offset (R48, R59). -/
def Sched.body (c : Sched) : List Byte := w16 c.period ++ w8 c.width ++ wBV c.anchor ++ w8 c.offset

end Sys2Proof.Machine
end

