-- ==== Sys2Proof/Machine/OpsPort.lean ====
section
/-!
DEFINITION. Shared operations of a phone port: entering a feed state, ringing, polarity, audio, the digit list. What a
port tells the call controller is done by the callers above.
-/

namespace Sys2Proof.Machine

/-- Entering a feed state, a fresh one or the same again (RESTART PORTS in STANDBY, R92, which then arms the overcurrent
detector too: DESIGN CHOICE, log 60): both blanking intervals start, runs in progress are discarded, and the detectors
of R89 and R90 are armed (R82, R84, R89, R90). Entry to POLARITY_SWAP clears the tone detector and starts the 20 ms
(R81, R87). A local tone that plays in the feed entered starts at the beginning of its on time (R91). -/
def PP.enter (x : PP) (f : Feed) : PP :=
  { x with
    feed := f
    toneMs := 0
    swapTimer := if f = .polaritySwap then some 20 else none
    detect := { x.detect with
      blank := 30, offRun := 0, tripRun := 0, ocBlank := 20, ocRun := 0, ocMax := 0, ocArmed := true
      roMs := 0, roPeak := 0, roRun := 0, roMax := 0, roArmed := true
      toneArmed := x.detect.toneArmed || f == .polaritySwap } }

/-- A pulse train is discarded; with a count above 0 it is counted (R86). -/
def PP.discardTrain (x : PP) : PP :=
  { x with
    pulses := 0
    detect := { x.detect with make := none }
    counts := if x.pulses = 0 then x.counts
      else { x.counts with trainsDiscarded := inc32 x.counts.trainsDiscarded } }

/-- Hook ON_HOOK with pulse count, tone detector and every run cleared (R78, R92). -/
def PP.clearHook (x : PP) : PP :=
  let x := x.discardTrain
  { x with hook := .onHook, detect := { x.detect with breakMs := 0, onHookDue := false, offRun := 0, tripRun := 0
                                                      toneArmed := true } }

/-- The six service states (R78). -/
def Feed.inService : Feed → Bool
  | .disconnected | .protect | .testing => false
  | _ => true

def Feed.isTalk : Feed → Bool
  | .active | .reversed => true
  | _ => false

def Feed.isRinging : Feed → Bool
  | .ringing | .ringPause => true
  | _ => false

/-- A cadence by its number (5.4). -/
def Cadences.get (c : Cadences) : Nat → Cadence
  | 0 => c.c0
  | 1 => c.c1
  | 2 => c.c2
  | _ => c.c3

def Cadences.set (c : Cadences) (n : Nat) (x : Cadence) : Cadences :=
  match n with
  | 0 => { c with c0 := x }
  | 1 => { c with c1 := x }
  | 2 => { c with c2 := x }
  | _ => { c with c3 := x }

/-- The ringing voltage: 60 Vrms, and 50 Vrms while the supply mode is RESERVE (R82). -/
def State.ringVolts (s : State) : Nat := if s.sup.mode = .reserve then 50 else 60

/-- A burst start at a pair of a cadence: the feed goes to RINGING with the pair's on time (R82). -/
def State.burstStart (s : State) (p : Port) (pairs : Cadence) (k : Nat) : State :=
  s.modPort p fun x =>
    { x.enter .ringing with
      cadence := some { pairs := pairs, pair := k, on := true, timeLeft := ((pairs[k]?).getD (0, 0)).1
                        restart := false, volts := s.ringVolts, freq := (s.settings.ports.get p).frequency } }

/-- R82: while a ring request is present, ring inhibit is clear and the feed is STANDBY, the feed goes to RINGING. -/
def State.ringIfDue (s : State) (p : Port) : State :=
  let x := s.port p
  match x.ringRequest with
  | some c =>
    if x.feed = .standby && !x.ringInhibit then s.burstStart p (Cadences.get s.settings.cadences c) 0 else s
  | none => s

/-- R82: a ring request is taken in STANDBY, RINGING and RING_PAUSE and refused in any other feed state; one naming
another cadence while the port rings applies from the end of the phase in progress. -/
def State.ringPort (s : State) (p : Port) (c : Nat) : State :=
  let x := s.port p
  if x.feed = .standby then (s.modPort p fun x => { x with ringRequest := some c }).ringIfDue p
  else if x.feed.isRinging then
    s.modPort p fun x =>
      { x with
        ringRequest := some c
        cadence := x.cadence.map fun k => { k with restart := k.restart || x.ringRequest != some c } }
  else s

/-- R82: a withdrawn ring request ends ringing. -/
def State.ringOff (s : State) (p : Port) : State :=
  s.modPort p fun x =>
    let x := { x with ringRequest := none, cadence := none }
    if x.feed.isRinging then x.enter .standby else x

/-- R90: ring inhibit is set; ringing stops at once and the request stays. -/
def State.inhibitRing (s : State) (p : Port) : State :=
  let s := s.raiseIf (!(s.port p).ringInhibit) (.hook p)
  s.modPort p fun x =>
    let x := { x with ringInhibit := true }
    if x.feed.isRinging then { x.enter .standby with cadence := none } else x

/-- R90: ring inhibit is cleared; a request that waits in STANDBY rings. -/
def State.uninhibitRing (s : State) (p : Port) : State :=
  let s := s.raiseIf (s.port p).ringInhibit (.hook p)
  (s.modPort p fun x => { x with ringInhibit := false }).ringIfDue p

/-- R81: when the wanted polarity differs from that of the feed in ACTIVE or REVERSED, the feed goes to
POLARITY_SWAP. -/
def PP.polarity (x : PP) : PP :=
  match x.feed, x.wanted with
  | .active, .reversed => x.enter .polaritySwap
  | .reversed, .normal => x.enter .polaritySwap
  | _, _ => x

/-- R81: the wanted polarity is taken only in ACTIVE, REVERSED and POLARITY_SWAP. -/
def State.setWanted (s : State) (p : Port) (w : Polarity) : State :=
  s.modPort p fun x =>
    if x.feed.isTalk || x.feed == .polaritySwap then PP.polarity { x with wanted := w } else x

/-- R91: the audio source and local tone a port is told; a local tone that begins to play starts at the beginning of its
on time and clears the tone detector (R87). The same tone named again while it is the tone of source NONE is no new
start (DESIGN CHOICE, log 48). -/
def State.setAudio (s : State) (p : Port) (a : Audio) (t : Tone) : State :=
  s.modPort p fun x =>
    let starts := t != .none && a == .none && (x.tone != t || x.audio != .none)
    { x with audio := a, tone := t, toneMs := if starts then 0 else x.toneMs
             detect := { x.detect with toneArmed := x.detect.toneArmed || starts } }

/-- R91: the on and off times of a local tone's 450 Hz, in ms. -/
def Tone.times : Tone → Nat × Nat
  | .none => (0, 1)
  | .noService => (1, 0)
  | .congestion => (200, 200)
  | .busy => (400, 400)
  | .ringback => (1000, 4000)

/-- R91: the port plays its local tone only while the audio source is NONE and the feed is ACTIVE or REVERSED. -/
def PP.playsTone (x : PP) : Bool := x.audio == .none && x.feed.isTalk && x.tone != .none

/-- One millisecond of the tone's on and off times, which repeat; it runs only while the tone plays (R91). -/
def PP.toneNext (x : PP) : Nat :=
  if x.playsTone then (x.toneMs + 1) % (x.tone.times.1 + x.tone.times.2) else x.toneMs

/-- What a handset hears (R91): the far end's audio of the call's voice slot, absent where the slot was not carried; the
other port's audio; 450 Hz; or nothing. -/
inductive Heard where
  | farEnd (slot : Option (List Byte)) | otherPort | hz450 | silence
  deriving DecidableEq, Repr

/-- R91: what the handset of a port hears. Nothing is played outside ACTIVE and REVERSED. -/
def PP.heard (x : PP) : Heard :=
  if !x.feed.isTalk then .silence
  else match x.audio with
    | .line => .farEnd x.voice
    | .intercom => .otherPort
    | .none => if x.toneMs < x.tone.times.1 then .hz450 else .silence

/-- R88: the list is emptied and its overflow flag cleared. -/
def PP.emptyDigits (x : PP) : PP := { x with digits := [], overflow := false }

/-- R88: a recognised digit joins the tail marked PENDING; with 32 entries held it is discarded and the overflow flag is
set, which raises DIGITS where it was clear (DESIGN CHOICE, log 85). The second component says whether it joined. -/
def State.addDigit (s : State) (p : Port) (d : Digit) (m : Method) : State × Bool :=
  let x := s.port p
  if x.digits.length < 32 then
    ((s.modPort p fun x => { x with digits := x.digits ++ [{ digit := d, method := m, mark := .pending }] }).raise
      (.digits p), true)
  else ((s.modPort p fun x => { x with overflow := true }).raiseIf (!x.overflow) (.digits p), false)

/-- Marks change from PENDING only (R88). -/
def State.markDigits (s : State) (p : Port) (which : Nat → Bool) (m : Mark) : State :=
  let old := (s.port p).digits
  let new := old.zipIdx.map fun (e, i) => if which i && e.mark == .pending then { e with mark := m } else e
  (s.modPort p fun x => { x with digits := new }).raiseIf (new != old) (.digits p)

/-- The feed state a non-empty hold set requires (R78). -/
def PortHold.feed (h : PortHold) : Feed :=
  if h.disabled || h.shed then .disconnected
  else if h.fault || h.thermal then .protect
  else .testing

/-- R78: what a port does at the moment its feed leaves the service states for a held state. -/
def PP.leaveService (x : PP) (f : Feed) : PP :=
  { (x.clearHook.enter f) with wanted := .normal, ringRequest := none, cadence := none, tone := .none, audio := .none }

/-- R79: the port returns to service, in STANDBY with a fresh blanking interval. -/
def PP.returnToService (x : PP) : PP := { (x.enter .standby) with hook := .onHook }

end Sys2Proof.Machine
end

