-- ==== Sys2Proof/Machine/OpsCall.lean ====
section
/-!
DEFINITION. Shared operations of the call controller: the records and what they ask of their ports (6.1), admission and
capacity (R100 to R102), outgoing, incoming and intercom calls, releases (R103 to R112), custody (R113, R114), and the
port hold set, whose law tells the call controller (R78, R79).
-/

namespace Sys2Proof.Machine

/-! ## Records -/

/-- What the CC names to the port in each record state (6.1); `off` says whether the port is off-hook. -/
def CallState.audio (st : CallState) (off : Bool) : Audio × Tone :=
  match st with
  | .free | .seizing | .alertingIn | .intercomRinging => (.none, .none)
  | .dialling | .connected => (.line, .none)
  | .clearing => (.none, if off then .congestion else .none)
  | .farCleared | .intercomEnded => (.none, .busy)
  | .blocked => (.none, .congestion)
  | .localOnly => (.none, .noService)
  | .intercomCalling => (.none, .ringback)
  | .intercomConnected => (.intercom, .none)

/-- What the CALL notice reports a change of (R116). -/
def CallRec.shown (r : CallRec) : CallState × Option SubState × Option Coding × Bool × Option Nat × Bool :=
  (r.state, r.sub, r.coding, r.downgrade.isSome, r.channel, r.admission.isSome)

/-- The CC names the audio source and local tone at each change of state (6.1). -/
def State.nameAudio (s : State) (p : Port) : State :=
  let (a, t) := (s.call p).state.audio (s.port p).hook.isOff
  s.setAudio p a t

/-- An update of a call record, with its CALL notice (R116) and what it asks of the port. What changes in one update
raises CALL once (DESIGN CHOICE, log 82). -/
def State.updCall (s : State) (p : Port) (f : CallRec → CallRec) : State :=
  let old := s.call p
  let new := f old
  let s := (s.modCallRaw p f).raiseIf (decide (old.shown ≠ new.shown)) (.call p)
  if old.state = new.state then s else s.nameAudio p

/-- A record returning to FREE makes every field but the release cause absent or empty (R98). -/
def State.freeCall (s : State) (p : Port) (cause : RelCause) : State :=
  s.updCall p fun _ => { Reset.call with cause := cause }

/-- A fresh mark for a call: its serial, and its place in the order of admission (log 16). -/
def State.takeSerial (s : State) : State × Nat :=
  (s.modCc fun c => { c with nextSerial := c.nextSerial + 1 }, s.cc.nextSerial)

/-- A voice slot is carried in DIALLING and CONNECTED, and in ALERTING_IN with admission complete (R99). -/
def CallRec.carries (r : CallRec) : Bool :=
  match r.state with
  | .dialling | .connected => true
  | .alertingIn => r.admission.isNone
  | _ => false

/-- The admitted calls (R100). -/
def CallRec.admitted (r : CallRec) : Bool :=
  match r.state with
  | .seizing | .dialling | .connected | .alertingIn => true
  | .clearing => r.txs.seize
  | _ => false

/-- Voice bytes of an admitted call: 80 at FULL, 40 at REDUCED or with a downgrade in flight (R100). -/
def CallRec.voiceBytes (r : CallRec) : Nat :=
  if r.downgrade.isSome then 40 else if r.coding = some .full then 80 else 40

def CallRec.counted (r : CallRec) : Nat := if r.admitted then r.voiceBytes else 0

/-- The voice requirement R (R100). -/
def State.voiceRequirement (s : State) : Nat := (s.call .a).counted + (s.call .b).counted + 64

/-- The test R ≤ P_min in both directions (R100). -/
def State.passes (s : State) (r : Nat) : Bool := decide (r ≤ s.cc.pDown) && decide (r ≤ s.cc.pUp)

/-- What admission says of a new call (R100). -/
inductive Admission where
  | at (c : Coding) | wait | fail
  deriving DecidableEq, Repr

/-- R100: the admission test for a new call. -/
def State.admission (s : State) : Admission :=
  let r := s.voiceRequirement
  if s.effProfile = .lifeline then (if s.passes (r + 40) then .at .reduced else .wait)
  else if s.passes (r + 80) then .at .full
  else if s.passes (r + 40) then .at .reduced
  else .fail

/-- R101: the count of line calls held or being admitted. -/
def CallRec.lineCall (r : CallRec) : Bool :=
  match r.state with
  | .seizing | .dialling | .connected | .alertingIn => true
  | .clearing => r.channel.isSome || r.txs.seize
  | _ => false

def State.callCount (s : State) : Nat :=
  (if (s.call .a).lineCall then 1 else 0) + (if (s.call .b).lineCall then 1 else 0)

/-- R101: the n reported follows c, upwards at once and downwards by the hold-off timer. -/
def State.reportN (s : State) : State :=
  let c := s.callCount
  if s.cc.nReported < c then s.modCc fun x => { x with nReported := c, holdOff := none }
  else if c < s.cc.nReported && s.cc.holdOff.isNone then s.modCc fun x => { x with holdOff := some 10000 }
  else s

/-! ## Transactions of a call -/

/-- A call's transaction, tagged with the call's serial. The record shows it from here on, also while it waits for an
entry of the transaction list (R70, R98; DESIGN CHOICE, log 56). -/
def State.callTx (s : State) (p : Port) (k : TxKind) (body : List Byte) (mark : CallTxs → CallTxs) : State :=
  let s := s.modCallRaw p fun r => { r with txs := mark r.txs }
  s.requestTx k (some p) (wPort p ++ body) (s.call p).serial

def State.requestSeize (s : State) (p : Port) (c : Coding) : State :=
  s.callTx p .seize (wIdx c.ctorIdx) fun t => { t with seize := true }

/-- Whether the SEIZE has been sent: granted an entry (R103). -/
def State.seizeSent (s : State) (p : Port) : Bool :=
  (s.call p).txs.seize && !s.txWaits .seize (some p)

/-- R106: the part releases a call that holds a channel. CLEARING keeps the coding and has no downgrade (DESIGN CHOICE,
log 62). -/
def State.releaseCall (s : State) (p : Port) (cause : RelCause) : State :=
  let ch := (s.call p).channel.getD 0
  let s := s.ringOff p
  let s := s.updCall p fun r =>
    { r with state := .clearing, cause := cause, sub := none, admission := none, decision := none, alert := none
             downgrade := none }
  s.callTx p .release (w8 ch ++ wIdx cause.ctorIdx) fun t => { t with release := true }

/-- R102: a downgrade, in flight from this moment. -/
def State.downgradeCall (s : State) (p : Port) : State :=
  let ch := (s.call p).channel.getD 0
  let s := s.updCall p fun r => { r with downgrade := some { seff := none } }
  s.callTx p .coding (w8 ch ++ wIdx Coding.reduced.ctorIdx) fun t => { t with coding := true }

/-! ## Custody (R113, R114) -/

/-- A change of custody; one that leaves BOX stops the grace timer (R114), with one CUSTODY notice (log 82). -/
def State.setCustody (s : State) (c : Custody) : State :=
  if s.cc.custody = c then s
  else (s.modCc fun x => { x with custody := c, grace := if c = .box then x.grace else none }).raise .custody

/-- R113: in RELEASING, when no record remains in DECISION_WANTED, custody becomes PART. -/
def State.lastDecision (s : State) : State :=
  let wanted := fun p => (s.call p).sub == some .decisionWanted
  if s.cc.custody = .releasing && !wanted .a && !wanted .b then s.setCustody .part else s

/-- The grace timer is stopped (R114, R116). -/
def State.stopGrace (s : State) : State :=
  if s.cc.grace.isSome then (s.modCc fun x => { x with grace := none }).raise .custody else s

/-! ## Ring decisions (R109) -/

/-- The last measured REN of a port: that of the completed values of its PORT_LOOP record (R143). -/
def State.lastRen (s : State) (p : Port) : Option Int :=
  let r := s.tu.results.get (match p with | .a => .portLoopA | .b => .portLoopB)
  r.completed.bind fun c => (c.values[1]?).map (·.value)

/-- R109: in RESERVE the ring request is given only if no REN was measured or it is at or below the limit. -/
def State.mayRing (s : State) (p : Port) : Bool :=
  s.sup.mode != .reserve ||
    match s.lastRen p with
    | none => true
    | some v => decide (v ≤ (s.settings.supply.renLimit : Int))

/-- R109: applying a plan. -/
def State.applyPlan (s : State) (p : Port) (plan : Plan) : State :=
  match plan with
  | .reject => s.releaseCall p .rejected
  | .silent =>
    s.updCall p fun r => { r with sub := some .ringingPlan, plan := some .silent, decision := none }
  | .ring c =>
    let s := s.updCall p fun r => { r with sub := some .ringingPlan, plan := some (.ring c), decision := none }
    if s.mayRing p then s.ringPort p c else s

/-- R109: RING with cadence 0, or with cadence 2 while the supply mode is RESERVE. -/
def State.defaultPlan (s : State) : Plan := .ring (if s.sup.mode = .reserve then 2 else 0)

/-- R109: at the end of admission the call waits for its ring decision. -/
def State.ringDecision (s : State) (p : Port) : State :=
  match s.cc.custody with
  | .part => s.applyPlan p s.defaultPlan
  | _ => s.updCall p fun r => { r with sub := some .decisionWanted, decision := some 2000 }

/-- R114: every record in DECISION_WANTED takes the default plan. -/
def State.decideAll (s : State) : State :=
  let one := fun (s : State) p =>
    if (s.call p).sub = some .decisionWanted then s.applyPlan p s.defaultPlan else s
  one (one s .a) .b

/-! ## Admission of waiting calls and capacity (R101, R102) -/

/-- The pending ALERT of a record is answered NAK. -/
def State.nakAlert (s : State) (p : Port) (c : NakCause) : State :=
  match (s.call p).alertNumber with
  | some n => s.answerNak .alert n c
  | none => s

/-- A waiting call is admitted (R101, R103, R108). -/
def State.admitWaiting (s : State) (p : Port) : State :=
  let (s, k) := s.takeSerial
  match (s.call p).state with
  | .seizing =>
    let s := s.updCall p fun r => { r with admission := none, order := k, coding := some .reduced }
    s.requestSeize p .reduced
  | .alertingIn =>
    let r := s.call p
    let s := s.updCall p fun r =>
      { r with admission := none, order := k, coding := some .reduced, channel := r.alertChannel
               alertNumber := none, alertChannel := none, alert := some 120000 }
    let s := match r.alertNumber with
      | some n => s.answerAck .alert n (wIdx Coding.reduced.ctorIdx)
      | none => s
    s.ringDecision p
  | _ => s

/-- R101: a waiting call is tested again at REDUCED, together with the admitted calls that are not themselves
waiting. -/
def State.retest (s : State) (p : Port) : State :=
  let r := s.call p
  let o := s.call p.other
  if r.admission.isSome then
    if s.passes (64 + 40 + (if o.admission.isSome then 0 else o.counted)) then s.admitWaiting p else s
  else s

/-- R101: the port whose wait began first is tested first. -/
def State.retestWaiting (s : State) : State :=
  if (s.call .b).admission.isSome && decide ((s.call .b).order < (s.call .a).order) then (s.retest .b).retest .a
  else (s.retest .a).retest .b

/-- R102: the later connect time is newer; a call without one is newer than one with it; between two without, the call
admitted later. -/
def newer (x y : CallRec) : Bool :=
  match x.connect, y.connect with
  | some a, some b => ahead a b
  | none, some _ => true
  | some _, none => false
  | none, none => decide (y.order < x.order)

/-- The newest of the calls that meet a condition (R102); of two with equal connect times port A's (DESIGN CHOICE, log
55). -/
def State.newest (s : State) (f : CallRec → Bool) : Option Port :=
  let a := s.call .a
  let b := s.call .b
  match f a, f b with
  | true, true => if newer b a then some .b else some .a
  | true, false => some .a
  | false, true => some .b
  | false, false => none

def CallRec.downgradable (r : CallRec) : Bool := r.carries && r.coding == some .full && r.downgrade.isNone

/-- R102, step 2: while R exceeds P_min, the newest FULL call is downgraded. -/
def State.downgradeOver : Nat → State → State
  | 0, s => s
  | k + 1, s =>
    if s.passes s.voiceRequirement then s
    else match s.newest CallRec.downgradable with
      | some p => State.downgradeOver k (s.downgradeCall p)
      | none => s

/-- R102, step 3: while R still exceeds P_min, the newest call carrying a slot is released. -/
def State.releaseOver : Nat → State → State
  | 0, s => s
  | k + 1, s =>
    if s.passes s.voiceRequirement then s
    else match s.newest CallRec.carries with
      | some p => State.releaseOver k ((s.releaseCall p .capacity).faultEvent (FaultId.voiceCapacity p))
      | none => s

/-- R102: the capacity evaluation. In LIFELINE with two calls at FULL, step 1 asks for port A's downgrade first (DESIGN
CHOICE, log 81). -/
def State.evaluateCapacity (s : State) : State :=
  let s := if s.effProfile = .lifeline then
      [Port.a, .b].foldl (fun s p => if (s.call p).downgradable then s.downgradeCall p else s) s
    else s
  let s := State.downgradeOver 2 s
  let s := State.releaseOver 2 s
  let s := s.modCc fun c => { c with lastR := s.voiceRequirement }
  s.retestWaiting

/-- R30: both directions' P_min are handed to the CC, which evaluates capacity. -/
def State.handPMin (s : State) : State :=
  (s.modCc fun c => { c with pDown := s.pMinDown, pUp := s.pMinUp }).evaluateCapacity

/-! ## Outgoing calls (R103, R105) -/

/-- R103: an off-hook whose record is FREE. -/
def State.callOut (s : State) (p : Port) : State :=
  let (s, k) := s.takeSerial
  if !s.inService then
    s.updCall p fun _ => { Reset.call with state := .localOnly, dir := some .out, serial := k, order := k }
  else match s.admission with
    | .fail =>
      s.updCall p fun _ =>
        { Reset.call with state := .blocked, dir := some .out, cause := .capacity, serial := k, order := k }
    | .at c =>
      let s := s.updCall p fun _ =>
        { Reset.call with state := .seizing, dir := some .out, coding := some c, serial := k, order := k }
      s.requestSeize p c
    | .wait =>
      s.updCall p fun _ =>
        { Reset.call with state := .seizing, dir := some .out, coding := some .reduced, admission := some 2000
                          serial := k, order := k }

/-- R103: an end of a call in SEIZING, with the cause given: at once when the SEIZE is not yet sent, otherwise through
CLEARING to await its outcome. -/
def State.endSeizing (s : State) (p : Port) (cause : RelCause) : State :=
  if s.seizeSent p then s.updCall p fun r => { r with state := .clearing, cause := cause, admission := none }
  else (s.withdraw fun r => r.kind == .seize && r.port == some p).freeCall p cause

/-! ## Intercom (R111, R112) -/

/-- R111: intercom starts from X. Towards a port that is not free the record goes to INTERCOM_ENDED in one change, which
raises CALL once (DESIGN CHOICE, log 82). Nothing of an earlier line call stays in the record (DESIGN CHOICE, log 86). -/
def State.startIntercom (s : State) (x : Port) : State :=
  let y := x.other
  let (s, k) := s.takeSerial
  let free := (s.call y).state == .free && (s.port y).hold.isEmpty && (s.port y).hook == .onHook
  if free then
    let s := s.updCall x fun _ =>
      { Reset.call with state := .intercomCalling, dir := some .intercom, serial := k, order := k }
    let s := s.updCall y fun _ =>
      { Reset.call with state := .intercomRinging, dir := some .intercom, alert := some 120000, serial := k
                        order := k }
    s.ringPort y 3
  else
    s.updCall x fun _ => { Reset.call with state := .intercomEnded, dir := some .intercom, serial := k, order := k }

/-- R111: what a "**" dialled on a port does. -/
def State.dialIntercom (s : State) (p : Port) : State :=
  match (s.call p).state with
  | .seizing =>
    if s.seizeSent p then s.updCall p fun r => { r with state := .clearing, cause := .intercom, admission := none }
    else (s.withdraw fun r => r.kind == .seize && r.port == some p).startIntercom p
  | .localOnly | .blocked => s.startIntercom p
  | .dialling => s.releaseCall p .intercom
  | _ => s

/-- The other record when one leaves intercom (R112): INTERCOM_ENDED if off-hook, FREE if it was ringing. -/
def State.leaveIntercom (s : State) (o : Port) (cause : RelCause) : State :=
  match (s.call o).state with
  | .intercomRinging => (s.ringOff o).freeCall o cause
  | .intercomCalling | .intercomConnected =>
    s.updCall o fun r => { r with state := .intercomEnded, alert := none }
  | _ => s

/-! ## Releases (R106, R107) -/

/-- R106: the release is complete; the record gives up its channel and goes on. -/
def State.releaseDone (s : State) (p : Port) : State :=
  let cause := (s.call p).cause
  if !(s.port p).hook.isOff then s.freeCall p cause
  else match cause with
    | .intercom => s.startIntercom p
    | .normal => (s.freeCall p cause).callOut p
    | _ => s.updCall p fun r => { r with state := .blocked, channel := none, coding := none, downgrade := none }

/-- R107: a record in an intercom state returns to FREE with the cause given, whatever the other record does. -/
def State.endIntercom (s : State) (p : Port) (cause : RelCause) : State :=
  match (s.call p).state with
  | .intercomCalling | .intercomRinging | .intercomConnected => (s.ringOff p).freeCall p cause
  | _ => s

/-- R107: the port leaves service, or RESTART PORTS: its record ends its call with the cause given. A record already in
CLEARING stays as it is, with its recorded cause (DESIGN CHOICE, log 57). -/
def State.portGone (s : State) (p : Port) (cause : RelCause) : State :=
  match (s.call p).state with
  | .free | .clearing => s
  | .dialling | .connected => s.releaseCall p cause
  | .seizing => s.endSeizing p cause
  | .alertingIn =>
    if (s.call p).admission.isSome then (s.nakAlert p .busy).freeCall p cause else s.releaseCall p cause
  | .intercomCalling | .intercomRinging | .intercomConnected =>
    ((s.ringOff p).freeCall p cause).leaveIntercom p.other .normal
  | .localOnly | .blocked | .farCleared | .intercomEnded => s.freeCall p cause

/-- R107: the link leaves IN_SERVICE: a line call is released without a transaction. A record taken to LOCAL_ONLY has no
connect time, caller number and plan (DEDUCED, log 46), no coding and no downgrade, and keeps its direction (DESIGN
CHOICE, log 62). In the other states the record is not changed, but that its transactions have been flushed (R74). -/
def State.linkGone (s : State) (cause : RelCause) (p : Port) : State :=
  let r := s.call p
  match r.state with
  | .seizing | .dialling | .connected | .alertingIn | .clearing =>
    let cause := if r.state = .clearing then r.cause else cause
    let s := s.ringOff p
    if (s.port p).hook.isOff then
      s.updCall p fun r =>
        { Reset.call with state := .localOnly, dir := r.dir, cause := cause, serial := r.serial, order := r.order }
    else s.freeCall p cause
  | _ => s.modCallRaw p fun r => { r with txs := Reset.call.txs }

/-! ## Hooks (R103, R110, R112) -/

/-- R110: an off-hook answers an alerting call. -/
def State.answerCall (s : State) (p : Port) : State :=
  if (s.call p).admission.isSome then ((s.nakAlert p .busy).freeCall p .none).callOut p
  else
    let ch := (s.call p).channel.getD 0
    let s := s.ringOff p
    let s := s.updCall p fun r =>
      { r with state := .connected, sub := none, decision := none, alert := none, connect := some s.le.sf }
    let s := s.callTx p .answer (w8 ch) fun t => { t with answer := true }
    if (s.settings.ports.get p).reverseOnAnswer then s.setWanted p .reversed else s

/-- R112: Y answers. -/
def State.answerIntercom (s : State) (y : Port) : State :=
  let s := s.ringOff y
  let s := s.updCall y fun r => { r with state := .intercomConnected, alert := none }
  s.updCall y.other fun r => { r with state := .intercomConnected }

/-- The port reports an off-hook or an answer. -/
def State.ccOffHook (s : State) (p : Port) : State :=
  match (s.call p).state with
  | .free => s.callOut p
  | .alertingIn => s.answerCall p
  | .intercomRinging => s.answerIntercom p
  | .clearing => s.nameAudio p
  | _ => s

/-- The port reports an on-hook. -/
def State.ccOnHook (s : State) (p : Port) : State :=
  match (s.call p).state with
  | .seizing => s.endSeizing p .normal
  | .dialling | .connected => s.releaseCall p .normal
  | .localOnly | .blocked | .farCleared | .intercomEnded => s.freeCall p (s.call p).cause
  | .intercomCalling => ((s.ringOff p.other).freeCall p.other .normal).freeCall p .normal
  | .intercomConnected => (s.freeCall p .normal).leaveIntercom p.other .normal
  | _ => s

/-! ## Digits (R105) -/

/-- The lone leading "*" that DIALLING holds until the next digit arrives (R105). CONNECTED holds none: a star held when
the call connects is forwarded then (DESIGN CHOICE, log 61). -/
def heldStar (st : CallState) (l : List DigitEntry) : Bool :=
  st == .dialling && l.length == 1 && l.all fun e => e.digit == .star && e.mark == .pending

/-- R105: a digit the port hands over is taken by the state of its record. -/
def State.ccDigit (s : State) (p : Port) : State :=
  let l := (s.port p).digits
  let last := l.length - 1
  let starStates := match (s.call p).state with
    | .seizing | .dialling | .localOnly | .blocked => true
    | _ => false
  let firstStar := ((l[0]?).map fun e => e.digit == .star && e.mark == .pending).getD false
  if starStates && firstStar && l.length == 1 then s
  else if starStates && firstStar && l.length == 2 && ((l[1]?).map fun e => e.digit == .star).getD false
      && (s.settings.ports.get p).intercomEnable then
    (s.markDigits p (fun _ => true) .localDigit).dialIntercom p
  else match (s.call p).state with
    | .localOnly | .blocked | .farCleared | .clearing | .intercomCalling | .intercomRinging | .intercomConnected
    | .intercomEnded =>
      s.markDigits p (fun i => i == last || (starStates && firstStar && l.length == 2)) .localDigit
    | _ => s

/-- R105: while a record in DIALLING or CONNECTED holds forwardable PENDING digits and no DIGIT is in flight, a DIGIT
transaction carries them all. -/
def State.sendDigits (s : State) (p : Port) : State :=
  let r := s.call p
  let l := (s.port p).digits
  let ds := l.filter fun e => e.mark == .pending
  if (r.state == .dialling || r.state == .connected) && !r.txs.digit && !ds.isEmpty && !heldStar r.state l then
    let s := s.modCallRaw p fun r => { r with digitsUpTo := l.length }
    s.callTx p .digit (w8 (r.channel.getD 0) ++ wList (fun e => wDigit e.digit) ds) fun t => { t with digit := true }
  else s

/-! ## Port hold sets (R78, R79) -/

/-- The cause a hold-set member gives a call (R78). -/
def PortMember.cause : PortMember → RelCause
  | .fault | .thermal => .fault
  | .shed => .shed
  | .test => .test
  | .disabled => .disabled

/-- R78 when a member has joined: the feed takes the state required; a port that leaves service says so to the CC,
naming the member. -/
def State.portHeld (s : State) (p : Port) (m : PortMember) : State :=
  let x := s.port p
  let f := x.hold.feed
  if x.feed.inService then (s.modPort p fun x => x.leaveService f).portGone p m.cause
  else if x.feed = f then s
  else s.modPort p fun x => x.enter f

/-- R78, R79 when a member has left. -/
def State.portFreed (s : State) (p : Port) : State :=
  let x := s.port p
  if x.hold.isEmpty then (if x.feed.inService then s else s.modPort p fun x => x.returnToService)
  else if x.feed = x.hold.feed then s
  else s.modPort p fun x => x.enter x.hold.feed

end Sys2Proof.Machine
end

