-- ==== Sys2Proof/Machine/OpsTest.lean ====
section
/-!
DEFINITION. Shared operations of the test unit on its own records: the three tests (R144), writing a result and asking
for its TEST_RESULT (R147, R148, R150), and ending a test early up to the point where its target follows its hold set.
-/

namespace Sys2Proof.Machine

/-- The channels a test claims (R144). -/
def TestKind.channels (k : TestKind) (t : Target) : List Chan :=
  match k, t with
  | .portLoop, .portB => [.pbV, .pbI]
  | .portLoop, _ => [.paV, .paI]
  | _, _ => [.lineTipE, .lineRingE, .lineTR]

/-- The duration of a test in ms (R144). -/
def TestKind.ms : TestKind → Nat
  | .lineForeign => 1000
  | .lineInsulation => 3000
  | .portLoop => 2000

/-- The kind fits the target (R143). -/
def TestKind.fits (k : TestKind) (t : Target) : Bool :=
  match k, t with
  | .portLoop, .portA | .portLoop, .portB => true
  | .lineForeign, .line | .lineInsulation, .line => true
  | _, _ => false

/-- An active test drives a measuring source into its target; LINE_FOREIGN is passive (R144). -/
def TestKind.isActive : TestKind → Bool
  | .lineForeign => false
  | .lineInsulation | .portLoop => true

/-- The target to which the test unit applies its measuring source: that of an active test from its entry to RUNNING
until its end (R146, R147, R148); none in ARMING, which applies nothing yet, and while no test runs. -/
def State.measuringSource (s : State) : Option Target :=
  match s.tu.current with
  | some c => if c.phase = .running && TestKind.isActive c.kind then some c.target else none
  | none => none

/-- The port a target names. -/
def Target.port : Target → Port
  | .portB => .b
  | _ => .a

/-- The last-result record of a test (R143). -/
def TestKind.result (k : TestKind) (t : Target) : ResultId :=
  match k, t with
  | .lineForeign, _ => .lineForeign
  | .lineInsulation, _ => .lineInsulation
  | .portLoop, .portB => .portLoopB
  | .portLoop, _ => .portLoopA

/-- R121: a claim or a return of channels, from their next sample. -/
def State.ownChannels (s : State) (cs : List Chan) (v : Bool) : State :=
  s.modMu fun m => { m with chans := cs.foldl (fun t c => t.set c { t.get c with owned := v }) m.chans }

/-- One measured value with its mark, in the width its range needs (R59, R146). -/
def wValue (k : TestKind) (v : TestValue × Nat) : List Byte :=
  (if k = .portLoop ∧ v.2 = 1 then beInt 1 v.1.value else i16 v.1.value) ++ wBool v.1.mark

/-- The values of a run, in their order and without a count byte (DESIGN CHOICE, log 12). -/
def wValues (k : TestKind) (vs : List TestValue) : List Byte := vs.zipIdx.flatMap (wValue k)

/-- The body of a TEST_RESULT (R150). The completed values are the measured values with their marks (DESIGN CHOICE,
log 71). -/
def resultBody (c : CurrentTest) (o : Outcome) (cause : Option AbortCause) (vs : Option (List TestValue)) : List Byte :=
  [c.reqNumber.getD 0] ++ wIdx c.kind.ctorIdx ++ wIdx c.target.ctorIdx ++ wIdx o.ctorIdx
    ++ wOpt (fun a : AbortCause => wIdx a.ctorIdx) cause ++ wOpt (wValues c.kind) vs

/-- R147, R148, R150: the last-result record of a test is written. An ABORTED run keeps the completed values. For an
operator's test the report waits and a TEST_RESULT is requested; an earlier one of the same kind and target, so for the
same record, that still waits is withdrawn unsent, and the new one joins as the newest (DESIGN CHOICE, log 87). The
record becomes the one most recently written, which a later change of a report state does not move (R153; DESIGN CHOICE,
log 66). -/
def State.writeResult (s : State) (c : CurrentTest) (o : Outcome) (cause : Option AbortCause)
    (vs : Option (List TestValue)) : State :=
  let id := TestKind.result c.kind c.target
  let old := s.tu.results.get id
  let k := s.tu.nextSerial
  let new : LastResult :=
    { latest := some { outcome := o, cause := cause, requester := c.requester, endTime := s.uptime }
      completed := match vs with
        | some v => some { values := v, outcome := o, requester := c.requester, endTime := s.uptime }
        | none => old.completed
      report := if c.requester = .operator then .waiting else .none
      serial := k }
  let s := s.modTu fun x =>
    { x with results := x.results.set id new, lastWritten := some id, nextSerial := k + 1 }
  if c.requester = .operator then
    let s := s.withdraw fun r =>
      r.kind == .testResult && (r.body.drop 1).take 2 == wIdx c.kind.ctorIdx ++ wIdx c.target.ctorIdx
    s.requestTx .testResult none (resultBody c o cause vs) k
  else s

/-- TEST leaves the hold set the test placed it in; a test in ARMING has placed none (R147, R148). What the line or the
port then does is the caller's. -/
def State.dropTestHold (s : State) (c : CurrentTest) : State :=
  match c.phase, c.kind with
  | .arming, _ | _, .lineForeign => s
  | .running, .lineInsulation =>
    (s.modLe fun x => { x with hold := x.hold.put .test false }).raiseIf s.le.hold.test .link
  | .running, .portLoop =>
    let p := Target.port c.target
    (s.modPort p fun x => { x with hold := x.hold.put .test false }).raiseIf (s.port p).hold.test (.hook p)

/-- R147, steps 1 and 2, and R148: the test's channels are returned and its result is written. -/
def State.recordTest (s : State) (c : CurrentTest) (o : Outcome) (cause : Option AbortCause)
    (vs : Option (List TestValue)) : State :=
  (s.ownChannels (TestKind.channels c.kind c.target) false).writeResult c o cause vs

/-- R147, steps 4 and 5, and R148: the test's hold is taken away and the current-test record becomes absent. -/
def State.endTest (s : State) (c : CurrentTest) : State :=
  ((s.dropTestHold c).modTu fun x => { x with current := none }).raise .test

/-- R148: an abort, up to the point where the target follows its hold set. -/
def State.abortRaw (s : State) (cause : AbortCause) : State :=
  match s.tu.current with
  | none => s
  | some c => (s.recordTest c .aborted (some cause) none).endTest c

/-- Whether the current test is one of the kinds given. -/
def State.testing (s : State) (f : CurrentTest → Bool) : Bool := (s.tu.current.map f).getD false

/-- Entry to RUNNING: the start time and the time left (R145). -/
def CurrentTest.run (c : CurrentTest) (now : BitVec 32) : CurrentTest :=
  { c with phase := .running, start := some now, timeLeft := some (TestKind.ms c.kind), arm := none }

/-- R145: TEST joins the line hold set as ARMING ends; the line's own law is the caller's. -/
def State.armedRaw (s : State) : State :=
  match s.tu.current with
  | some c =>
    if c.phase = .arming then
      let s := s.modTu fun x => { x with current := some (c.run s.uptime) }
      ((s.modLe fun x => { x with hold := x.hold.put .test true }).raise .link).raise .test
    else s
  | none => s

end Sys2Proof.Machine
end

