-- ==== Sys2Proof/Machine/OpsGate.lean ====
section
/-!
DEFINITION. Shared operations of the fence tracker: its notice (R55), the tracker's return to its search (R45), the
gate requests (R48, R50, R51).
-/

namespace Sys2Proof.Machine

/-- What the GATE notice reports a change of (R55). -/
structure GateShown where
  tracker : Tracker
  tracking : Tracking
  anchor : Option Sf
  active : Option Bool
  repl : Option Sf
  endSf : Option Sf
  impulse : Bool
  deriving DecidableEq, Repr

def State.gateShown (s : State) : GateShown :=
  { tracker := s.tracker
    tracking := s.ft.tracking
    anchor := s.ft.agreement.map (·.cur.anchor)
    active := s.ft.agreement.map (·.active)
    repl := s.ft.agreement.bind fun a => a.repl.map (·.anchor)
    endSf := s.ft.agreement.bind (·.endSf)
    impulse := s.ft.impulse }

/-- An update of the tracker with its GATE notice, raised once whatever the update changes (DESIGN CHOICE, log 82). -/
def State.ftUpd (s : State) (f : FT → FT) : State :=
  let t := s.modFt f
  t.raiseIf (decide (s.gateShown ≠ t.gateShown)) .gate

/-- R45: the tracker returns to the start of its search. -/
def FT.search (x : FT) : FT :=
  { x with tracking := .searching, arrivals := [], period := none, next := none, burst := none, misses := 0
           window := none, retry := none }

/-- R45, R52: the line driver is turned off. -/
def FT.driverOff (x : FT) : FT := { x.search with learn := 0, hits := 0, highRun := 0, lowRun := 0 }

/-- R45: leaving IN_SERVICE ends the agreement whole; a gate request in flight is flushed and the retry timer
stopped. -/
def FT.leaveService (x : FT) : FT := { x with agreement := none, request := .none, retry := none }

/-- R48: a GATE_SET is requested when its conditions hold. -/
def State.gateSetLaw (s : State) : State :=
  match s.ft.period, s.ft.next with
  | some p, some n =>
    if s.inService && s.ft.tracking == .locked && s.settings.gate.agreementEnable && s.ft.agreement.isNone
        && s.ft.request == .none && s.ft.retry.isNone then
      let c := s.formSchedule p n
      (s.modFt fun x => { x with request := .set c }).requestTx .gateSet none c.body
    else s
  | _, _ => s

/-- R51: the end superframe is recorded; a waiting replacement whose anchor does not lie before it is discarded. -/
def Agreement.ending (a : Agreement) (e : Sf) : Agreement :=
  { a with endSf := some e, repl := a.repl.filter fun c => ahead e c.anchor }

/-- R51: a GATE_CLEAR naming the end superframe c + 64 is requested after a loss of lock, or with agreement enable
OFF. -/
def State.gateClearLaw (s : State) : State :=
  match s.ft.agreement with
  | some a =>
    if s.inService && a.endSf.isNone && s.ft.request == .none
        && (s.ft.tracking == .searching || !s.settings.gate.agreementEnable) then
      let e := s.le.sf + BitVec.ofNat 32 Config.gateLead
      (s.ftUpd fun x => { x with agreement := some (a.ending e), request := .clear e }).requestTx
        .gateClear none (wBV e)
    else s
  | none => s

/-- R50: the start of the new predicted window differs from the nearest window of the schedule in force by 2 or more
symbols, or the window width setting differs from the agreed width. -/
def Sched.drifted (c : Sched) (start : Sym) (width : Nat) : Bool :=
  let d := (dist start c.origin % (c.period : Int)).toNat
  decide (2 ≤ min d (c.period - d)) || width != c.width

/-- R50: the drift check after a caught burst. -/
def State.driftCheck (s : State) : State :=
  match s.ft.agreement, s.ft.period, s.ft.next with
  | some a, some p, some n =>
    if s.inService && a.active && s.ft.tracking == .locked && a.endSf.isNone && a.repl.isNone
        && s.ft.request == .none && s.ft.retry.isNone && a.cur.drifted (n - 1) s.settings.gate.windowWidth then
      let c := s.formSchedule p n
      (s.modFt fun x => { x with request := .set c }).requestTx .gateSet none c.body
    else s
  | _, _, _ => s

/-- R47: the agreed width may have changed: both P_min are handed to the call controller when it has (R30). -/
def State.widthChanged (s : State) (old : Nat) : State := if s.agreedWidth = old then s else s.handPMin

end Sys2Proof.Machine
end

