-- ==== Sys2Proof/Machine/OpsLine.lean ====
section
/-!
DEFINITION. Shared operations of the line engine: link states and the line hold set (R2, R3), leaving service (R16, R45,
R74, R107), losses and attempt failures (R9, R12, R15), RATE and PROFILE (R18, R34, R38), and the hold sets' HELD
aborts (R148).
-/

namespace Sys2Proof.Machine

/-! ## Link states -/

/-- A change of link state: the timers of the state left are stopped; entry to IDLE or TEST_HOLD turns the driver off
(R45); leaving EXCHANGE for any state but IN_SERVICE gives the mask in force the requested mask (R37). -/
def State.setLink (s : State) (l : LinkState) : State :=
  let old := s.le.link
  let s := s.modLe fun x => { x with link := l, phaseTimer := none, backoff := none, exchange := none }
  let s := if old.driverOn && !l.driverOn then s.ftUpd FT.driverOff else s
  let s := if old = .exchange && l != .inService then s.setMaskInForce s.settings.line.requestedMask else s
  s.raiseIf (decide (old ≠ l)) .link

/-- R4: the transmitter is silenced and the 200 ms start. -/
def State.enterQuiet (s : State) : State :=
  (s.setLink .quiet).modLe fun x => { x with phaseTimer := some Config.quietMs }

/-- R12: the wait of the current step, by the LINK_LOSS policy at this moment. -/
def backoffMs (p : Policy) (step : Nat) : Nat :=
  match p with
  | .retryFast => 1000 * min 8 (2 ^ step)
  | _ => 1000 * min 64 (2 ^ (step + 1))

/-- R12: entry to RETRAIN_WAIT. -/
def State.enterRetrainWait (s : State) : State :=
  (s.setLink .retrainWait).modLe fun x =>
    { x with
      backoff := some (backoffMs (s.faultSetting .linkLoss).policy x.backoffStep)
      backoffStep := satInc 5 x.backoffStep }

/-- The state R2 requires of a held line. -/
def LineHold.state (h : LineHold) : LinkState := if h.onlyTest then .testHold else .idle

/-! ## Leaving service -/

/-- The report of an operator's result whose transaction has not been acknowledged becomes UNDELIVERED (R150). -/
def State.undelivered (s : State) (tag : Nat) : State :=
  match allResults.find? fun i => (s.tu.results.get i).serial == tag with
  | none => s
  | some i =>
    let r := s.tu.results.get i
    if r.report = .waiting || r.report = .inFlight then
      (s.modTu fun x => { x with results := x.results.set i { r with report := .undelivered } }).raise .test
    else s

def OutMsg.isUnanswered (m : OutMsg) : Bool :=
  match m.who with
  | .beacon | .ended _ | .powerLoss => true
  | _ => false

/-- R74: the transaction list is flushed with the waiting requests, the outbound queue is emptied, the repeat records
become absent and partial units are dropped. The line's, the tracker's and the calls' parts of the flush are theirs. -/
def State.flush (s : State) : State :=
  let reqs := (s.ss.txs.map (·.req) ++ s.ss.waiting).filter fun r => r.kind == .testResult
  let lost := s.ss.outQueue.filter OutMsg.isUnanswered
  let units := (if s.ss.dataPartial.isSome then 1 else 0) + (if s.ss.mgmtPartial.isSome then 1 else 0)
  let s := s.modSs fun x =>
    { x with
      txs := [], waiting := [], outQueue := [], repeats := Reset.repeats, dataPartial := none, mgmtPartial := none
      slots := []
      counts := { x.counts with
        unansweredDropped := add32 x.counts.unansweredDropped lost.length
        unitsLink := add32 x.counts.unitsLink units } }
  let s := if lost.any fun m => match m.who with | .ended _ => true | _ => false then
      s.modFs fun x => { x with endReport := none, endVoid := false }
    else s
  let s := if lost.any fun m => m.who == .powerLoss then s.modSup fun x => { x with loss := .ended } else s
  reqs.foldl (fun s r => s.undelivered r.tag) s

/-- R16: the link leaves IN_SERVICE for the state given, line calls being released with the cause given. -/
def State.leaveService (s : State) (l : LinkState) (cause : RelCause) : State :=
  let w := s.agreedWidth
  let s := s.armedRaw
  let s := s.setLink l
  let s := s.modLe fun x =>
    { x with syncFails := 0, lowPower := 0, farEnd := none, pending := none, changeInFlight := false
             needInFlight := false, evalDue := false }
  let s := s.modTt fun x =>
    { x with inFlight := .none, waitingRate := none, upWaiting := none, needProgress := none }
  let s := s.setMaskInForce s.settings.line.requestedMask
  let s := s.ftUpd FT.leaveService
  let s := s.flush
  let s := (s.linkGone cause .a).linkGone cause .b
  s.widthChanged w

/-! ## The line hold set -/

/-- R2, R3: the link takes the state the hold set requires. -/
def State.lineLaw (s : State) : State :=
  if s.le.hold.isEmpty then
    (if s.le.link.driverOn then s else s.enterQuiet)
  else
    let l := s.le.hold.state
    if s.le.link = l then s
    else if s.inService then s.leaveService l .linkLost
    else s.setLink l

/-- Whether the current test is a LINE_INSULATION that holds TEST. -/
def State.insulating (s : State) : Bool :=
  s.testing fun c => c.kind == .lineInsulation && c.phase == .running

/-- A member joins the line hold set; a LINE_INSULATION whose TEST the set holds is aborted with cause HELD. The LINK
notices are as in `State.lineHoldRemove` (log 83). -/
def State.lineHoldAdd (s : State) (m : LineMember) : State :=
  if s.le.hold.has m then s
  else
    let s := (s.modLe fun x => { x with hold := x.hold.put m true }).raise .link
    let s := if m != .test && s.le.hold.test && s.insulating then s.abortRaw .held else s
    s.lineLaw

/-- A member leaves the line hold set. Its LINK notice and that of the link state that follows are two raises (DESIGN
CHOICE, log 83). -/
def State.lineHoldRemove (s : State) (m : LineMember) : State :=
  if s.le.hold.has m then
    ((s.modLe fun x => { x with hold := x.hold.put m false }).raise .link).lineLaw
  else s

/-! ## The port hold sets -/

/-- Whether the current test is the PORT_LOOP of a port. -/
def State.looping (s : State) (p : Port) : Bool :=
  s.testing fun c => c.kind == .portLoop && Target.port c.target == p

/-- A member joins a port's hold set; the port's PORT_LOOP is aborted with cause HELD. The join and the hook state that
falls with it, of an off-hook port, raise HOOK once (DESIGN CHOICE, log 82). -/
def State.portHoldAdd (s : State) (p : Port) (m : PortMember) : State :=
  if (s.port p).hold.has m then s
  else
    let s := (s.modPort p fun x => { x with hold := x.hold.put m true }).raise (.hook p)
    let s := if m != .test && (s.port p).hold.test && s.looping p then s.abortRaw .held else s
    s.portHeld p m

def State.portHoldRemove (s : State) (p : Port) (m : PortMember) : State :=
  if (s.port p).hold.has m then
    ((s.modPort p fun x => { x with hold := x.hold.put m false }).raise (.hook p)).portFreed p
  else s

/-- The target of the test just ended follows its hold set (R147, R148). -/
def State.afterTest (s : State) (c : CurrentTest) : State :=
  match c.kind with
  | .lineForeign => s
  | .lineInsulation => s.lineLaw
  | .portLoop => s.portFreed (Target.port c.target)

/-- R148: an abort of the current test. -/
def State.abortTest (s : State) (cause : AbortCause) : State :=
  match s.tu.current with
  | none => s
  | some c => (s.abortRaw cause).afterTest c

/-- An abort of the current test if it is one of those given. -/
def State.abortIf (s : State) (f : CurrentTest → Bool) (cause : AbortCause) : State :=
  if s.testing f then s.abortTest cause else s

/-! ## Losses and failures -/

/-- R15: a loss of the link in service. Under LATCHED the line hold set takes LATCHED at the event (R157), so before the
link leaves service: an operator's LINE_INSULATION in ARMING, whose TEST joins as the link leaves (R145), is not aborted
(DESIGN CHOICE, log 74). -/
def State.loss (s : State) (c : LossCause) : State :=
  if !s.inService then s
  else
    let p := (s.faultSetting .linkLoss).policy
    let s := (s.modLe fun x => { x with lastLoss := c }).raise .link
    let s := (s.faultEventCore .linkLoss (some (c.ctorIdx : Int))).1
    let s := if (s.faultRec .linkLoss).state = .latched then
        (s.modLe fun x => { x with hold := x.hold.put .latched true }).raiseIf (!s.le.hold.latched) .link
      else s
    let waits := p == .retryFast || p == .retrySlow
    let s := s.leaveService (if !s.le.hold.isEmpty then .idle else if waits then .retrainWait else .quiet) .linkLost
    if !s.le.hold.isEmpty then s.setLink s.le.hold.state
    else if waits then s.enterRetrainWait
    else s.enterQuiet

/-- R11: the TRAIN_FAIL condition as reported; entering LATCHED it places LATCHED in the line hold set (R158). -/
def State.trainFail (s : State) (present : Bool) : State :=
  let (s, act) := s.faultConditionCore .trainFail present (some (s.le.attempts : Int))
  if act = .apply then s.lineHoldAdd .latched else s

/-- R9, R10, R11: a training attempt fails. -/
def State.attemptFail (s : State) (c : AttemptCause) : State :=
  let n := satInc 255 s.le.attempts
  let s := s.modLe fun x =>
    { x with lastFailure := c, attempts := n
             reduction := if c = .capacity then min 15 (x.reduction + 3) else x.reduction }
  let s := (s.enterRetrainWait.linkLossFailed).raise .link
  if n = 8 then s.trainFail true else s

/-! ## Downstream changes (R34) -/

/-- The profile a RATE is computed for: the pending profile when one is present, else the effective profile. -/
def State.rateProfile (s : State) : Profile := (s.le.pending.map (·.profile)).getD s.effProfile

/-- The level a RATE carries: that of the pending profile, else of the profile in force. -/
def State.rateLevel (s : State) : Int := Profile.level ((s.le.pending.map (·.profile)).getD s.le.inForce)

def State.rateBits (s : State) : List Nat := s.computeDown s.settings.line.requestedMask s.rateProfile

/-- The body of a RATE: 112 bytes of codes that carry table and mask, the level and the reason (R34, R59). -/
def RateMsg.body (m : RateMsg) : List Byte :=
  packCodes (List.zipWith toneCode m.bits m.mask) ++ beInt 1 m.level ++ wIdx m.reason.ctorIdx

/-- R34: a RATE with the table given is sent, or held back by the floor. -/
def State.rateOut (s : State) (r : RateReason) (bits : List Nat) : State :=
  if bits.sum < Config.floorBits then
    let s := s.modTt fun x => { x with lastResult := .floor }
    if s.le.pending.isSome then s.loss .protocol else s
  else
    let m : RateMsg :=
      { bits := bits, mask := s.settings.line.requestedMask, level := s.rateLevel, reason := r }
    (s.modTt fun x => { x with inFlight := .rate m none none }).requestTx .rate none m.body

/-- R34: a RATE is owed: sent now, or waiting behind the change in flight with the newer reason. -/
def State.oweRate (s : State) (r : RateReason) : State :=
  if s.tt.inFlight = .none then s.rateOut r s.rateBits
  else s.modTt fun x => { x with waitingRate := some r }

/-- The change in flight ends, and a waiting RATE is recomputed and sent (R34). -/
def State.changeEnded (s : State) (r : ChangeResult) : State :=
  let w := s.tt.waitingRate
  let s := s.modTt fun x => { x with inFlight := .none, lastResult := r, waitingRate := none }
  match w with
  | some reason => s.rateOut reason s.rateBits
  | none => s

/-! ## Profiles (R18, R38) -/

/-- The body of a PROFILE: the upstream bit cap, the level, and the tone budget or, for LIFELINE, the need. -/
def profileBody (p : Profile) (need : Nat) : List Byte :=
  w8 (Profile.cap p) ++ beInt 1 (Profile.level p) ++ w8 (if p = .lifeline then need else Profile.upBudget p)

/-- R18, steps 1 and 2: the newest effective profile becomes the pending profile. The 2 s start when the PROFILE is
sent. -/
def State.beginProfile (s : State) : State :=
  let p := s.effProfile
  let n := s.need
  let s := s.modLe fun x => { x with pending := some { profile := p, timer := none }, changeInFlight := true }
  let s := s.modTt fun x => { x with needSent := if p = .lifeline then some n else x.needSent, needProgress := none }
  (s.requestTx .profile none (profileBody p n) 1).oweRate .profile

/-- R18: in service, an effective profile that differs from the pending one, or with none pending from the one in
force, starts a change once no PROFILE of a change is in flight. -/
def State.profileLaw (s : State) : State :=
  if s.inService && !s.le.changeInFlight && s.effProfile != (s.le.pending.map (·.profile)).getD s.le.inForce then
    s.beginProfile
  else s

/-- R38: in service with LIFELINE in force and no profile pending, a need that differs from the need sent is sent once
no PROFILE is in flight, also where it differed before that state was reached (DESIGN CHOICE, log 84). -/
def State.needLaw (s : State) : State :=
  if s.inService && s.le.inForce == .lifeline && s.le.pending.isNone && !s.le.changeInFlight && !s.le.needInFlight
      && s.tt.needSent != some s.need then
    let n := s.need
    let s := s.modLe fun x => { x with needInFlight := true }
    let s := s.modTt fun x =>
      { x with needSent := some n, needProgress := some { rate := false, up := false, old := x.upWaiting } }
    (s.requestTx .profile none (profileBody .lifeline n) 0).oweRate .need
  else s

/-- The profile in force changes; leaving LIFELINE makes the need sent absent (R38), and the LINK notice is raised
(R22). -/
def State.setInForce (s : State) (p : Profile) : State :=
  let old := s.le.inForce
  let s := s.modLe fun x => { x with inForce := p }
  let s := if old = .lifeline && p != .lifeline then
      s.modTt fun x => { x with needSent := none, needProgress := none }
    else s
  s.raiseIf (decide (old ≠ p)) .link

/-- A change of one input of the effective profile (R17): the LINK notice, the capacity evaluation of R102, and the
start of the change in service (R18), at each change even where one command brings several (R133). -/
def State.profileInput (s : State) (f : State → State) : State :=
  let t := f s
  if t.effProfile = s.effProfile then t else (t.raise .link).evaluateCapacity.profileLaw

/-- The thermal limit handed by the fault supervisor (R17, R158). -/
def State.setThermal (s : State) (on : Bool) : State :=
  s.profileInput fun s => s.modLe fun x => { x with thermalTrim := on }

end Sys2Proof.Machine
end

