-- ==== Sys2Proof/Machine/OpsAct.lean ====
section
/-!
DEFINITION. The protective actions of fault records as the other blocks take them (R158), and the reports and expiries
that bring them about (R155, R156, R166).
-/

namespace Sys2Proof.Machine

/-- Whether a record whose action is LATCHED remains in LATCHED (R158). -/
def State.latchedRemains (s : State) : Bool :=
  (s.faultRec .linkLoss).state == .latched || (s.faultRec .trainFail).state == .latched

/-- An action applied (R158). THERMAL joins the line hold set first, then port A's, then port B's (DESIGN CHOICE,
log 89). -/
def State.applyAct (s : State) (i : FaultId) : State :=
  match i with
  | .linkLoss | .trainFail => if (s.faultRec i).state = .latched then s.lineHoldAdd .latched else s
  | .foreignVoltage => s.lineHoldAdd .foreign
  | .thermalShutdown => ((s.lineHoldAdd .thermal).portHoldAdd .a .thermal).portHoldAdd .b .thermal
  | .feedOvercurrentA => s.portHoldAdd .a .fault
  | .feedOvercurrentB => s.portHoldAdd .b .fault
  | .ringOverloadA => s.inhibitRing .a
  | .ringOverloadB => s.inhibitRing .b
  | .thermalWarn => s.setThermal true
  | .linkProtocol | .impulseNoise | .leakage | .voiceCapacityA | .voiceCapacityB | .batteryFault
  | .settingsCorrupt => s

/-- An action lifted (R158), THERMAL in the order in which it is applied (log 89). -/
def State.liftAct (s : State) (i : FaultId) : State :=
  match i with
  | .linkLoss | .trainFail => if s.latchedRemains then s else s.lineHoldRemove .latched
  | .foreignVoltage => s.lineHoldRemove .foreign
  | .thermalShutdown => ((s.lineHoldRemove .thermal).portHoldRemove .a .thermal).portHoldRemove .b .thermal
  | .feedOvercurrentA => s.portHoldRemove .a .fault
  | .feedOvercurrentB => s.portHoldRemove .b .fault
  | .ringOverloadA => s.uninhibitRing .a
  | .ringOverloadB => s.uninhibitRing .b
  | .thermalWarn => s.setThermal false
  | .linkProtocol | .impulseNoise | .leakage | .voiceCapacityA | .voiceCapacityB | .batteryFault
  | .settingsCorrupt => s

/-- A record's move, made with its history entry, and then its action (DESIGN CHOICE, log 90). -/
def State.act (r : State × Act) (i : FaultId) : State :=
  match r.2 with
  | .none => r.1
  | .apply => r.1.applyAct i
  | .lift => r.1.liftAct i

/-- An event reported to a class with an action: FEED_OVERCURRENT and RING_OVERLOAD (R156). -/
def State.portEvent (s : State) (i : FaultId) (v : Int) : State := State.act (s.faultEventCore i (some v)) i

/-- A condition reported to a class with an action: FOREIGN_VOLTAGE, THERMAL_WARN, THERMAL_SHUTDOWN (R155). -/
def State.actCondition (s : State) (i : FaultId) (present : Bool) (v : Int) : State :=
  State.act (s.faultConditionCore i present (some v)) i

/-- R155, R156: the retry timer expires in RETRY_WAIT. -/
def State.retryExpired (s : State) (i : FaultId) : State :=
  let r := s.faultRec i
  (s.faultMove i .recovered none none .recovered r.value).liftAct i

/-- R166: FAULT_CLEAR of one record. -/
def State.clearRecord (s : State) (i : FaultId) : State := State.act (s.faultClearCore i) i

/-- R165: a new policy raises at once a condition record in CLEAR or RECOVERED whose condition is present. The raise
counts as an occurrence (DESIGN CHOICE, log 72). -/
def State.policyRaise (s : State) (i : FaultId) : State :=
  let r := s.faultRec i
  if FaultId.isCondition i && r.condition && (r.state == .clear || r.state == .recovered) then
    State.act (s.faultRaise i r.value) i
  else s

end Sys2Proof.Machine
end

