-- ==== Sys2Proof/Machine/OpsReport.lean ====
section
/-!
DEFINITION. The fields that replies and notices share, and the content of each of the thirteen notices (R174), in the
order their rules name them and as R168 encodes them.
-/

namespace Sys2Proof.Machine

/-! ## Shared fields -/

/-- A set as the list of its members' numbers, in the order its rule lists them. -/
def wFlags (l : List Bool) : List Byte :=
  wList (fun i => wIdx i) ((l.zipIdx.filter (·.1)).map (·.2))

def LineHold.bytes (h : LineHold) : List Byte :=
  wFlags [h.disabled, h.latched, h.foreign, h.thermal, h.test, h.supply]

def PortHold.bytes (h : PortHold) : List Byte := wFlags [h.fault, h.thermal, h.shed, h.test, h.disabled]

/-- A timer's time left in `k` bytes of ms, present while it runs. -/
def wTimer (k : Nat) (t : Timer) : List Byte := wOpt (wNat k) t

def wSnr (v : Option Int) : List Byte := wOpt i16 v

/-- A call record with every field of R98. -/
def CallRec.bytes (r : CallRec) : List Byte :=
  wIdx r.state.ctorIdx ++ wOpt (fun x : SubState => wIdx x.ctorIdx) r.sub
    ++ wOpt (fun x : CallDir => wIdx x.ctorIdx) r.dir ++ wOpt w8 r.channel
    ++ wOpt (fun x : Coding => wIdx x.ctorIdx) r.coding
    ++ wOpt (fun x : Downgrade => wOpt wBV x.seff) r.downgrade ++ wOpt wBV r.connect
    ++ wOpt (wList wDigit) r.caller
    ++ wOpt (fun x : HeldPlan => match x with | .ring c => wIdx 0 ++ w8 c | .silent => wIdx 1) r.plan
    ++ wIdx r.cause.ctorIdx ++ wTimer 2 r.admission ++ wTimer 2 r.decision ++ wTimer 4 r.alert
    ++ wFlags [r.txs.seize, r.txs.release, r.txs.answer, r.txs.digit, r.txs.coding]

def DigitEntry.bytes (e : DigitEntry) : List Byte :=
  wDigit e.digit ++ wIdx e.method.ctorIdx ++ wIdx e.mark.ctorIdx

/-- A digit list with its overflow flag (R88, R96, R115). -/
def PP.digitBytes (x : PP) : List Byte := wList DigitEntry.bytes x.digits ++ wBool x.overflow

/-- The current-test record (R143): the request number for an operator test, start and time left in RUNNING, without
presence bytes, since requester and phase stand before them (R168). -/
def CurrentTest.bytes (c : CurrentTest) : List Byte :=
  wIdx c.kind.ctorIdx ++ wIdx c.target.ctorIdx ++ wIdx c.requester.ctorIdx ++ wBool c.priority
    ++ (if c.requester = .operator then [c.reqNumber.getD 0] else []) ++ wIdx c.phase.ctorIdx
    ++ (if c.phase = .running then wBV (c.start.getD 0) ++ w16 (c.timeLeft.getD 0) else [])
    ++ wList (fun x : Chan => wIdx x.ctorIdx) (TestKind.channels c.kind c.target)

def ResultId.kind : ResultId → TestKind
  | .lineForeign => .lineForeign
  | .lineInsulation => .lineInsulation
  | .portLoopA | .portLoopB => .portLoop

/-- A last-result record (R143); an empty record has every field absent. The abort cause follows an outcome ABORTED,
which decides its presence (R168). -/
def LastResult.bytes (i : ResultId) (r : LastResult) : List Byte :=
  wOpt (fun x : Latest => wIdx x.outcome.ctorIdx) r.latest
    ++ (match r.latest.bind (·.cause) with | some c => wIdx c.ctorIdx | none => [])
    ++ wOpt (fun x : Latest => wIdx x.requester.ctorIdx) r.latest
    ++ wOpt (fun x : Latest => wBV x.endTime) r.latest
    ++ wOpt (fun x : Completed =>
        wValues i.kind x.values ++ wIdx x.outcome.ctorIdx ++ wIdx x.requester.ctorIdx ++ wBV x.endTime) r.completed
    ++ wOpt (fun _ : Latest => wIdx r.report.ctorIdx) r.latest

/-- The ports shed, as a list (R141, R142). -/
def State.shedBytes (s : State) : List Byte :=
  wList wPort ([Port.a, .b].filter fun p => (s.port p).hold.shed)

/-- The records in DECISION_WANTED (R116). -/
def State.wanted (s : State) : Nat :=
  ([Port.a, .b].filter fun p => (s.call p).sub == some .decisionWanted).length

/-- The highest-level record in ACTIVE, RETRY_WAIT or LATCHED (R161). -/
def State.topFault (s : State) : Option FaultId :=
  s.highest (allFaults.filter fun i => (s.faultRec i).state.isOpen)

def State.countState (s : State) (st : FaultState) : Nat :=
  (allFaults.filter fun i => (s.faultRec i).state == st).length

/-- Free cells of the upstream cell queue. -/
def SS.free (x : SS) : Nat := Config.upQueueCells - x.upQueue.length

/-! ## Notices -/

/-- Bytes 0 and 1 of a NOTICE body (R174). -/
def Notice.head : Notice → List Byte
  | .started => [0x01, 0]
  | .link => [0x02, 0]
  | .gate => [0x03, 0]
  | .flow => [0x04, 0]
  | .custody => [0x05, 0]
  | .snapshot => [0x06, 0]
  | .supply => [0x07, 0]
  | .test => [0x08, 0]
  | .fault => [0x09, 0]
  | .frameError => [0x0A, 0]
  | .hook p => 0x10 :: wPort p
  | .digits p => 0x11 :: wPort p
  | .call p => 0x12 :: wPort p

/-- R180. -/
def State.startedContent (s : State) : List Byte :=
  wIdx s.sts.cause.ctorIdx ++ wIdx s.sts.loadResult.ctorIdx ++ wBool s.sts.regionOk ++ wBool s.sts.strap
    ++ wBV s.uptime ++ wIdx s.sup.mode.ctorIdx

/-- R22. -/
def State.linkContent (s : State) : List Byte :=
  wIdx s.le.link.ctorIdx ++ s.le.hold.bytes ++ w8 s.le.attempts ++ wBool s.reducedMargin
    ++ wIdx s.le.lastFailure.ctorIdx ++ wIdx s.le.lastLoss.ctorIdx ++ wIdx s.effProfile.ctorIdx
    ++ wIdx s.le.inForce.ctorIdx

/-- R55; P follows while LOCKED, which the tracking status says (R168). -/
def State.gateContent (s : State) : List Byte :=
  wIdx s.tracker.ctorIdx ++ wIdx s.ft.tracking.ctorIdx
    ++ (if s.ft.tracking = .locked then w16 (s.ft.period.getD 0) else [])
    ++ wOpt (fun a : Agreement => wBV a.cur.anchor ++ wOpt wBV a.endSf) s.ft.agreement
    ++ w8 s.agreedWidth ++ wFirst s.ft.impulse

/-- R62. -/
def State.flowContent (s : State) : List Byte := wFirst s.ss.xon ++ w8 s.ss.free

/-- R116. -/
def State.custodyContent (s : State) : List Byte :=
  wIdx s.cc.custody.ctorIdx ++ wTimer 2 s.cc.grace ++ w8 s.wanted

/-- R129. -/
def State.snapshotContent (s : State) : List Byte :=
  wOpt (fun r : Readout => w16 r.number ++ wIdx r.cause.ctorIdx ++ wIdx r.kind.ctorIdx) s.mu.readout
    ++ wBool s.mu.overflow ++ wBool s.mu.pending.isSome

/-- R142. -/
def State.supplyContent (s : State) : List Byte :=
  wIdx s.sup.mode.ctorIdx ++ wIdx s.sup.adapter.ctorIdx ++ wSnr s.sup.battV ++ wSnr s.sup.adapterV
    ++ wIdx s.sup.profile.ctorIdx ++ wFirst s.sup.procPwr ++ s.shedBytes ++ wFirst s.sup.batteryFault

/-- R153. -/
def State.testContent (s : State) : List Byte :=
  wOpt CurrentTest.bytes s.tu.current
    ++ wOpt (fun i : ResultId => LastResult.bytes i (s.tu.results.get i)) s.tu.lastWritten

/-- R161. -/
def State.faultContent (s : State) : List Byte :=
  w8 (s.countState .clear) ++ w8 (s.countState .active) ++ w8 (s.countState .retryWait) ++ w8 (s.countState .latched)
    ++ w8 (s.countState .recovered)
    ++ wOpt (fun i : FaultId =>
        wFault i ++ w8 (s.faultSetting i).level ++ wIdx (s.faultRec i).state.ctorIdx) s.topFault
    ++ wBool s.faultPin ++ wOpt (fun e : HistEntry => w16 e.seq) s.fs.history.getLast?

/-- R174. -/
def State.errorContent (s : State) : List Byte :=
  w32 s.plk.errors.check ++ w32 s.plk.errors.length ++ w32 s.plk.errors.kind ++ w32 s.plk.errors.discarded
    ++ wIdx ((s.plk.lastError.map (·.ctorIdx)).getD 0)

/-- R96. -/
def State.hookContent (s : State) (p : Port) : List Byte :=
  let x := s.port p
  wPort p ++ wIdx x.hook.ctorIdx ++ wIdx x.feed.ctorIdx ++ x.hold.bytes ++ wBool x.ringInhibit

/-- The content of a notice, formed from the owning block's state as it stands (R175). -/
def State.noticeContent (s : State) : Notice → List Byte
  | .started => s.startedContent
  | .link => s.linkContent
  | .gate => s.gateContent
  | .flow => s.flowContent
  | .custody => s.custodyContent
  | .snapshot => s.snapshotContent
  | .supply => s.supplyContent
  | .test => s.testContent
  | .fault => s.faultContent
  | .frameError => s.errorContent
  | .hook p => s.hookContent p
  | .digits p => wPort p ++ (s.port p).digitBytes
  | .call p => (s.call p).bytes

end Sys2Proof.Machine
end

