-- ==== Sys2Proof/Machine/OpsLink.lean ====
section
/-!
DEFINITION. Shared operations of the processor link and the upstream cell queue: taking frames (R170, R171), requests
and replies (R171, R172), the outbound arbiter (R173, R175), opening and closing with host power (R66, R136, R176).
-/

namespace Sys2Proof.Machine

/-! ## The upstream cell queue (R61, R62) -/

/-- R62: the flow state follows the free cells, with the FLOW notice. -/
def State.flowLaw (s : State) : State :=
  if s.ss.xon && decide (s.ss.free < 32) then (s.modSs fun x => { x with xon := false }).raise .flow
  else if !s.ss.xon && decide (96 ≤ s.ss.free) then (s.modSs fun x => { x with xon := true }).raise .flow
  else s

/-- R61: a DATA_UP body is one data unit. -/
def State.takeData (s : State) (body : List Byte) : State :=
  if body.isEmpty then s.modCounts fun c => { c with empty := inc32 c.empty }
  else if ceilDiv body.length 60 ≤ s.ss.free then
    (s.modSs fun x =>
      { x with
        upQueue := x.upQueue ++ cellsOf x.dataSeq body
        dataSeq := (x.dataSeq + 1) % 256
        counts := { x.counts with accepted := inc32 x.counts.accepted } }).flowLaw
  else s.modCounts fun c => { c with noRoom := inc32 c.noRoom }

/-! ## Receiving -/

/-- An error discards the frame, adds 1 to its count and raises FRAME_ERROR (R170, R171). -/
def State.frameErr (s : State) (e : FrameErr) : State :=
  (s.modPlk fun k =>
    { k with
      lastError := some e
      errors := match e with
        | .check => { k.errors with check := inc32 k.errors.check }
        | .length => { k.errors with length := inc32 k.errors.length }
        | .kind => { k.errors with kind := inc32 k.errors.kind }
        | .discarded => { k.errors with discarded := inc32 k.errors.discarded } }).raise .frameError

/-- The request code a reply echoes: byte 0 of the body, or 0x00 for an empty body (R172). -/
def codeOf (body : List Byte) : Byte := body.head?.getD 0

/-- R171: a REQUEST frame joins the request queue, is answered BUSY, or is discarded. -/
def State.takeRequest (s : State) (tag : Byte) (body : List Byte) : State :=
  if s.plk.requests.length < 4 then
    s.modPlk fun k =>
      { k with requests := k.requests ++ [{ tag := tag, body := body, executing := false, reply := none }] }
  else if s.plk.busy.length < 4 then
    s.modPlk fun k =>
      { k with
        busy := k.busy ++ [{ tag := tag, reply := { order := k.nextOrder, body := [codeOf body, Code.busy.byte] } }]
        nextOrder := k.nextOrder + 1 }
  else s.frameErr .discarded

/-- R170, CHECK: the complete bytes from LEN through the check are judged. -/
def State.takeFrame (s : State) (bytes : List Byte) : State :=
  let n := bytes.length - 2
  let mid := bytes.take n
  let kind := (mid[2]?).getD 0
  let tag := (mid[3]?).getD 0
  if bytes.drop n ≠ w16 (crc16 mid).toNat then s.frameErr .check
  else if kind.toNat = FrameKind.code .request then s.takeRequest tag (mid.drop 4)
  else if kind.toNat = FrameKind.code .dataUp then s.takeData (mid.drop 4)
  else s.frameErr .kind

/-- LEN of a frame under reception. -/
def lenOf (bytes : List Byte) : Nat := ((bytes[0]?).getD 0).toNat * 256 + ((bytes[1]?).getD 0).toNat

def PLK.hunt (k : PLK) : PLK := { k with rx := .hunt, rxBytes := [] }

/-- R170: one incoming byte. -/
def State.rxByte (s : State) (b : Byte) : State :=
  if !s.plk.isOpen then s
  else
    let l := s.plk.rxBytes ++ [b]
    let enter := fun st => s.modPlk fun k => { k with rx := st, rxBytes := l }
    match s.plk.rx with
    | .hunt => if b = 0xC3 then s.modPlk fun k => { k with rx := .length, rxBytes := [] } else s
    | .length =>
      if l.length < 2 then enter .length
      else if 1600 < lenOf l then (s.modPlk PLK.hunt).frameErr .length
      else enter .header
    | .header =>
      if l.length < 4 then enter .header
      else if lenOf l = 0 then enter .check
      else enter .body
    | .body => if l.length < 4 + lenOf l then enter .body else enter .check
    | .check => if l.length < 6 + lenOf l then enter .check else (s.modPlk PLK.hunt).takeFrame l

def State.rxStream (s : State) (l : List Byte) : State := l.foldl State.rxByte s

/-- A frame of the host: while the receiver hunts, the frame is taken at once, as its bytes would be; a body longer than
LEN allows, and a frame sent into one abandoned part-way, go through the receiver byte by byte (R170). -/
def State.hostFrame (s : State) (kind : FrameKind) (tag : Byte) (body : List Byte) (take : State → State) : State :=
  if s.plk.isOpen && s.plk.rx == .hunt && decide (body.length ≤ 1600) then take s
  else s.rxStream (frameBytes kind tag body)

/-! ## Requests and replies (R171, R172) -/

/-- The oldest queue entry whose reply has not been formed. -/
def PLK.front (k : PLK) : Option ReqEntry := k.requests.find? fun r => r.reply.isNone

/-- Attaching a reply to the oldest unanswered entry. -/
def attachTo (r : Reply) : List ReqEntry → List ReqEntry
  | [] => []
  | e :: t => if e.reply.isNone then { e with executing := false, reply := some r } :: t else e :: attachTo r t

/-- The reply to the request under execution is formed: code, result, fields (R168, R171). -/
def State.reply (s : State) (a : Answer) : State :=
  match s.plk.front with
  | none => s
  | some e =>
    s.modPlk fun k =>
      { k with
        requests := attachTo { order := k.nextOrder, body := [codeOf e.body, a.code.byte] ++ a.fields } k.requests
        nextOrder := k.nextOrder + 1 }

/-- A request under a duration marks its entry executing (R171). -/
def markExecuting : List ReqEntry → List ReqEntry
  | [] => []
  | e :: t => if e.reply.isNone then { e with executing := true } :: t else e :: markExecuting t

/-- Execution of a request by its owner: taken when the oldest unanswered entry, not yet executing, bears the code. A
body that cannot be read is answered BAD_ARGUMENT; one that reads as the command's own arguments is executed (R172).
Any other command finds no occasion. -/
def State.request {α : Type} [DecidableEq α] (s : State) (code : Nat) (f : Reader α) (args : α)
    (run : State → State) : State :=
  match s.plk.front with
  | none => s
  | some e =>
    if e.executing then s
    else match e.body with
      | [] => s
      | c :: rest =>
        if c.toNat ≠ code then s
        else match readAll f rest with
          | none => s.reply (.no .badArgument)
          | some a => if a = args then run s else s

/-- A handler that forms its reply in the moment of execution. -/
def State.answered (r : State × Answer) : State := r.1.reply r.2

/-- The request codes of this manual (R168). -/
def requestCodes : List Nat :=
  [0x01, 0x02, 0x03, 0x04, 0x05, 0x08, 0x09, 0x0C, 0x0D, 0x10, 0x11, 0x12, 0x18, 0x19, 0x1A, 0x1B, 0x1C, 0x1D,
   0x20, 0x21, 0x22, 0x28, 0x29, 0x30, 0x31, 0x32, 0x38, 0x39, 0x3A, 0x3B, 0x40, 0x41, 0x42, 0x43, 0x44]

/-! ## Sending (R173, R175) -/

/-- The formed replies not yet sent, each with its TAG. -/
def PLK.replies (k : PLK) : List (Byte × Reply) :=
  k.requests.filterMap (fun e => e.reply.map fun r => (e.tag, r)) ++ k.busy.map fun b => (b.tag, b.reply)

/-- The oldest formed. -/
def oldestReply : List (Byte × Reply) → Option (Byte × Reply)
  | [] => none
  | x :: t =>
    match oldestReply t with
    | none => some x
    | some y => if y.2.order < x.2.order then some y else some x

/-- ATTN is asserted while the link is open and a frame is in progress or waits (R173). -/
def State.attn (s : State) : Bool :=
  s.plk.isOpen && (s.plk.frame.isSome || !s.plk.replies.isEmpty || !s.plk.notices.isEmpty || !s.plk.dataDown.isEmpty)

/-- The byte the part sends next: the next one of the frame in progress, or a fill byte of 0x00 (R169). -/
def PLK.outByte (k : PLK) : Byte := (k.frame.bind fun f => f.bytes[f.sent]?).getD 0

/-- R173: with no frame in progress, the oldest-formed reply, else the oldest notice, else the oldest data unit. A
notice's content is formed now, with the present notice sequence as its TAG (R175). -/
def State.arbiter (s : State) : State :=
  if !s.plk.isOpen || s.plk.frame.isSome then s
  else match oldestReply s.plk.replies with
    | some (tag, r) =>
      s.modPlk fun k => { k with frame := some { src := .reply r.order, bytes := frameBytes .reply tag r.body } }
    | none =>
      match s.plk.notices with
      | n :: rest =>
        let body := n.head ++ s.noticeContent n
        s.modPlk fun k =>
          { k with
            notices := rest
            noticeSeq := (k.noticeSeq + 1) % 256
            frame := some { src := .notice n, bytes := frameBytes .notice (BitVec.ofNat 8 k.noticeSeq) body } }
      | [] =>
        match s.plk.dataDown with
        | u :: _ => s.modPlk fun k => { k with frame := some { src := .data, bytes := frameBytes .dataDown 0 u } }
        | [] => s

/-- R173: the last check byte of the frame in progress has been sent. -/
def State.frameDone (s : State) : State :=
  match s.plk.frame with
  | none => s
  | some f =>
    let s := s.modPlk fun k => { k with frame := none }
    match f.src with
    | .reply o =>
      s.modPlk fun k =>
        { k with
          requests := k.requests.filter fun e => e.reply.map (·.order) != some o
          busy := k.busy.filter fun b => b.reply.order != o }
    | .notice _ => s
    | .data =>
      (s.modPlk fun k => { k with dataDown := k.dataDown.drop 1 }).modCounts fun c =>
        { c with delivered := inc32 c.delivered }

/-! ## Host power (R66, R136, R176) -/

/-- PROC_PWR_EN is deasserted: the link closes with its lists emptied, and the scheduler empties the host's data
path. -/
def State.hostOff (s : State) : State :=
  let units := s.plk.dataDown.length
  let s := s.modSup fun x => { x with procPwr := false }
  let s := s.modPlk fun k =>
    { k with
      isOpen := false, rx := .hunt, rxBytes := [], requests := [], busy := [], dataDown := [], frame := none
      noticeSeq := (k.noticeSeq + k.notices.length) % 256
      notices := [] }
  let s := s.modSs fun x =>
    { x with
      upQueue := [], xon := true, dataPartial := none
      counts := { x.counts with unitsPower := add32 x.counts.unitsPower units } }
  s.raise .supply

/-- PROC_PWR_EN is asserted: the link opens, and the notices raised because of it are entered. -/
def State.hostOn (s : State) : State :=
  let s := s.modSup fun x => { x with procPwr := true }
  let s := s.modPlk fun k =>
    { k with isOpen := true, rx := .hunt, rxBytes := [], requests := [], busy := [], dataDown := [], frame := none
             notices := [] }
  let first := !s.sts.startedRaised
  let s := s.modSts fun x => { x with startedRaised := true }
  (((s.raiseIf first .started).raise .supply).raise .custody).raise .fault

/-- R134, R136: what the supply mode and custody ask of PROC_PWR_EN: asserted in MAINS and BATTERY; withdrawn in RESERVE
once custody is PART; deasserted in START and DEPLETED. -/
def State.hostPowerLaw (s : State) : State :=
  match s.sup.mode with
  | .mains | .battery => if s.sup.procPwr then s else s.hostOn
  | .reserve => if s.sup.procPwr && s.cc.custody == .part then s.hostOff else s
  | .start | .depleted => if s.sup.procPwr then s.hostOff else s

end Sys2Proof.Machine
end

