-- ==== Sys2Proof/Machine/OpsSupply.lean ====
section
/-!
DEFINITION. Shared operations of the supply supervisor: shedding (R135), entry to a mode (R134, with what R109, R114,
R125, R126, R136, R137 and R148 hang on it), the evaluation (R131 to R133, R139), dormancy (R138); and the laws that
stand at the end of every step.
-/

namespace Sys2Proof.Machine

/-! ## Shedding (R135) -/

/-- Whether the mode and the markings shed a port. DEPLETED keeps the shedding it finds (R134). -/
def State.shouldShed (s : State) (p : Port) : Bool :=
  let a := s.settings.ports.a.lifelineMarked
  let b := s.settings.ports.b.lifelineMarked
  match s.sup.mode with
  | .start => true
  | .mains | .battery => false
  | .reserve =>
    match p with
    | .b => !b
    | .a => !a && b
  | .depleted => (s.port p).hold.shed

/-- R135, R142: the decision for one port, with a SUPPLY notice of its own (DESIGN CHOICE, log 65). -/
def State.shedPort (s : State) (p : Port) : State :=
  let want := s.shouldShed p
  let changed := want != (s.port p).hold.shed
  let s := if want then s.portHoldAdd p .shed else s.portHoldRemove p .shed
  s.raiseIf changed .supply

def State.shedLaw (s : State) : State := (s.shedPort .a).shedPort .b

/-! ## Entry to a mode (R134) -/

/-- The supply profile each mode gives (R17, R134). -/
def SupplyMode.profile (m : SupplyMode) (old : Profile) : Profile :=
  match m with
  | .start | .mains => .full
  | .battery => .trim
  | .reserve => .lifeline
  | .depleted => old

/-- R133: the timers whose move does not start from the mode reached are stopped. The two of R139 run on, into DEPLETED
too (DESIGN CHOICE, log 79). -/
def SUP.enter (x : SUP) (m : SupplyMode) (now : BitVec 32) : SUP :=
  let both := m == .battery || m == .reserve
  { x with
    mode := m, enteredAt := now
    mains := if both then x.mains else none
    cutoff := if both then x.cutoff else none
    recovery := if m = .reserve then x.recovery else none }

/-- R125, R126: the measurement unit takes the report of a change of mode. -/
def MU.modeChanged (x : MU) (m : SupplyMode) : MU :=
  { x with
    forced := m == .reserve
    pending := match x.pending with
      | none => some { cause := .supplyChange, kind := x.active.kind }
      | some p => some p }

/-- R109: at entry to RESERVE a call ringing under plan RING is tested again by the REN condition. -/
def State.retestRing (s : State) (p : Port) : State :=
  match (s.call p).plan with
  | some (.ring _) => if (s.call p).state == .alertingIn && !s.mayRing p then s.ringOff p else s
  | _ => s

/-- R114: what the call controller does at a change of mode. -/
def State.custodyByMode (s : State) (m : SupplyMode) : State :=
  match m with
  | .reserve =>
    let s := if s.cc.custody = .box then
        (s.modCc fun c => { c with grace := some 30000 }).raise .custody
      else s
    (s.retestRing .a).retestRing .b
  | .depleted => (s.setCustody .part).stopGrace.decideAll
  | _ => s.stopGrace

/-- R148: the tests a mode does not permit are aborted. -/
def State.testsByMode (s : State) (m : SupplyMode) : State :=
  match m with
  | .reserve => s.abortIf (fun c => c.kind != .lineForeign) .supply
  | .depleted => s.abortIf (fun _ => true) .supply
  | _ => s

/-- The line calls held: those that hold a channel (R137; DESIGN CHOICE, log 70). -/
def State.heldCalls (s : State) : Nat := ([Port.a, .b].filter fun p => (s.call p).channel.isSome).length

/-- R137: POWER_LOSS on entry to DEPLETED from BATTERY or RESERVE; the wait is over at once where nothing was placed. -/
def State.powerLoss (s : State) (left : SupplyMode) : State :=
  if s.inService && (left == .battery || left == .reserve) then
    let body := wBV s.uptime ++ i16 (s.sup.battV.getD Config.unstatedAverage)
      ++ w8 (if left = .battery then 1 else 2) ++ w8 s.heldCalls
    let (s, placed) := s.placeUnanswered .powerLoss (message codePowerLoss 0 body)
    s.modSup fun x => { x with loss := if placed then .waiting 100 else .ended }
  else s.modSup fun x => { x with loss := .ended }

/-- R134: entry to a supply mode. The profile and the capacity evaluation it brings come before the shedding (DESIGN
CHOICE, log 64). -/
def State.enterMode (s : State) (m : SupplyMode) : State :=
  let left := s.sup.mode
  let s := (s.modSup fun x => x.enter m s.uptime).raise .supply
  let s := s.modMu fun x => x.modeChanged m
  let s := s.testsByMode m
  let s := s.profileInput fun s => s.modSup fun x => { x with profile := m.profile x.profile }
  let s := if m = .depleted then s else s.lineHoldRemove .supply
  let s := s.shedLaw
  let s := s.custodyByMode m
  let s := s.hostPowerLaw
  if m = .depleted then s.powerLoss left else s

/-! ## The evaluation (R131 to R133, R139) -/

/-- The averages handed at the end of a sweep, and the number of values in BATT_V's window (R118). -/
structure Handed where
  battV : Option Int
  battCount : Nat
  battI : Option Int
  adapterV : Option Int
  deriving DecidableEq, Repr

/-- R131, step 1. -/
def nextAdapter (a : Adapter) (v : Option Int) : Adapter :=
  match v with
  | none => a
  | some v =>
    if Config.adapterPresent ≤ v then .present
    else if v < Config.adapterAbsent then .absent
    else a

/-- A comparison of an average, false where it is absent. -/
def avgIs (v : Option Int) (f : Int → Bool) : Bool := (v.map f).getD false

/-- R132: the decision in START. -/
def State.decideStart (s : State) (h : Handed) : State :=
  if h.battCount = 8 then
    s.enterMode <|
      if avgIs h.adapterV fun v => Config.adapterPresent ≤ v then .mains
      else if avgIs h.battV fun v => (s.settings.supply.reserveThreshold : Int) ≤ v then .battery
      else if avgIs h.battV fun v => (s.settings.supply.cutoff : Int) ≤ v then .reserve
      else .depleted
  else s

/-- R133: the immediate moves, from the mode reached until none applies. -/
def State.immediate (h : Handed) : Nat → State → State
  | 0, s => s
  | k + 1, s =>
    match s.sup.mode with
    | .mains => if s.sup.adapter = .absent then State.immediate h k (s.enterMode .battery) else s
    | .battery =>
      if avgIs h.battV fun v => v < (s.settings.supply.reserveThreshold : Int) then
        State.immediate h k (s.enterMode .reserve)
      else s
    | _ => s

/-- A debounce: started by a condition found while stopped, cancelled by one found false, left by an average that is
absent (R131, R133). -/
def debounce (t : Timer) (v : Option Int) (f : Int → Bool) (ms : Nat) : Timer :=
  match v with
  | none => t
  | some v => if f v then t <|> some ms else none

/-- R133: the debounced conditions of the mode reached. -/
def State.debounced (s : State) (h : Handed) : State :=
  let r : Int := s.settings.supply.reserveThreshold
  let c : Int := s.settings.supply.cutoff
  let both := s.sup.mode == .battery || s.sup.mode == .reserve
  s.modSup fun x =>
    { x with
      mains := if both then debounce x.mains h.adapterV (fun v => decide (Config.adapterPresent ≤ v)) 5000
        else x.mains
      cutoff := if both then debounce x.cutoff h.battV (fun v => decide (v < c)) 5000 else x.cutoff
      recovery := if x.mode = .reserve then debounce x.recovery h.battV (fun v => decide (r + 30 ≤ v)) 60000
        else x.recovery }

/-- R139: the low run and the good run. -/
def SUP.batteryRuns (x : SUP) (v : Option Int) : SUP :=
  if x.adapter = .present then
    if x.batteryFault then
      { x with batteryGood := debounce x.batteryGood v (fun v => decide (Config.batteryFaultLevel ≤ v)) 60000 }
    else { x with lowBattery := debounce x.lowBattery v (fun v => decide (v < Config.batteryFaultLevel)) 60000 }
  else { x with lowBattery := none, batteryGood := none }

/-- R131: the evaluation at a hand-over of averages. -/
def State.supplyEvaluation (s : State) (h : Handed) : State :=
  let s := s.modSup fun x => { x with battV := h.battV, battI := h.battI, adapterV := h.adapterV }
  if s.sup.mode = .depleted then s
  else
    let a := nextAdapter s.sup.adapter h.adapterV
    let s := (s.modSup fun x => { x with adapter := a }).raiseIf (decide (s.sup.adapter ≠ a)) .supply
    let s := if s.sup.mode = .start then s.decideStart h else (State.immediate h 3 s).debounced h
    if s.sup.mode = .start || s.sup.mode = .depleted then s else s.modSup fun x => x.batteryRuns h.battV

/-- R139: BATTERY_FAULT changes. -/
def State.setBatteryFault (s : State) (v : Bool) : State :=
  let s := (s.modSup fun x => { x with batteryFault := v, lowBattery := none, batteryGood := none }).raise .supply
  s.faultCondition .batteryFault v s.sup.battV

/-! ## Dormancy (R138) -/

/-- The part dormant: what is retained stays, all else has its reset value. -/
def State.sleep (s : State) : State :=
  { State.reset with
    mu := { Reset.mu with accounts := s.mu.accounts, overflow := s.mu.overflow }
    fs := { Reset.fs with history := s.fs.history, nextSeq := s.fs.nextSeq }
    sts := { Reset.sts with stored := s.sts.stored, storedRegion := s.sts.storedRegion, loading := false }
    uptime := s.uptime, uptimeMs := s.uptimeMs, dormant := true, pending := s.pending }

/-! ## What stands at the end of a step -/

/-- The laws that are kept at every moment (log 6), in turn: the profile (R18), the last decision (R113), the n reported
(R101), the need (R38), the digits (R105), the gate requests (R51, R48), the owed flags and the end reports (R162,
R163) and the host's power (R136). -/
def State.laws (s : State) : State :=
  let s := s.profileLaw.lastDecision.reportN.needLaw
  let s := (s.sendDigits .a).sendDigits .b
  let s := s.gateClearLaw.gateSetLaw
  s.refreshOwed.endReports.hostPowerLaw

/-- The end of a step: the laws; the next outbound frame (R173); dormancy where the wait of R137 has ended. -/
def State.settle (s : State) : State :=
  let s := if s.sup.loss = .ended then s else s.laws
  if s.sup.loss = .ended then s.sleep else s.arbiter

/-- One step of the part while it is not dormant; a dormant part takes nothing but a start (R138). -/
def State.live (s : State) (f : State → State) : State := if s.dormant then s else (f s).settle

end Sys2Proof.Machine
end

