-- ==== Sys2Proof/Machine/OpsSettings.lean ====
section
/-!
DEFINITION. What a change of each settings group does to the block that owns it, shared by the group's request, by
SETTINGS_DEFAULTS and by the settings load (R177, R178).
-/

namespace Sys2Proof.Machine

/-- The bytes of the identity and calibration region over which its check is taken (R179). -/
def Region.image (r : Region) : List Byte :=
  Config.regionImage r.serial r.ident (r.calib.toList.map fun c => ((c.gain : Nat), c.offset))

/-- R21: link enable places or removes DISABLED. -/
def State.applyLinkEnable (s : State) : State :=
  if s.settings.line.linkEnable then s.lineHoldRemove .disabled else s.lineHoldAdd .disabled

/-- R75: the service ratio as a number. -/
def ServiceRatio.n : ServiceRatio → Nat
  | .one => 1
  | .two => 2
  | .four => 4
  | .eight => 8

/-- R75: p above the new N becomes N. -/
def State.applyRatio (s : State) (r : ServiceRatio) : State :=
  (s.modSettings fun x => { x with ratio := r }).modSs fun x => { x with p := min x.p (ServiceRatio.n r) }

/-- R78, R79: port enable places or removes DISABLED. -/
def State.applyPortEnable (s : State) (p : Port) : State :=
  if (s.settings.ports.get p).enable then s.portHoldRemove p .disabled else s.portHoldAdd p .disabled

/-- R85, R93, R135: a port's settings take effect. -/
def State.applyPort (s : State) (p : Port) (new : PortSettings) : State :=
  let old := s.settings.ports.get p
  let s := s.modSettings fun x => { x with ports := x.ports.set p new }
  let s := if old.offHookThreshold = new.offHookThreshold then s
    else s.modPort p fun x => { x with detect := { x.detect with offRun := 0 } }
  let s := s.applyPortEnable p
  if old.lifelineMarked = new.lifelineMarked then s else s.shedLaw

/-- R94: a port ringing with the cadence replaced takes its next phase from pair 0 of the new list. -/
def PP.recadence (x : PP) (n : Nat) : PP :=
  if x.ringRequest = some n then { x with cadence := x.cadence.map fun c => { c with restart := true } } else x

def State.applyCadence (s : State) (n : Nat) (c : Cadence) : State :=
  let s := s.modSettings fun x => { x with cadences := Cadences.set x.cadences n c }
  (s.modPort .a fun x => x.recadence n).modPort .b fun x => x.recadence n

/-- R161, R165: a change of the FAULTS group, with the FAULT notice where it moved the pin, and the condition records
it raises. -/
def State.applyFaults (s : State) (new : FaultSettings) (raised : List FaultId) : State :=
  let pin := s.faultPin
  let s := s.modSettings fun x => { x with faults := new }
  let s := raised.foldl (fun s i => s.policyRaise i) s
  s.raiseIf (pin != s.faultPin) .fault

/-- R178: the defaults of all eight groups take effect as each group's request would. -/
def State.applyDefaults (s : State) : State :=
  let d := Config.defaults
  let s := s.modSettings fun x => { x with line := d.line, gate := d.gate, measure := d.measure, supply := d.supply }
  let s := if s.inService || s.le.link == .exchange then s else s.setMaskInForce d.line.requestedMask
  let s := s.applyLinkEnable
  let s := s.applyRatio d.ratio
  let s := (s.applyPort .a d.ports.a).applyPort .b d.ports.b
  let s := (((s.applyCadence 0 d.cadences.c0).applyCadence 1 d.cadences.c1).applyCadence 2
    d.cadences.c2).applyCadence 3 d.cadences.c3
  s.applyFaults d.faults allFaults

end Sys2Proof.Machine
end

