-- ==== Sys2Proof/Machine/Link.lean ====
section
/-!
DEFINITION. The processor link's commands: REQUEST_FRAME, DATA_UP, FRAME_ERROR, FRAME_SENT, UNKNOWN_REQUEST
(chapter 11).
-/

namespace Sys2Proof.Machine

/-- REQUEST_FRAME (R170, R171): the host has sent a REQUEST frame with a good check. -/
def execRequestFrame (tag : Byte) (body : List Byte) (s : State) : Host.Outcome State Fault Refusal :=
  .next (s.live fun s => s.hostFrame .request tag body fun s => s.takeRequest tag body)

/-- DATA_UP (R61, R170): the host has sent a DATA_UP frame with a good check. -/
def execDataUp (tag : Byte) (body : List Byte) (s : State) : Host.Outcome State Fault Refusal :=
  .next (s.live fun s => s.hostFrame .dataUp tag body fun s => s.takeData body)

/-- FRAME_ERROR (R170): the bytes of a stream as they come; each frame found in it is judged. -/
def execFrameError (stream : List Byte) (s : State) : Host.Outcome State Fault Refusal :=
  .next (s.live fun s => s.rxStream stream)

/-- FRAME_SENT (R173, R65): the last check byte of the frame in progress has been sent. -/
def execFrameSent (s : State) : Host.Outcome State Fault Refusal := .next (s.live State.frameDone)

/-- UNKNOWN_REQUEST (R172): a body of 0 bytes, or a code that names none of the requests of this manual. -/
def execUnknownRequest (s : State) : Host.Outcome State Fault Refusal :=
  .next <| s.live fun s =>
    match s.plk.front with
    | none => s
    | some e =>
      if e.executing || (!e.body.isEmpty && requestCodes.contains (codeOf e.body).toNat) then s
      else s.reply (.no .unknownRequest)

end Sys2Proof.Machine
end

