-- ==== Sys2Proof/Machine/Start.lean ====
section
/-!
DEFINITION. Resets, wake and the settings load: POWER_ON_RESET, PIN_RESET, WAKE, SETTINGS_LOAD_END (chapter 12, R177 to
R180).
-/

namespace Sys2Proof.Machine

/-- R180, step 1, for a pin reset and a wake: every block takes its reset values; the retained domain (history,
accounts, uptime) and the non-volatile stores stay; FACTORY is read. The entry to START raises no SUPPLY notice (DESIGN
CHOICE, log 78). -/
def State.restart (s : State) (cause : ResetCause) (strap : Bool) : State :=
  { State.reset with
    mu := { Reset.mu with accounts := s.mu.accounts, overflow := s.mu.overflow }
    fs := { Reset.fs with history := s.fs.history, nextSeq := s.fs.nextSeq }
    sup := { Reset.sup with enteredAt := s.uptime }
    sts := { Reset.sts with stored := s.sts.stored, storedRegion := s.sts.storedRegion, strap := strap, cause := cause }
    uptime := s.uptime, uptimeMs := s.uptimeMs, pending := s.pending }

/-- POWER_ON_RESET (R180): the retained domain is lost too. -/
def execPowerOnReset (strap : Bool) (s : State) : Host.Outcome State Fault Refusal :=
  .next
    { State.reset with
      sts := { Reset.sts with stored := s.sts.stored, storedRegion := s.sts.storedRegion, strap := strap }
      pending := s.pending }

/-- PIN_RESET (R180, R138): the release of RESETn, dormant or not. -/
def execPinReset (strap : Bool) (s : State) : Host.Outcome State Fault Refusal := .next (s.restart .pin strap)

/-- RESETn goes low, from outside the part: until its release the part does nothing (R180). The table has no row for it;
PIN_RESET is the release (log 30). -/
def State.holdReset (s : State) : State := { s with dormant := true, resetLow := true }

/-- WAKE (R138): the supply comparator has seen the adapter for 5 s. -/
def execWake (strap : Bool) (s : State) : Host.Outcome State Fault Refusal :=
  .next (if s.dormant && !s.resetLow then s.restart .depletedWake strap else s)

/-- R177: whether the stored record's check matches. -/
def StoredRecord.valid (r : StoredRecord) : Bool := r.whole && r.check == crc16 (Config.recordImage r.values)

/-- The values a valid stored record holds. -/
def STS.loaded (x : STS) : Option Settings := x.stored.bind fun r => if r.valid then some r.values else none

/-- R179: whether the region's check matches. -/
def StoredRegion.valid (r : StoredRegion) : Bool := r.whole && r.check == crc16 r.values.image

/-- The values a region with a passing check holds (R179). -/
def STS.loadedRegion (x : STS) : Option Region := x.storedRegion.bind fun r => if r.valid then some r.values else none

/-- R177, R179: the end of the settings load. The mask in force follows the requested mask, and with it the marks of the
empty running table, as everywhere but after RESTART LINE, whose table has none (R23; DESIGN CHOICE, log 47). -/
def State.loadEnd (s : State) : State :=
  let rec' := s.sts.loaded
  let reg := s.sts.loadedRegion
  let values := rec'.getD Config.defaults
  let s := s.modSts fun x =>
    { x with
      loading := false
      loadResult := if rec'.isSome then .stored else .defaults
      region := reg.getD Reset.region
      regionOk := reg.isSome }
  let s := s.modSettings fun _ => values
  let s := if rec'.isSome then s else s.faultEvent .settingsCorrupt
  let s := if reg.isSome then s else s.faultEvent .settingsCorrupt
  let s := s.setMaskInForce values.line.requestedMask
  let s := s.modMu fun x => { x with active := values.measure, started := true, periodRate := values.measure.rate }
  let s := if values.line.linkEnable then s.lineHoldRemove .disabled else s
  let s := if values.ports.a.enable then s.portHoldRemove .a .disabled else s
  if values.ports.b.enable then s.portHoldRemove .b .disabled else s

/-- SETTINGS_LOAD_END (R177), while the load of a start is under way. -/
def execSettingsLoadEnd (s : State) : Host.Outcome State Fault Refusal :=
  .next (s.live fun s => if s.sts.loading then s.loadEnd else s)

end Sys2Proof.Machine
end

