-- ==== Sys2Proof/Machine/Training.lean ====
section
/-!
DEFINITION. The training attempt: QUIET_TIMER_EXPIRY, START_REPLY, REFUSAL, HANDSHAKE_TIMEOUT, PROBE_END,
UPSTREAM_TABLE, CONFIRMATION, EXCHANGE_TIMEOUT, BACK_OFF_EXPIRY (chapter 1, R4 to R12).
-/

namespace Sys2Proof.Machine

/-- QUIET_TIMER_EXPIRY (R4, R5). -/
def execQuietTimerExpiry (s : State) : Host.Outcome State Fault Refusal :=
  .next <| s.live fun s =>
    if s.le.link = .quiet && s.le.phaseTimer.isSome then
      (s.setLink .handshake).modLe fun x => { x with phaseTimer := some Config.handshakeMs }
    else s

/-- START_REPLY (R5, R6): PROBE begins. -/
def execStartReply (s : State) : Host.Outcome State Fault Refusal :=
  .next <| s.live fun s =>
    if s.le.link = .handshake then
      (s.setLink .probe).modLe fun x =>
        { x with probeCount := 0, probeUnhit := 0, probeDown := Reset.le.probeDown, probeUp := Reset.le.probeUp
                 probeUpReadings := 0 }
    else s

/-- REFUSAL (R5, R7). -/
def execRefusal (s : State) : Host.Outcome State Fault Refusal :=
  .next (s.live fun s => if s.le.link = .handshake || s.le.link = .exchange then s.attemptFail .refused else s)

/-- HANDSHAKE_TIMEOUT (R5). -/
def execHandshakeTimeout (s : State) : Host.Outcome State Fault Refusal :=
  .next <| s.live fun s =>
    if s.le.link = .handshake && s.le.phaseTimer.isSome then s.attemptFail .timeout else s

/-- R26: the mean of n readings, rounded half up; 0 where there is none. -/
def probeMean (n sum : Nat) : Nat := if n = 0 then 0 else min 240 (roundHalfUp sum n)

/-- R48: the schedule sent in EXCHANGE while the tracker is LOCKED: anchor superframe 8, and the phase from this symbol
to the start of the next predicted window. -/
def State.exchangeSchedule (s : State) : Option Sched :=
  match s.ft.tracking, s.ft.period, s.ft.next with
  | .locked, some p, some n =>
    let start := firstWindowFrom (n - 1) p s.le.sym
    some { period := p, width := s.settings.gate.windowWidth, anchor := 8
           offset := (dist start s.le.sym).toNat, origin := start }
  | _, _, _ => none

/-- R6, R7: entry to EXCHANGE with the means of PROBE, from which the downstream table is computed. -/
def State.enterExchange (s : State) (snrDown snrUp : List Nat) : State :=
  let p := s.effProfile
  let bits := s.loadDown snrDown s.tt.maskInForce p
  let need := if p = .lifeline then some s.need else none
  let s := s.setLink .exchange
  if bits.sum < Config.floorBits then s.attemptFail .capacity
  else
    let x : Exchange :=
      { snrDown := snrDown, snrUp := snrUp, profile := p, margin := s.margin, cap := Profile.cap p, down := bits
        need := need, sched := s.exchangeSchedule, up := none, confirmed := false }
    (s.modLe fun e => { e with phaseTimer := some Config.exchangeMs, exchange := some x }).modTt fun t =>
      { t with needSent := need, needProgress := none }

/-- PROBE_END (R6, R7, R26): the end of the 4,000th probe symbol. The running tables stay those last in service (R39)
until the exchange has replaced them (R8). -/
def execProbeEnd (s : State) : Host.Outcome State Fault Refusal :=
  .next <| s.live fun s =>
    if s.le.link = .probe && decide (Config.probeSymbols ≤ s.le.probeCount) then
      s.enterExchange (s.le.probeDown.map (probeMean s.le.probeUnhit))
        (s.le.probeUp.map (probeMean s.le.probeUpReadings))
    else s

/-- R7: the upstream table against the cap and the budget of the profile sent. -/
def overCap (cap budget : Nat) (bits : List Nat) : Bool :=
  bits.any (fun b => decide (cap < b)) || decide (budget < loadedTones bits)

/-- A tone of an upstream table: its bits and its smoothed value. -/
def upTone (t : Nat × Nat) : ToneRec := { s := t.2, b := t.1, masked := false }

/-- UPSTREAM_TABLE (R7, R25): the far end's answer in EXCHANGE, each tone with its bits and the far end's smoothed
value, 0 to 240; the LE sends its confirmation. -/
def execUpstreamTable (tones : List (Nat × Nat)) (s : State) : Host.Outcome State Fault Refusal :=
  .next <| s.live fun s =>
    match s.le.exchange with
    | some x =>
      let bits := tones.map (·.1)
      if s.le.link = .exchange && x.up.isNone then
        if overCap x.cap (Profile.upBudget x.profile) bits then s.attemptFail .cap
        else if bits.sum < Config.floorBits then s.attemptFail .capacity
        else s.modLe fun e =>
          { e with exchange := some { x with up := some (tones.map fun t => (t.1, min 240 t.2)), confirmed := true } }
      else s
    | none => s

/-- R8, R26: the downstream table exchanged becomes the running table: its bits, with the smoothed values of PROBE. -/
def downTable (bits snr : List Nat) (mask : List Bool) : List ToneRec :=
  List.zipWith (fun t k => { upTone t with masked := k }) (bits.zip snr) mask

/-- R40, R48: the schedule of EXCHANGE once superframes run from `start`: its offset is the place, in its superframe, of
the first window that begins at or after the anchor superframe (log 31). -/
def Sched.inService (c : Sched) (start : Sym) : Sched :=
  { c with offset := (dist (firstWindowFrom c.origin c.period (start + 40 * c.anchor)) start).toNat % 40 }

/-- R8: entry to IN_SERVICE. The upstream smoothed values are those the far end's table carries (R25). -/
def State.enterService (s : State) (x : Exchange) (up : List (Nat × Nat)) (accepted : Bool) : State :=
  let s := s.setLink .inService
  let s := s.modTt fun t =>
    { t with down := downTable x.down x.snrDown t.maskInForce, up := up.map upTone, cap := x.cap }
  let s := s.modLe fun e =>
    { e with pending := none, sf := 0, sfStart := e.sym, attempts := 0, backoffStep := 0, lastFailure := .none
             syncFails := 0, lowPower := 0, farEnd := none, level := Profile.level x.profile, evalDue := false }
  let s := s.setInForce x.profile
  let s := s.ftUpd fun f =>
    match x.sched with
    | some c =>
      if accepted then
        { f with agreement := some { cur := c.inService s.le.sym, active := false, repl := none, endSf := none } }
      else { f with retry := some Config.gateRetryMs }
    | none => f
  let s := s.linkLossOver.trainFail false
  s.grantWaiting.handPMin

/-- CONFIRMATION (R8): the far end's confirmation after the LE's own. -/
def execConfirmation (accepted : Bool) (s : State) : Host.Outcome State Fault Refusal :=
  .next <| s.live fun s =>
    match s.le.exchange with
    | some x =>
      match x.up with
      | some up => if s.le.link = .exchange && x.confirmed then s.enterService x up accepted else s
      | none => s
    | none => s

/-- EXCHANGE_TIMEOUT (R7). -/
def execExchangeTimeout (s : State) : Host.Outcome State Fault Refusal :=
  .next <| s.live fun s =>
    if s.le.link = .exchange && s.le.phaseTimer.isSome then s.attemptFail .timeout else s

/-- BACK_OFF_EXPIRY (R12). -/
def execBackOffExpiry (s : State) : Host.Outcome State Fault Refusal :=
  .next <| s.live fun s =>
    if s.le.link = .retrainWait && s.le.backoff.isSome then s.enterQuiet.linkLossRetraining else s

end Sys2Proof.Machine
end

