-- ==== Sys2Proof/Machine/Service.lean ====
section
/-!
DEFINITION. The line in service: SYMBOL_RECEIVED, WINDOW_MISSED, SYNC_FAILURE_LOSS, LOW_POWER_LOSS, RETRAIN_TIMEOUT,
PROFILE_TIMER_EXPIRY, EVALUATION, SWAP_APPLY, RATE_APPLY, UP_TABLE_APPLY, CODING_APPLY (chapters 1 to 3).
-/

namespace Sys2Proof.Machine

/-! ## The fence tracker at a symbol (R41 to R43) -/

/-- A predicted window begins at next - 1, with the width set at that moment (R43). -/
def FT.openWindow (x : FT) (c : Sym) (width : Nat) : FT :=
  match x.tracking, x.window, x.next with
  | .locked, none, some n =>
    if 0 ≤ dist c (n - 1) then { x with window := some { start := n - 1, width := width, caught := false } } else x
  | _, _, _ => x

/-- R41, step 3: F + floor((E - F + 8) / 16), clamped to 0 to 255. -/
def floorUpdate (f : Nat) (e : Int) : Nat := (clampInt 0 255 ((f : Int) + (e - f + 8) / 16)).toNat

/-- R42: the lock test on the newest five arrivals: every interval in range and their spread at most 4; the period is
the mean of the four, rounded half up. -/
def lockPeriod (arrivals : List Sym) : Option Nat :=
  match (arrivals.reverse).take 5 with
  | [e, d, c, b, a] =>
    let is := [(b - a).toNat, (c - b).toNat, (d - c).toNat, (e - d).toNat]
    let lo := is.foldl min 4294967296
    let hi := is.foldl max 0
    if Config.periodMin ≤ lo ∧ hi ≤ Config.periodMax ∧ hi - lo ≤ 4 then some (roundHalfUp is.sum 4) else none
  | _ => none

/-- R42: a new burst joins the arrival list; with 8 times held the oldest is dropped first. -/
def FT.arrive (x : FT) (c : Sym) : FT :=
  let l := if 8 ≤ x.arrivals.length then x.arrivals.drop 1 else x.arrivals
  { x with arrivals := l ++ [c] }

/-- R52: an ungated hit. -/
def FT.ungated (x : FT) : FT :=
  { x with hits := satInc 65535 x.hits, stats := { x.stats with total := inc32 x.stats.total } }

/-- R43: the burst catches the running window. -/
def FT.catchBurst (x : FT) (c : Sym) (p : Nat) (n : Sym) (w : Window) : FT :=
  let i := (p : Int) + dist c n
  let p' := (clampInt Config.periodMin Config.periodMax ((3 * (p : Int) + i + 2) / 4)).toNat
  { x with
    period := some p', next := some (c + BitVec.ofNat 32 p'), misses := 0, window := some { w with caught := true }
    stats := { x.stats with caught := inc32 x.stats.caught } }

def FT.stray (x : FT) : FT := { x with stats := { x.stats with stray := inc32 x.stats.stray } }

/-- R42, R43: what a new burst does to the tracking, and whether it was caught. While an agreement ends after a loss of
lock no lock test is made. -/
def FT.track (x : FT) (c : Sym) : FT × Bool :=
  match x.tracking with
  | .searching =>
    if x.agreement.isSome then (x, false)
    else match lockPeriod x.arrivals with
      | some p => ({ x with tracking := .locked, period := some p, next := some (c + BitVec.ofNat 32 p), misses := 0
                            window := none }, false)
      | none => (x, false)
  | .locked =>
    match x.window, x.period, x.next with
    | some w, some p, some n =>
      if w.covers c then (if w.caught then (x, false) else (x.catchBurst c p n w, true)) else (x.stray, false)
    | _, _, _ => (x.stray, false)

/-- R41, R42: a burst opens at symbol c. -/
def State.newBurst (s : State) (c : Sym) (gated : Bool) : State :=
  let caught := ((if gated then s.ft else s.ft.ungated).arrive c |>.track c).2
  let s := s.ftUpd fun x => ((if gated then x else x.ungated).arrive c |>.track c).1
  if caught then s.driftCheck else s

/-- R41, step 4: burst forming. The second component says whether a burst opens. -/
def FT.burstStep (x : FT) (c : Sym) (hit : Bool) : FT × Bool :=
  match x.burst with
  | none => if hit then ({ x with burst := some { first := c, latest := c } }, true) else (x, false)
  | some b =>
    if hit then
      (if dist c b.latest ≤ 4 then ({ x with burst := some { b with latest := c } }, false)
       else ({ x with burst := some { first := c, latest := c } }, true))
    else if 4 ≤ dist c b.latest then ({ x with burst := none }, false)
    else (x, false)

/-- A window that was caught runs to its last symbol (R43). -/
def FT.closeWindow (x : FT) (c : Sym) : FT :=
  match x.window with
  | some w => if w.caught && decide ((w.width : Int) ≤ dist c w.start + 1) then { x with window := none } else x
  | none => x

/-- The schedule's latest begun window moves on with the symbols. -/
def FT.roll (x : FT) (c : Sym) : FT :=
  { x with agreement := x.agreement.map fun a =>
      if (a.cur.period : Int) ≤ dist c a.cur.origin then
        { a with cur := { a.cur with origin := a.cur.origin + BitVec.ofNat 32 a.cur.period } }
      else a }

/-- R41, step 2: E against F + H, with H in qdB; there is no hit test while learning. -/
def State.isHit (s : State) (e : Int) : Bool :=
  decide (64 ≤ s.ft.learn) && decide ((s.ft.floor : Int) + 4 * s.settings.gate.hitThreshold ≤ e)

/-- R41, steps 1 and 3. -/
def FT.floorStep (x : FT) (e : Int) (hit gated : Bool) : FT :=
  if x.learn = 0 then { x with floor := e.toNat, learn := 1 }
  else
    { x with floor := if hit || gated then x.floor else floorUpdate x.floor e, learn := satInc 64 x.learn }

/-! ## The line engine at a symbol (R13, R24 to R26) -/

/-- The readings of one symbol added to the sums; a tone without a reading adds nothing. -/
def addReadings (sums readings : List Nat) : List Nat := sums.zipIdx.map fun (x, i) => x + (readings[i]?).getD 0

/-- R6, R26: a probe symbol; only hit marks keep it out. The readings of a direction count where the symbol carries
them. -/
def LE.probeSymbol (x : LE) (i : SymbolIn) (hit : Bool) : LE :=
  let x := { x with probeCount := satInc Config.probeSymbols x.probeCount }
  if hit then x
  else
    { x with
      probeUnhit := if i.tones.isEmpty then x.probeUnhit else x.probeUnhit + 1
      probeDown := addReadings x.probeDown (i.tones.map fun t => instantSnr t.1 t.2)
      probeUp := addReadings x.probeUp i.upstream
      probeUpReadings := if i.upstream.isEmpty then x.probeUpReadings else x.probeUpReadings + 1 }

/-- R13: the two counts at an ungated symbol. -/
def LE.lossCounts (x : LE) (i : SymbolIn) (sync : Bool) : LE :=
  { x with
    syncFails := if sync then (if i.syncPass then 0 else satInc Config.syncLimit x.syncFails) else x.syncFails
    lowPower := if i.belowFloor then satInc Config.powerLimit x.lowPower else 0 }

/-- R24, R25: a clean sync symbol updates every downstream tone. -/
def Tables.syncReading (t : Tables) (i : SymbolIn) : Tables :=
  { t with
    down := List.zipWith (fun r m => { r with s := smooth r.s m }) t.down
      (i.tones.map fun p => instantSnr p.1 p.2) ++ t.down.drop i.tones.length }

/-- The line engine's part of a symbol. -/
def State.lineSymbol (s : State) (i : SymbolIn) (c : Sym) (hit gated : Bool) : State :=
  match s.le.link with
  | .probe => s.modLe fun x => if x.probeCount < Config.probeSymbols then x.probeSymbol i hit else x
  | .inService =>
    let sync := (c - s.le.sfStart).toNat % 40 == 0
    let s := if gated then s else s.modLe fun x => x.lossCounts i sync
    if sync && !hit && !gated then s.modTt fun t => t.syncReading i else s
  | _ => s

/-- R41 and the rules of one received symbol: the tracker acts, then the line engine, and the symbol counter advances
(R1). A predicted window that starts with the next symbol runs from now on, and keeps its width (R43). -/
def State.symbol (s : State) (i : SymbolIn) : State :=
  let c := s.le.sym
  let s := s.modFt fun x => x.openWindow c s.settings.gate.windowWidth
  let e := clampInt 0 255 i.energy
  let gated := s.gated c
  let hit := s.isHit e
  let s := s.modFt fun x => x.floorStep e hit gated
  let opens := (s.ft.burstStep c hit).2
  let s := s.modFt fun x => (x.burstStep c hit).1
  let s := if opens then s.newBurst c gated else s
  let s := s.lineSymbol i c hit gated
  let s := s.modFt fun x => ((x.closeWindow c).openWindow (c + 1) s.settings.gate.windowWidth).roll (c + 1)
  s.modLe fun x => { x with sym := x.sym + 1 }

/-- SYMBOL_RECEIVED (R41, R13, R24, R26), while the line driver runs. -/
def execSymbolReceived (i : SymbolIn) (s : State) : Host.Outcome State Fault Refusal :=
  .next (s.live fun s => if s.le.link.driverOn then s.symbol i else s)

/-- R44: a miss; the third in a row loses lock. -/
def FT.miss (x : FT) (p : Nat) (n : Sym) : FT :=
  let x := { x with stats := { x.stats with missed := inc32 x.stats.missed }, window := none }
  if 2 ≤ x.misses then
    { x with tracking := .searching, arrivals := [], period := none, next := none, misses := 0 }
  else { x with next := some (n + BitVec.ofNat 32 p), misses := x.misses + 1 }

/-- WINDOW_MISSED (R44): the last symbol of a predicted window has passed with no burst opened in it. -/
def execWindowMissed (s : State) : Host.Outcome State Fault Refusal :=
  .next <| s.live fun s =>
    match s.ft.tracking, s.ft.window, s.ft.period, s.ft.next with
    | .locked, some w, some p, some n =>
      if s.le.link.driverOn && !w.caught && decide ((w.width : Int) ≤ dist s.le.sym w.start) then
        s.ftUpd fun x => x.miss p n
      else s
    | _, _, _, _ => s

/-! ## Losses -/

/-- SYNC_FAILURE_LOSS (R13, R15). -/
def execSyncFailureLoss (s : State) : Host.Outcome State Fault Refusal :=
  .next (s.live fun s => if s.inService && decide (Config.syncLimit ≤ s.le.syncFails) then s.loss .sync else s)

/-- LOW_POWER_LOSS (R13, R15). -/
def execLowPowerLoss (s : State) : Host.Outcome State Fault Refusal :=
  .next (s.live fun s => if s.inService && decide (Config.powerLimit ≤ s.le.lowPower) then s.loss .signal else s)

/-- RETRAIN_TIMEOUT (R14): 100 ms have passed since the RETRAIN. -/
def execRetrainTimeout (s : State) : Host.Outcome State Fault Refusal :=
  .next (s.live fun s => if s.inService && s.le.farEnd.isSome then s.loss .farEnd else s)

/-- PROFILE_TIMER_EXPIRY (R18): the 2 s end with a profile pending. -/
def execProfileTimerExpiry (s : State) : Host.Outcome State Fault Refusal :=
  .next <| s.live fun s =>
    match s.le.pending with
    | some p =>
      if s.inService && p.timer.isSome then
        (if overCap (Profile.cap p.profile) (Profile.upBudget p.profile) (s.tt.up.map (·.b)) then s.loss .protocol
         else (s.modLe fun x => { x with pending := none }).setInForce p.profile)
      else s
    | none => s

/-! ## EVALUATION (R31, R32) -/

/-- R31, step 3: one tone's low count. -/
def lowCount (m : Int) (t : ToneRec) (c : Nat) : Nat :=
  match t.margin with
  | some x => if x < m - 12 then min 4 (c + 1) else 0
  | none => 0

/-- A loaded tone: its place in the table, its margin and its bits. -/
def loadedList (t : List ToneRec) : List (Nat × Int × Nat) :=
  t.zipIdx.filterMap fun (r, i) => r.margin.map fun m => (i, m, r.b)

/-- R32: the loaded tone with the lowest margin, ties to the lower index. -/
def donor (t : List ToneRec) : Option (Nat × Int × Nat) :=
  (loadedList t).foldl (fun best x =>
    match best with
    | none => some x
    | some b => if x.2.1 < b.2.1 then some x else some b) none

/-- R32: the loaded tone with the highest margin of those with m ≥ M + 12 and b below 12, ties to the lower index. -/
def receiver (m : Int) (t : List ToneRec) : Option (Nat × Int × Nat) :=
  ((loadedList t).filter fun x => decide (m + 12 ≤ x.2.1) && decide (x.2.2 < 12)).foldl (fun best x =>
    match best with
    | none => some x
    | some b => if b.2.1 < x.2.1 then some x else some b) none

/-- What R32 chooses. -/
inductive Choice where
  | rate (r : RateReason) | swap (donor receiver : Nat) | hold | none
  deriving DecidableEq, Repr

/-- R32, item 2: a low tone leads to a swap, to a DOWNSHIFT, or, too soon after a swap, to no action. -/
def State.lowTone (s : State) : Choice :=
  match donor s.tt.down, receiver s.margin s.tt.down with
  | some d, some r =>
    if d.2.2 = 2 || decide (d.2.1 < s.margin - 24) then .rate .downshift
    else if (s.tt.lastSwap.map fun e => decide ((s.le.sf - e).toNat < 4)).getD false then .hold
    else .swap (d.1 + Config.firstDown) (r.1 + Config.firstDown)
  | _, _ => .rate .downshift

/-- R32: the first item that applies. -/
def State.choose (s : State) : Choice :=
  let masked := (List.zipWith (fun (t : ToneRec) k => k && decide (t.b ≠ 0)) s.tt.down
    s.settings.line.requestedMask).any id
  if masked then .rate .mask
  else if s.budgetCount s.effProfile < loadedTones (s.tt.down.map (·.b)) then .rate .profile
  else if s.tt.lowCounts.any (· == 4) then s.lowTone
  else if 60 ≤ s.tt.upshift then .rate .upshift
  else .none

/-- R33: a SWAP proposal. -/
def State.proposeSwap (s : State) (d r : Nat) : State :=
  (s.modTt fun t => { t with inFlight := .swap d r none none }).requestTx .swap none (w8 d ++ w8 r)

/-- R31. -/
def State.evaluate (s : State) : State :=
  let bits := s.computeDown s.settings.line.requestedMask s.effProfile
  let s := s.modTt fun t => { t with cand := setBits t.down bits }
  if s.tt.inFlight ≠ .none || s.tt.waitingRate.isSome then s
  else
    let grows := s.settings.line.upshiftEnable && decide (11 * total s.tt.down ≤ 10 * bits.sum)
    let m := s.margin
    let s := s.modTt fun t =>
      { t with lowCounts := List.zipWith (lowCount m) t.down t.lowCounts
               upshift := if grows then satInc 60 t.upshift else 0 }
    match s.choose with
    | .rate .upshift => (s.rateOut .upshift bits).modTt fun t => { t with upshift := 0 }
    | .rate r => s.rateOut r bits
    | .swap d r => s.proposeSwap d r
    | .hold | .none => s

/-- EVALUATION (R31, R162): at the end of a superframe that brings the counter to a multiple of 100; the beacon comes
after what R31 does (DESIGN CHOICE, log 93). -/
def execEvaluation (s : State) : Host.Outcome State Fault Refusal :=
  .next <| s.live fun s =>
    if s.inService && s.le.evalDue then
      ((s.modLe fun x => { x with evalDue := false }).evaluate).periodicBeacon
    else s

/-! ## Effective superframes -/

/-- R38: when the RATE and an UP_TABLE have both been applied the need is met, and a waiting call is tested again. -/
def State.needMet (s : State) : State :=
  match s.tt.needProgress with
  | some n =>
    if n.rate && n.up then (s.modTt fun t => { t with needProgress := none }).retestWaiting else s
  | none => s

/-- One bit moved between two tones (R33). -/
def swapBits (d r : Nat) (t : List ToneRec) : List ToneRec :=
  t.zipIdx.map fun (x, i) =>
    if i + Config.firstDown = d then { x with b := x.b - 1 }
    else if i + Config.firstDown = r then { x with b := x.b + 1 }
    else x

def clearCounts (d r : Nat) (l : List Nat) : List Nat :=
  l.zipIdx.map fun (c, i) => if i + Config.firstDown = d || i + Config.firstDown = r then 0 else c

/-- SWAP_APPLY (R33): the start of the swap's S_eff. The hand-over of P_min with its capacity evaluation (R30, R102)
comes before the RATE that waits is sent (DESIGN CHOICE, log 75). -/
def execSwapApply (s : State) : Host.Outcome State Fault Refusal :=
  .next <| s.live fun s =>
    match s.tt.inFlight with
    | .swap d r _ (some e) =>
      if s.inService && e == s.le.sf then
        ((s.modTt fun t =>
          { t with down := swapBits d r t.down, lowCounts := clearCounts d r t.lowCounts
                   lastSwap := some e }).handPMin).changeEnded .applied
      else s
    | _ => s

/-- R34: a RATE applies. Any RATE that applies while none waits counts as the RATE of a need under way, whatever its
reason (R38; DESIGN CHOICE, log 50). The hand-over of P_min (R30) comes before the RATE that waits is sent (DESIGN
CHOICE, log 75). -/
def State.applyRate (s : State) (m : RateMsg) : State :=
  let newest := s.tt.waitingRate.isNone
  let s := s.modTt fun t =>
    { t with down := setBits t.down m.bits, lowCounts := Reset.tables.lowCounts, upshift := 0
             needProgress := if newest then t.needProgress.map fun n => { n with rate := true } else t.needProgress }
  let s := (s.setMaskInForce m.mask).modLe fun x => { x with level := m.level }
  (s.handPMin.changeEnded .applied).needMet

/-- RATE_APPLY (R34): the start of the RATE's S_eff. -/
def execRateApply (s : State) : Host.Outcome State Fault Refusal :=
  .next <| s.live fun s =>
    match s.tt.inFlight with
    | .rate m _ (some e) => if s.inService && e == s.le.sf then s.applyRate m else s
    | _ => s

/-- R36: an accepted UP_TABLE applies; with the cap of a pending profile it brings that profile into force. -/
def State.applyUp (s : State) (u : UpChange) : State :=
  let s := s.modTt fun t =>
    { t with up := u.table, cap := u.cap, upWaiting := none
             needProgress := t.needProgress.map fun n => { n with up := n.up || decide (n.old ≠ some u), old := none } }
  let s := match s.le.pending with
    | some p =>
      if Profile.cap p.profile = u.cap then (s.modLe fun x => { x with pending := none }).setInForce p.profile else s
    | none => s
  s.handPMin.needMet

/-- UP_TABLE_APPLY (R36): the start of the UP_TABLE's S_eff. -/
def execUpTableApply (s : State) : Host.Outcome State Fault Refusal :=
  .next <| s.live fun s =>
    match s.tt.upWaiting with
    | some u => if s.inService && u.seff == s.le.sf then s.applyUp u else s
    | none => s

/-- CODING_APPLY (R102): the start of a downgrade's S_eff. -/
def execCodingApply (p : Port) (s : State) : Host.Outcome State Fault Refusal :=
  .next <| s.live fun s =>
    match (s.call p).downgrade with
    | some { seff := some e } =>
      if s.inService && e == s.le.sf then
        s.updCall p fun r => { r with coding := some .reduced, downgrade := none }
      else s
    | _ => s

end Sys2Proof.Machine
end

