-- ==== Sys2Proof/Machine/LineRequests.lean ====
section
/-!
DEFINITION. The requests of the line: LINE_STATUS, LINE_CONFIGURE, RESTART with its two scopes, LINE_TABLE_READ,
TONE_MASK (chapters 1, 2, 12).
-/

namespace Sys2Proof.Machine

/-! ## LINE_STATUS -/

/-- R20. -/
def State.lineStatusFields (s : State) : List Byte :=
  wIdx s.le.link.ctorIdx ++ s.le.hold.bytes ++ w8 s.le.attempts ++ w8 s.settings.line.marginTarget ++ w8 s.marginDb
    ++ wBool s.reducedMargin ++ w8 s.le.backoffStep
    ++ (if s.le.link = .retrainWait then w16 (s.le.backoff.getD 0) else [])
    ++ wIdx s.le.lastFailure.ctorIdx ++ wIdx s.le.lastLoss.ctorIdx ++ wIdx s.effProfile.ctorIdx
    ++ wIdx s.le.inForce.ctorIdx
    ++ wOpt (fun p : PendingProfile => wIdx p.profile.ctorIdx ++ w16 (p.timer.getD Config.profileMs)) s.le.pending
    ++ w8 s.tt.cap ++ w16 (total s.tt.down) ++ w16 (total s.tt.up) ++ w16 s.pMinDown ++ w16 s.pMinUp
    ++ wBV s.le.sf ++ wBV s.le.sym

/-- LINE_STATUS (R20). -/
def execLineStatus (s : State) : Host.Outcome State Fault Refusal :=
  .next (s.live fun s => s.request 0x01 rNothing () fun s => s.reply (.ok s.lineStatusFields))

/-! ## LINE_CONFIGURE -/

/-- An optional ON or OFF argument: refused outside its set, kept when absent. -/
def takeEnum {α : Type} (old : α) : Option (Enum α) → Option α
  | none => some old
  | some (.known v) => some v
  | some (.outside _) => none

/-- A numeric argument clamped to its range, kept when absent. -/
def takeNat (lo hi old : Nat) (a : Option Nat) : Nat := (a.map (clampNat lo hi)).getD old

def State.lineConfigure (s : State) (le : Option (Enum Bool)) (m : Option Nat) (up : Option (Enum Bool)) : State :=
  let x := s.settings.line
  match takeEnum x.linkEnable le, takeEnum x.upshiftEnable up with
  | some l, some u =>
    let new := { x with linkEnable := l, marginTarget := takeNat 0 15 x.marginTarget m, upshiftEnable := u }
    let s := (s.modSettings fun y => { y with line := new }).applyLinkEnable
    s.reply (.ok (wBool new.linkEnable ++ w8 new.marginTarget ++ wBool new.upshiftEnable))
  | _, _ => s.reply (.no .badArgument)

/-- LINE_CONFIGURE (R21). -/
def execLineConfigure (le : Option (Enum Bool)) (m : Option Nat) (up : Option (Enum Bool)) (s : State) :
    Host.Outcome State Fault Refusal :=
  .next <| s.live fun s =>
    s.request 0x02 (rPair (rArg (rEnum onOff)) (rPair (rArg (rNat 1)) (rArg (rEnum onOff)))) (le, m, up)
      fun s => s.lineConfigure le m up

/-! ## RESTART -/

/-- Scopes of RESTART (R181). -/
inductive Scope where
  | line | ports
  deriving DecidableEq, Repr

/-- R19, R45, R74, R107, R148: RESTART LINE. The emptied running table has no mask marks (R23; log 47). The line leaves
service, with its flush, before the line test is aborted (DESIGN CHOICE, log 88). -/
def State.restartLine (s : State) : State :=
  let s := if s.inService then s.leaveService .quiet .restart else s
  let s := if s.testing fun c => c.kind != .portLoop then s.abortRaw .restart else s
  let s := s.modLe fun x =>
    { x with attempts := 0, reduction := 0, backoffStep := 0, lastFailure := .none, lastLoss := .none }
  let s := s.ftUpd FT.search
  let s := s.trainFail false
  let s := if s.le.hold.isEmpty then s.enterQuiet else s.setLink s.le.hold.state
  s.modTt fun _ => { Reset.tables with maskInForce := s.settings.line.requestedMask }

/-- R92 for one port. -/
def PP.restart (x : PP) : PP :=
  let y := x.clearHook.emptyDigits
  let y := { y with swapTimer := none, ringRequest := none, cadence := none, wanted := .normal, tone := .none
                    audio := .none }
  if y.hold.isEmpty then y.enter .standby else y

/-- R92, R96: one HOOK notice for both changes (DESIGN CHOICE, log 82). -/
def State.restartPort (s : State) (p : Port) : State :=
  let old := s.port p
  let s := s.modPort p PP.restart
  (s.raiseIf (old.hook != (s.port p).hook || old.feed != (s.port p).feed) (.hook p))

/-- R92, R107, R148: RESTART PORTS. Both records of an intercom call end with cause RESTART. -/
def State.restartPorts (s : State) : State :=
  let s := s.abortIf (fun c => c.kind == .portLoop) .restart
  let s := (s.restartPort .a).restartPort .b
  let s := (s.endIntercom .a .restart).endIntercom .b .restart
  (s.portGone .a .restart).portGone .b .restart

/-- R181: the scope of the request decides which restart it is; one outside LINE and PORTS is refused. -/
def State.restartRequest (s : State) (scope : Scope) (run : State → State) : State :=
  match s.plk.front with
  | none => s
  | some e =>
    if e.executing then s
    else match e.body with
      | [] => s
      | c :: rest =>
        if c.toNat ≠ 0x03 then s
        else match readAll (rReq (rEnum [Scope.line, Scope.ports])) rest with
          | some (.known x) => if x = scope then (run s).reply (.ok (wIdx scope.ctorIdx)) else s
          | _ => s.reply (.no .badArgument)

/-- RESTART with scope LINE (R19, R181). -/
def execRestartLine (s : State) : Host.Outcome State Fault Refusal :=
  .next (s.live fun s => s.restartRequest .line State.restartLine)

/-- RESTART with scope PORTS (R92, R181). -/
def execRestartPorts (s : State) : Host.Outcome State Fault Refusal :=
  .next (s.live fun s => s.restartRequest .ports State.restartPorts)

/-! ## LINE_TABLE_READ -/

/-- A tone record with its index; the margin follows where bits are carried (R39, R168). An upstream record, which R23
gives no mask mark, carries the mark byte too, clear (DESIGN CHOICE, log 12). -/
def ToneRec.bytes (t : ToneRec) (i : Nat) : List Byte :=
  w8 i ++ w8 t.s ++ w8 t.b ++ wBool t.masked ++ (match t.margin with | some m => i16 m | none => [])

def tableBytes (first : Nat) (t : List ToneRec) : List Byte :=
  w8 t.length ++ t.zipIdx.flatMap fun (r, i) => r.bytes (first + i)

/-- The downstream change in flight, with its S_eff when acknowledged. -/
def DownChange.bytes : DownChange → List Byte
  | .none => wIdx 0 ++ [0]
  | .swap _ _ _ e => wIdx 1 ++ wOpt wBV e
  | .rate _ _ e => wIdx 2 ++ wOpt wBV e

/-- R39: the direction's P_min, for RUNNING; nothing before it in the reply says which table it is, so a presence byte
does (R168). -/
def pMinBytes (p : Option Nat) : List Byte := wOpt w16 p

/-- R39: what follows the table. -/
def State.tableTail (s : State) : List Byte :=
  wNat 1 s.margin.toNat ++ w8 s.tt.cap ++ s.tt.inFlight.bytes
    ++ wOpt (fun r : RateReason => wIdx r.ctorIdx) s.tt.waitingRate
    ++ wOpt (fun u : UpChange => wBV u.seff) s.tt.upWaiting
    ++ wIdx s.tt.lastResult.ctorIdx ++ w8 s.tt.upshift

def State.lineTableRead (s : State) (d : Enum Direction) (t : Enum TableSel) : State :=
  match d, t with
  | .known .down, .known .running =>
    s.reply (.ok (tableBytes Config.firstDown s.tt.down ++ wList w8 s.tt.lowCounts ++ w16 (total s.tt.down)
      ++ pMinBytes (some s.pMinDown) ++ s.tableTail))
  | .known .down, .known .candidate =>
    s.reply (.ok (tableBytes Config.firstDown s.tt.cand ++ wList w8 s.tt.lowCounts ++ w16 (total s.tt.cand)
      ++ pMinBytes none ++ s.tableTail))
  | .known .up, .known .running =>
    s.reply (.ok (tableBytes Config.firstUp s.tt.up ++ w16 (total s.tt.up) ++ pMinBytes (some s.pMinUp)
      ++ s.tableTail))
  | _, _ => s.reply (.no .badArgument)

/-- LINE_TABLE_READ (R39). -/
def execLineTableRead (d : Enum Direction) (t : Enum TableSel) (s : State) : Host.Outcome State Fault Refusal :=
  .next <| s.live fun s =>
    s.request 0x04 (rPair (rReq (rEnum directions)) (rReq (rEnum tableSels))) (d, t) fun s => s.lineTableRead d t

/-! ## TONE_MASK -/

/-- The refusals of R37 on the arguments. -/
def badRanges (a : MaskAction) (rs : List (Nat × Nat)) : Bool :=
  decide (16 < rs.length) || (rs.isEmpty && a != .replace)
    || rs.any fun r => decide (r.1 < 32) || decide (255 < r.1) || decide (r.2 < 32) || decide (255 < r.2)
        || decide (r.2 < r.1)

/-- The requested mask an action makes (R37). -/
def maskBy (a : MaskAction) (old : List Bool) (rs : List (Nat × Nat)) : List Bool :=
  let f := rangeFlags rs
  match a with
  | .mask => List.zipWith (· || ·) old f
  | .unmask => List.zipWith (fun x y => x && !y) old f
  | .replace => f

def State.maskReply (s : State) : State :=
  let m := s.settings.line.requestedMask
  s.reply (.ok (w8 (m.filter id).length ++ wBool (s.tt.maskInForce != m)))

def State.setRequestedMask (s : State) (m : List Bool) : State :=
  s.modSettings fun x => { x with line := { x.line with requestedMask := m } }

/-- TONE_MASK (R37). In service the table tested is that of the effective profile, also while a profile is pending, and
the MASK RATE sent at once is computed for the profile pending (DESIGN CHOICE, log 49). -/
def State.toneMask (s : State) (a : Enum MaskAction) (rs : List (Nat × Nat)) : State :=
  match a with
  | .outside _ => s.reply (.no .badArgument)
  | .known a =>
    if badRanges a rs then s.reply (.no .badArgument)
    else
      let m := maskBy a s.settings.line.requestedMask rs
      if s.inService then
        if (s.computeDown m s.effProfile).sum < Config.floorBits then s.reply (.no .refusedState)
        else ((s.setRequestedMask m).oweRate .mask).maskReply
      else if s.le.link = .exchange then (s.setRequestedMask m).maskReply
      else ((s.setRequestedMask m).setMaskInForce m).maskReply

/-- TONE_MASK (R37). -/
def execToneMask (a : Enum MaskAction) (rs : List (Nat × Nat)) (s : State) : Host.Outcome State Fault Refusal :=
  .next <| s.live fun s =>
    s.request 0x05 (rPair (rReq (rEnum maskActions)) (rReq (rList (rPair (rNat 1) (rNat 1))))) (a, rs)
      fun s => s.toneMask a rs

end Sys2Proof.Machine
end

