-- ==== Sys2Proof/Machine/GateRequests.lean ====
section
/-!
DEFINITION. The requests of the fence tracker and the scheduler: GATE_CONFIGURE, GATE_STATUS, SCHEDULE_CONFIGURE,
SCHEDULE_STATUS (chapters 3 and 4).
-/

namespace Sys2Proof.Machine

/-! ## GATE_CONFIGURE -/

def State.gateConfigure (s : State) (h w i : Option Nat) (a : Option (Enum Bool)) : State :=
  let x := s.settings.gate
  match takeEnum x.agreementEnable a with
  | none => s.reply (.no .badArgument)
  | some en =>
    let new : GateSettings :=
      { hitThreshold := takeNat 6 24 x.hitThreshold h
        windowWidth := takeNat 2 8 x.windowWidth w
        impulseThreshold := takeNat 1 100 x.impulseThreshold i
        agreementEnable := en }
    (s.modSettings fun y => { y with gate := new }).reply
      (.ok (w8 new.hitThreshold ++ w8 new.windowWidth ++ w8 new.impulseThreshold ++ wBool new.agreementEnable))

/-- GATE_CONFIGURE (R53). -/
def execGateConfigure (h w i : Option Nat) (a : Option (Enum Bool)) (s : State) :
    Host.Outcome State Fault Refusal :=
  .next <| s.live fun s =>
    s.request 0x08 (rPair (rArg (rNat 1)) (rPair (rArg (rNat 1)) (rPair (rArg (rNat 1)) (rArg (rEnum onOff)))))
      (h, w, i, a) fun s => s.gateConfigure h w i a

/-! ## GATE_STATUS -/

/-- A schedule: period, width, anchor superframe and the offset within it, 0 to 39 (R40, R48). -/
def Sched.bytes (c : Sched) : List Byte := w16 c.period ++ w8 c.width ++ wBV c.anchor ++ w8 c.offset

/-- R54. IMPULSE_NOISE (present, absent) is numbered as R40 lists it (R168). -/
def State.gateStatusFields (s : State) : List Byte :=
  let x := s.ft
  wIdx s.tracker.ctorIdx ++ wIdx x.tracking.ctorIdx ++ w8 x.floor
    ++ wBool (s.le.link.driverOn && decide (x.learn < 64))
    ++ (if x.tracking = .locked then w16 (x.period.getD 0) ++ wBV (x.next.getD 0) else [])
    ++ w8 x.misses ++ wList wBV x.arrivals
    ++ wOpt (fun a : Agreement =>
        a.cur.bytes ++ wOpt Sched.bytes a.repl ++ wOpt wBV a.endSf ++ wBool a.active) x.agreement
    ++ w8 s.agreedWidth
    ++ wIdx (match x.request with | .none => 0 | .set _ => 1 | .clear _ => 2) ++ wTimer 2 x.retry
    ++ w16 x.hits ++ w8 x.highRun ++ w8 x.lowRun ++ wFirst x.impulse
    ++ w32 x.stats.caught ++ w32 x.stats.missed ++ w32 x.stats.stray ++ w32 x.stats.total ++ w32 x.stats.peak

/-- An optional argument that has one value: refused if another is given (R54, R76, R95). -/
def takeClear : Option (Enum Unit) → Option Bool
  | none => some false
  | some (.known _) => some true
  | some (.outside _) => none

def State.gateStatus (s : State) (c : Option (Enum Unit)) : State :=
  match takeClear c with
  | none => s.reply (.no .badArgument)
  | some b =>
    let s := s.reply (.ok s.gateStatusFields)
    if b then s.modFt fun x => { x with stats := Reset.ft.stats } else s

/-- GATE_STATUS (R54). -/
def execGateStatus (c : Option (Enum Unit)) (s : State) : Host.Outcome State Fault Refusal :=
  .next (s.live fun s => s.request 0x09 (rArg (rEnum [()])) c fun s => s.gateStatus c)

/-! ## SCHEDULE_CONFIGURE -/

def State.scheduleConfigure (s : State) (r : Enum ServiceRatio) : State :=
  match r with
  | .known r => (s.applyRatio r).reply (.ok (wIdx r.ctorIdx))
  | .outside _ => s.reply (.no .badArgument)

/-- SCHEDULE_CONFIGURE (R75). -/
def execScheduleConfigure (r : Enum ServiceRatio) (s : State) : Host.Outcome State Fault Refusal :=
  .next (s.live fun s => s.request 0x0C (rReq (rEnum serviceRatios)) r fun s => s.scheduleConfigure r)

/-! ## SCHEDULE_STATUS -/

/-- Units of the upstream queue not yet wholly placed: each still has its last cell there. -/
def unitsWaiting (l : List Cell) : Nat := (l.filter (·.fin)).length

def Partial.count (p : Option Partial) : Nat := (p.map (·.cells)).getD 0

/-- Places of the pool taken: the partial data unit's and every complete unit's (R65). -/
def State.poolUsed (s : State) : Nat :=
  Partial.count s.ss.dataPartial + (s.plk.dataDown.map fun u => ceilDiv u.length 60).sum

/-- An entry of the transaction list in SCHEDULE_STATUS (R76); its kind, a message type (R56), is numbered in the order
in which R67 lists the types (R168; log 53). -/
def Tx.bytes (t : Tx) : List Byte :=
  wIdx t.req.kind.ctorIdx ++ (match t.req.port with | none => [0] | some p => wPort p) ++ w8 t.number ++ w8 t.sends
    ++ wTimer 1 t.timeLeft

def Repeat.bytes (r : Repeat) : List Byte :=
  wOpt (fun b : Byte => [b]) r.last
    ++ wIdx (match r.answer with | .absent => 0 | .pending => 1 | .held _ _ => 2)

def SsCounts.bytes (c : SsCounts) : List Byte :=
  w32 c.accepted ++ w32 c.noRoom ++ w32 c.empty ++ w32 c.mgmtCells ++ w32 c.dataCells ++ w32 c.idleCells
    ++ w32 c.slotsOmitted ++ w32 c.checkFails ++ w32 c.formatFaults ++ w32 c.orphans ++ w32 c.cellsSequence
    ++ w32 c.delivered ++ w32 c.unitsCheck ++ w32 c.unitsSequence ++ w32 c.unitsLong ++ w32 c.unitsRoom
    ++ w32 c.unitsPower ++ w32 c.unitsLink ++ w32 c.messages ++ w32 c.malformed ++ w32 c.unknownType
    ++ w32 c.repeats ++ w32 c.answersDropped ++ w32 c.unansweredDropped ++ w32 c.unmatched ++ w32 c.failed

/-- R76. -/
def State.scheduleStatusFields (s : State) : List Byte :=
  let x := s.ss
  let r := x.repeats
  w8 x.upQueue.length ++ w8 x.free ++ wIdx (if x.xon then 0 else 1) ++ w8 (unitsWaiting x.upQueue)
    ++ w8 s.poolUsed ++ w8 (Partial.count x.dataPartial) ++ w8 s.plk.dataDown.length
    ++ wIdx s.settings.ratio.ctorIdx ++ w8 x.p
    ++ w8 x.outQueue.length ++ w8 (x.outQueue.filter OutMsg.isSend).length
    ++ wList Tx.bytes x.txs ++ w8 x.nextNumber ++ w8 x.waiting.length
    ++ r.alert.bytes ++ r.clear.bytes ++ r.answered.bytes ++ r.upTable.bytes ++ r.retrain.bytes ++ r.testReq.bytes
    ++ r.beaconClear.bytes ++ x.counts.bytes

def State.scheduleStatus (s : State) (c : Option (Enum Unit)) : State :=
  match takeClear c with
  | none => s.reply (.no .badArgument)
  | some b =>
    let s := s.reply (.ok s.scheduleStatusFields)
    if b then s.modSs fun x => { x with counts := Reset.ssCounts } else s

/-- SCHEDULE_STATUS (R76). -/
def execScheduleStatus (c : Option (Enum Unit)) (s : State) : Host.Outcome State Fault Refusal :=
  .next (s.live fun s => s.request 0x0D (rArg (rEnum [()])) c fun s => s.scheduleStatus c)

end Sys2Proof.Machine
end

