-- ==== Sys2Proof/Machine/PortRequests.lean ====
section
/-!
DEFINITION. The requests of the ports and the call controller: PORT_CONFIGURE, CADENCE_SET, PORT_STATUS, RING_PLAN,
INTERCOM, CUSTODY_CLAIM, CUSTODY_RELEASE, CALL_STATUS, DIGITS_READ (chapters 5 and 6).
-/

namespace Sys2Proof.Machine

/-! ## PORT_CONFIGURE -/

/-- A port's eight settings (R77). -/
def portSettingsBytes (x : PortSettings) : List Byte :=
  wBool x.enable ++ w8 x.currentLimit ++ w8 x.offHookThreshold ++ wIdx x.frequency.ctorIdx ++ wBool x.fenceExposed
    ++ wBool x.lifelineMarked ++ wBool x.reverseOnAnswer ++ wBool x.intercomEnable

def State.portConfigure (s : State) (p : Enum Port) (e : Option (Enum Bool)) (l t : Option Nat)
    (f : Option (Enum RingFreq)) (fe li re ic : Option (Enum Bool)) : State :=
  if s.cc.custody = .part then s.reply (.no .refusedState)
  else match p with
    | .outside _ => s.reply (.no .badArgument)
    | .known p =>
      let x := s.settings.ports.get p
      match takeEnum x.enable e, takeEnum x.frequency f, takeEnum x.fenceExposed fe, takeEnum x.lifelineMarked li,
          takeEnum x.reverseOnAnswer re, takeEnum x.intercomEnable ic with
      | some e, some f, some fe, some li, some re, some ic =>
        let new : PortSettings :=
          { enable := e, currentLimit := takeNat 18 32 x.currentLimit l
            offHookThreshold := takeNat 8 16 x.offHookThreshold t, frequency := f, fenceExposed := fe
            lifelineMarked := li, reverseOnAnswer := re, intercomEnable := ic }
        (s.applyPort p new).reply (.ok (portSettingsBytes new))
      | _, _, _, _, _, _ => s.reply (.no .badArgument)

/-- The arguments of PORT_CONFIGURE. -/
structure PortArgs where
  port : Enum Port
  enable : Option (Enum Bool)
  limit : Option Nat
  threshold : Option Nat
  freq : Option (Enum RingFreq)
  fence : Option (Enum Bool)
  lifeline : Option (Enum Bool)
  reverse : Option (Enum Bool)
  intercom : Option (Enum Bool)
  deriving DecidableEq, Repr

def rPortArgs : Reader PortArgs := fun bytes =>
  (rPair (rReq rPort) (rPair (rArg (rEnum onOff)) (rPair (rArg (rNat 1)) (rPair (rArg (rNat 1))
    (rPair (rArg (rEnum ringFreqs)) (rPair (rArg (rEnum onOff)) (rPair (rArg (rEnum onOff))
      (rPair (rArg (rEnum onOff)) (rArg (rEnum onOff))))))))) bytes).map
    fun ((p, e, l, t, f, fe, li, re, ic), rest) => (⟨p, e, l, t, f, fe, li, re, ic⟩, rest)

/-- PORT_CONFIGURE (R93). -/
def execPortConfigure (p : Enum Port) (e : Option (Enum Bool)) (l t : Option Nat) (f : Option (Enum RingFreq))
    (fe li re ic : Option (Enum Bool)) (s : State) : Host.Outcome State Fault Refusal :=
  .next <| s.live fun s =>
    s.request 0x10 rPortArgs ⟨p, e, l, t, f, fe, li, re, ic⟩ fun s => s.portConfigure p e l t f fe li re ic

/-! ## CADENCE_SET -/

/-- R94: the nearest multiple of 50 ms, halves upward, clamped. -/
def cadenceTime (hi n : Nat) : Nat := clampNat 100 hi (roundHalfUp n 50 * 50)

def roundCadence (ps : List (Nat × Nat)) : Cadence := ps.map fun r => (cadenceTime 4000 r.1, cadenceTime 6000 r.2)

/-- R94; a list longer than the rule allows is refused before its owner sees the request (R172). The echo names the
cadence by its number before the list (DESIGN CHOICE, log 12). -/
def State.cadenceSet (s : State) (n : Nat) (ps : List (Nat × Nat)) : State :=
  if 4 < ps.length then s.reply (.no .badArgument)
  else if s.cc.custody = .part then s.reply (.no .refusedState)
  else if 3 < n || ps.isEmpty then s.reply (.no .badArgument)
  else
    let c := roundCadence ps
    (s.applyCadence n c).reply (.ok (w8 n ++ wList (fun r : Nat × Nat => w16 r.1 ++ w16 r.2) c))

/-- CADENCE_SET (R94). -/
def execCadenceSet (n : Nat) (ps : List (Nat × Nat)) (s : State) : Host.Outcome State Fault Refusal :=
  .next <| s.live fun s =>
    s.request 0x11 (rPair (rReq (rNat 1)) (rReq (rList (rPair (rNat 2) (rNat 2))))) (n, ps)
      fun s => s.cadenceSet n ps

/-! ## PORT_STATUS -/

def PortCounts.bytes (c : PortCounts) : List Byte :=
  w32 c.offHooks ++ w32 c.pulseDigits ++ w32 c.toneDigits ++ w32 c.trainsDiscarded ++ w32 c.glitches
    ++ w32 c.ringTrips ++ w32 c.overcurrents ++ w32 c.ringOverloads

/-- R95. -/
def State.portStatusFields (s : State) (p : Port) : List Byte :=
  let x := s.port p
  wIdx x.feed.ctorIdx ++ wIdx x.hook.ctorIdx ++ x.hold.bytes ++ wIdx x.wanted.ctorIdx
    ++ (if x.feed = .polaritySwap then w8 (x.swapTimer.getD 0) else [])
    ++ wOpt w8 x.ringRequest ++ wBool x.ringInhibit
    ++ wOpt (fun c : CadencePos => w8 c.pair ++ wBool c.on ++ w16 c.timeLeft) x.cadence
    ++ wIdx x.audio.ctorIdx ++ wIdx x.tone.ctorIdx ++ w8 x.pulses ++ w8 x.digits.length ++ wBool x.overflow
    ++ portSettingsBytes (s.settings.ports.get p) ++ x.counts.bytes

def State.portStatus (s : State) (p : Enum Port) (c : Option (Enum Unit)) : State :=
  match p, takeClear c with
  | .known p, some b =>
    let s := s.reply (.ok (s.portStatusFields p))
    if b then s.modPort p fun x => { x with counts := Reset.portCounts } else s
  | _, _ => s.reply (.no .badArgument)

/-- PORT_STATUS (R95). -/
def execPortStatus (p : Enum Port) (c : Option (Enum Unit)) (s : State) : Host.Outcome State Fault Refusal :=
  .next <| s.live fun s =>
    s.request 0x12 (rPair (rReq rPort) (rArg (rEnum [()]))) (p, c) fun s => s.portStatus p c

/-! ## RING_PLAN -/

/-- A plan inside the three, with a cadence 0 to 3 (R109). -/
def goodPlan : Enum Plan → Option Plan
  | .known (.ring c) => if c ≤ 3 then some (.ring c) else none
  | .known p => some p
  | .outside _ => none

def State.ringPlan (s : State) (p : Enum Port) (plan : Enum Plan) : State :=
  if s.cc.custody = .part then s.reply (.no .refusedState)
  else match p, goodPlan plan with
    | .known p, some plan =>
      if (s.call p).sub = some .decisionWanted then (s.applyPlan p plan).reply (.ok [])
      else s.reply (.no .refusedState)
    | _, _ => s.reply (.no .badArgument)

/-- RING_PLAN (R109). -/
def execRingPlan (p : Enum Port) (plan : Enum Plan) (s : State) : Host.Outcome State Fault Refusal :=
  .next <| s.live fun s => s.request 0x18 (rPair (rReq rPort) (rReq rPlan)) (p, plan) fun s => s.ringPlan p plan

/-! ## INTERCOM -/

/-- The states an INTERCOM request is accepted in (R111). -/
def State.mayIntercom (s : State) (p : Port) : Bool :=
  (s.settings.ports.get p).intercomEnable &&
    match (s.call p).state with
    | .localOnly | .blocked | .seizing => true
    | .dialling => !(s.port p).digits.any fun e => e.mark == .forwarded
    | _ => false

def State.intercomRequest (s : State) (p : Enum Port) : State :=
  if s.cc.custody = .part then s.reply (.no .refusedState)
  else match p with
    | .outside _ => s.reply (.no .badArgument)
    | .known p => if s.mayIntercom p then (s.dialIntercom p).reply (.ok []) else s.reply (.no .refusedState)

/-- INTERCOM (R111). -/
def execIntercom (p : Enum Port) (s : State) : Host.Outcome State Fault Refusal :=
  .next (s.live fun s => s.request 0x19 (rReq rPort) p fun s => s.intercomRequest p)

/-! ## Custody -/

def State.custodyClaim (s : State) : State :=
  if s.cc.custody = .box then s.reply (.ok [])
  else if s.sup.mode = .mains || s.sup.mode = .battery then (s.setCustody .box).reply (.ok [])
  else s.reply (.no .refusedState)

/-- CUSTODY_CLAIM (R113). -/
def execCustodyClaim (s : State) : Host.Outcome State Fault Refusal :=
  .next (s.live fun s => s.request 0x1A rNothing () State.custodyClaim)

def State.custodyRelease (s : State) : State :=
  let s := if s.cc.custody = .box then s.setCustody (if s.wanted = 0 then .part else .releasing) else s
  s.reply (.ok [])

/-- CUSTODY_RELEASE (R113). -/
def execCustodyRelease (s : State) : Host.Outcome State Fault Refusal :=
  .next (s.live fun s => s.request 0x1B rNothing () State.custodyRelease)

/-! ## CALL_STATUS, DIGITS_READ -/

/-- R115. -/
def State.callStatusFields (s : State) : List Byte :=
  (s.call .a).bytes ++ (s.call .b).bytes ++ wIdx s.cc.custody.ctorIdx ++ wTimer 2 s.cc.grace
    ++ w8 s.cc.nReported ++ w8 s.callCount ++ wTimer 2 s.cc.holdOff
    ++ w8 s.cc.lastR ++ w16 s.cc.pDown ++ w16 s.cc.pUp

/-- CALL_STATUS (R115). -/
def execCallStatus (s : State) : Host.Outcome State Fault Refusal :=
  .next (s.live fun s => s.request 0x1C rNothing () fun s => s.reply (.ok s.callStatusFields))

def State.digitsRead (s : State) (p : Enum Port) : State :=
  match p with
  | .known p => s.reply (.ok (s.port p).digitBytes)
  | .outside _ => s.reply (.no .badArgument)

/-- DIGITS_READ (R115). -/
def execDigitsRead (p : Enum Port) (s : State) : Host.Outcome State Fault Refusal :=
  .next (s.live fun s => s.request 0x1D (rReq rPort) p fun s => s.digitsRead p)

end Sys2Proof.Machine
end

