-- ==== Sys2Proof/Machine/SupplyRequests.lean ====
section
/-!
DEFINITION. The requests of the measurement unit and the supply supervisor: SNAPSHOT, MEASURE_CONFIGURE, MEASURE_READ,
SUPPLY_CONFIGURE, SUPPLY_STATUS (chapters 7 and 8).
-/

namespace Sys2Proof.Machine

/-- SNAPSHOT's cases (R124). -/
def State.snapshotRequest (s : State) (k : Enum SnapKind) : State :=
  match k with
  | .outside _ => s.reply (.no .badArgument)
  | .known k =>
    if s.mu.pending.isSome then s.reply (.no .busy)
    else
      (s.modMu fun x => { x with pending := some { cause := .requested, kind := k } }).reply
        (.ok (w16 ((s.mu.snapNumber + 1) % 65536)))

/-- SNAPSHOT (R124). -/
def execSnapshot (k : Enum SnapKind) (s : State) : Host.Outcome State Fault Refusal :=
  .next (s.live fun s => s.request 0x20 (rReq (rEnum snapKinds)) k fun s => s.snapshotRequest k)

/-- The five supervision channels (7.1). -/
def Chan.supervision : Chan → Bool
  | .battV | .adapterV | .lineTipE | .lineRingE | .dieT => true
  | _ => false

/-- The enables as a list in index order, each ON or OFF, as applied (R127). -/
def takeEnables (old : PerChan Bool) : Option (List (Enum Bool)) → Option (PerChan Bool)
  | none => some old
  | some l =>
    if l.length = 12 then
      let vals := l.filterMap fun e => match e with | .known b => some b | .outside _ => none
      if vals.length = 12 then
        some (PerChan.mapAll (fun c i => Chan.supervision c || (vals[i]?).getD false)
          (⟨0, 1, 2, 3, 4, 5, 6, 7, 8, 9, 10, 11⟩ : PerChan Nat))
      else none
    else none

/-- Sweep rate, enables and kind, staged or active (R127, R128). -/
def measureBytes (x : MeasureSettings) : List Byte :=
  wIdx x.rate.ctorIdx ++ wList wBool x.enables.toList ++ wIdx x.kind.ctorIdx

/-- R127; a list longer than the rule allows is refused before its owner sees the request (R172). -/
def State.measureConfigure (s : State) (r : Option (Enum SweepRate)) (es : Option (List (Enum Bool)))
    (k : Option (Enum SnapKind)) : State :=
  let x := s.settings.measure
  if 12 < (es.map List.length).getD 0 then s.reply (.no .badArgument)
  else if s.mu.pending.isSome then s.reply (.no .busy)
  else match takeEnum x.rate r, takeEnables x.enables es, takeEnum x.kind k with
    | some r, some es, some k =>
      let new : MeasureSettings := { rate := r, enables := es, kind := k }
      (s.modSettings fun y => { y with measure := new }).reply (.ok (measureBytes new))
    | _, _, _ => s.reply (.no .badArgument)

/-- MEASURE_CONFIGURE (R127). -/
def execMeasureConfigure (r : Option (Enum SweepRate)) (es : Option (List (Enum Bool)))
    (k : Option (Enum SnapKind)) (s : State) : Host.Outcome State Fault Refusal :=
  .next <| s.live fun s =>
    s.request 0x21
      (rPair (rArg (rEnum sweepRates)) (rPair (rArg (rList (rEnum onOff))) (rArg (rEnum snapKinds)))) (r, es, k)
      fun s => s.measureConfigure r es k

/-- The rate in force by R118's words: 10 while forced, else the active rate, at once although a period begun before
keeps its T (DESIGN CHOICE, log 76). -/
def MU.rateInForce (x : MU) : SweepRate := if x.forced then .r10 else x.active.rate

def ChanRead.bytes (c : ChanRead) : List Byte :=
  wOpt i16 c.latest ++ wOpt i16 c.average ++ w8 c.values ++ wOpt wBV c.lastKept ++ wIdx (if c.owned then 1 else 0)

def Account.bytes (a : Account) : List Byte := beInt 8 a.acc ++ w32 a.count

/-- The record of R124, with the active rate of R126 after the rate in force (DESIGN CHOICE, log 63). Its twelve channels
and four accounts stand without a count byte, in the order of their tables (DESIGN CHOICE, log 12). -/
def Readout.bytes (r : Readout) : List Byte :=
  w16 r.number ++ wIdx r.cause.ctorIdx ++ wIdx r.kind.ctorIdx ++ wBV r.uptime ++ wBV r.sweep ++ wIdx r.mode.ctorIdx
    ++ wIdx r.rate.ctorIdx ++ wIdx r.activeRate.ctorIdx ++ r.chans.toList.flatMap ChanRead.bytes
    ++ r.accounts.total.bytes ++ r.accounts.line.bytes ++ r.accounts.portA.bytes ++ r.accounts.portB.bytes
    ++ wBool r.overflow

/-- R128. -/
def State.measureReadFields (s : State) : List Byte :=
  wOpt Readout.bytes s.mu.readout ++ measureBytes s.mu.active ++ measureBytes s.settings.measure
    ++ wBool s.mu.forced ++ wIdx s.mu.rateInForce.ctorIdx
    ++ wOpt (fun p : SnapPending => wIdx p.cause.ctorIdx ++ wIdx p.kind.ctorIdx) s.mu.pending
    ++ w16 s.mu.snapNumber

/-- MEASURE_READ (R128). -/
def execMeasureRead (s : State) : Host.Outcome State Fault Refusal :=
  .next (s.live fun s => s.request 0x22 rNothing () fun s => s.reply (.ok s.measureReadFields))

def supplyBytes (x : SupplySettings) : List Byte := w16 x.reserveThreshold ++ w16 x.cutoff ++ w8 x.renLimit

/-- R140: each argument clamped, then the cutoff at most the reserve threshold less 50. -/
def takeSupply (x : SupplySettings) (t c r : Option Nat) : SupplySettings :=
  let t := takeNat 1080 1240 x.reserveThreshold t
  { reserveThreshold := t
    cutoff := min (takeNat 960 1100 x.cutoff c) (t - 50)
    renLimit := takeNat 5 50 x.renLimit r }

def State.supplyConfigure (s : State) (t c r : Option Nat) : State :=
  let new := takeSupply s.settings.supply t c r
  (s.modSettings fun y => { y with supply := new }).reply (.ok (supplyBytes new))

/-- SUPPLY_CONFIGURE (R140). -/
def execSupplyConfigure (t c r : Option Nat) (s : State) : Host.Outcome State Fault Refusal :=
  .next <| s.live fun s =>
    s.request 0x28 (rPair (rArg (rNat 2)) (rPair (rArg (rNat 2)) (rArg (rNat 1)))) (t, c, r)
      fun s => s.supplyConfigure t c r

/-- R141. PROC_PWR_EN (asserted, deasserted) and BATTERY_FAULT (present, absent) are numbered as R130 lists them
(R168). -/
def State.supplyStatusFields (s : State) : List Byte :=
  let x := s.sup
  wIdx x.mode.ctorIdx ++ wBV x.enteredAt ++ wIdx x.adapter.ctorIdx ++ wOpt i16 x.battV ++ wOpt i16 x.battI
    ++ wOpt i16 x.adapterV ++ wTimer 2 x.mains ++ wTimer 2 x.recovery ++ wTimer 2 x.cutoff ++ wTimer 2 x.lowBattery
    ++ wTimer 2 x.batteryGood ++ wIdx x.profile.ctorIdx ++ wFirst x.procPwr ++ s.shedBytes ++ wFirst x.batteryFault
    ++ supplyBytes s.settings.supply

/-- SUPPLY_STATUS (R141). -/
def execSupplyStatus (s : State) : Host.Outcome State Fault Refusal :=
  .next (s.live fun s => s.request 0x29 rNothing () fun s => s.reply (.ok s.supplyStatusFields))

end Sys2Proof.Machine
end

