-- ==== Sys2Proof/Machine/TestRequests.lean ====
section
/-!
DEFINITION. The requests of the test unit: TEST_START, TEST_ABORT, TEST_READ, and the checks and the start of a test,
which the operator's TEST_REQ shares (chapter 9).
-/

namespace Sys2Proof.Machine

/-- Reasons of a refusal by R144. -/
inductive TestReason where
  | supply | call | portState
  deriving DecidableEq, Repr

/-- A call record in CONNECTED that holds a line channel. -/
def CallRec.connectedOnLine (r : CallRec) : Bool := r.state == .connected && r.channel.isSome

/-- The hold set of a port as though a running host test had already ended (R144, R149). -/
def State.holdForTest (s : State) (p : Port) : PortHold :=
  let h := (s.port p).hold
  if s.looping p && s.testing (fun c => c.requester == .box) then h.put .test false else h

/-- R144: the checks, in order. -/
def State.testRefusal (s : State) (k : TestKind) (t : Target) (priority : Bool) : Option TestReason :=
  let supplied := match s.sup.mode with
    | .mains | .battery => true
    | .reserve => k == .lineForeign
    | .start | .depleted => false
  if !supplied then some .supply
  else match k with
    | .lineForeign => none
    | .lineInsulation =>
      if !priority && ((s.call .a).connectedOnLine || (s.call .b).connectedOnLine) then some .call else none
    | .portLoop =>
      let p := Target.port t
      if (s.port p).hook == .onHook && (s.call p).state == .free && (s.holdForTest p).isEmpty then none
      else some .portState

/-- R145, step 3: the calls holding a line channel are released with cause TEST. -/
def State.releaseForTest (s : State) (p : Port) : State :=
  let r := s.call p
  if r.channel.isSome && (r.state == .dialling || r.state == .connected || r.state == .alertingIn) then
    s.releaseCall p .test
  else s

/-- A fresh current-test record. An operator's LINE_INSULATION waits in ARMING, 100 ms at most (R145). -/
def newTest (k : TestKind) (t : Target) (r : Requester) (priority : Bool) (n : Option Byte) (now : BitVec 32) :
    CurrentTest :=
  let zero : Reading := { n := 0, sum1 := 0, sum2 := 0 }
  let c : CurrentTest :=
    { kind := k, target := t, requester := r, priority := priority, reqNumber := n, phase := .arming, start := none
      timeLeft := none, arm := some 100, r0 := zero, r1 := zero, r2 := zero }
  if k = .lineInsulation && r == .operator then c else c.run now

/-- R145: starting a test. -/
def State.startTest (s : State) (k : TestKind) (t : Target) (r : Requester) (priority : Bool) (n : Option Byte) :
    State :=
  let s := s.modTu fun x => { x with current := some (newTest k t r priority n s.uptime) }
  let s := s.ownChannels (TestKind.channels k t) true
  let s := match k with
    | .lineForeign => s
    | .portLoop => s.portHoldAdd (Target.port t) .test
    | .lineInsulation =>
      if r = Requester.box then s.lineHoldAdd .test
      else if priority then (s.releaseForTest .a).releaseForTest .b
      else s
  s.raise .test

/-- Kind, target and duration of an accepted test (R150, R152). -/
def testBytes (k : TestKind) (t : Target) : List Byte := wIdx k.ctorIdx ++ wIdx t.ctorIdx ++ w16 (TestKind.ms k)

def State.testStart (s : State) (k : Enum TestKind) (t : Enum Target) : State :=
  match k, t with
  | .known k, .known t =>
    if !TestKind.fits k t then s.reply (.no .badArgument)
    else match s.tu.current with
      | some c => s.reply (.no (if c.requester = .box then .busy else .conflict))
      | none =>
        match s.testRefusal k t false with
        | some r => s.reply ⟨.refusedState, wIdx r.ctorIdx⟩
        | none => (s.startTest k t .box false none).reply (.ok (testBytes k t))
  | _, _ => s.reply (.no .badArgument)

/-- TEST_START (R152). -/
def execTestStart (k : Enum TestKind) (t : Enum Target) (s : State) : Host.Outcome State Fault Refusal :=
  .next <| s.live fun s =>
    s.request 0x30 (rPair (rReq (rEnum testKinds)) (rReq (rEnum targets))) (k, t) fun s => s.testStart k t

def State.testAbort (s : State) : State :=
  match s.tu.current with
  | none => s.reply (.no .refusedState)
  | some c =>
    if c.requester = .box then (s.abortTest .requested).reply (.ok []) else s.reply (.no .conflict)

/-- TEST_ABORT (R152). -/
def execTestAbort (s : State) : Host.Outcome State Fault Refusal :=
  .next (s.live fun s => s.request 0x31 rNothing () State.testAbort)

/-- R153: the current test and the four records, which stand without a count byte (DESIGN CHOICE, log 12). -/
def State.testReadFields (s : State) : List Byte :=
  wOpt CurrentTest.bytes s.tu.current ++ allResults.flatMap fun i => LastResult.bytes i (s.tu.results.get i)

/-- TEST_READ (R153). -/
def execTestRead (s : State) : Host.Outcome State Fault Refusal :=
  .next (s.live fun s => s.request 0x32 rNothing () fun s => s.reply (.ok s.testReadFields))

end Sys2Proof.Machine
end

