-- ==== Sys2Proof/Machine/FaultRequests.lean ====
section
/-!
DEFINITION. The requests of the fault supervisor: FAULT_POLICY, FAULT_CLEAR, FAULT_READ, FAULT_HISTORY (chapter 10).
-/

namespace Sys2Proof.Machine

def thresholdBytes (x : FaultSettings) : List Byte :=
  w8 x.pinThreshold ++ w8 x.noticeThreshold ++ w8 x.beaconThreshold ++ w8 x.foreignThreshold ++ w16 x.leakageThreshold

/-- The arguments of FAULT_POLICY (R165). -/
structure PolicyArgs where
  record : Option (Enum FaultId)
  policy : Option (Enum Policy)
  level : Option Nat
  pin : Option Nat
  notice : Option Nat
  beacon : Option Nat
  foreign : Option Nat
  leakage : Option Nat
  deriving DecidableEq, Repr

def rPolicyArgs : Reader PolicyArgs := fun bytes =>
  (rPair (rArg rFault) (rPair (rArg (rEnum policies)) (rPair (rArg (rNat 1)) (rPair (rArg (rNat 1))
    (rPair (rArg (rNat 1)) (rPair (rArg (rNat 1)) (rPair (rArg (rNat 1)) (rArg (rNat 2)))))))) bytes).map
    fun ((r, p, l, a, b, c, f, k), rest) => (⟨r, p, l, a, b, c, f, k⟩, rest)

/-- R165: what the record's setting becomes; `none` refuses the request. Without a record no policy and no level may be
given. -/
def takePolicy (x : FaultSettings) (a : PolicyArgs) : Option (Option (FaultId × FaultSetting)) :=
  match a.record with
  | none => if a.policy.isSome || a.level.isSome then none else some none
  | some (.outside _) => none
  | some (.known i) =>
    let old := x.records.get i
    let level := takeNat 1 15 old.level a.level
    match a.policy with
    | none => some (some (i, { policy := old.policy, level := level }))
    | some (.known p) => if FaultId.allows i p then some (some (i, { policy := p, level := level })) else none
    | some (.outside _) => none

def State.faultPolicy (s : State) (a : PolicyArgs) : State :=
  let x := s.settings.faults
  match takePolicy x a with
  | none => s.reply (.no .badArgument)
  | some r =>
    let new : FaultSettings :=
      { records := match r with
          | some (i, v) => x.records.set i v
          | none => x.records
        pinThreshold := takeNat 1 15 x.pinThreshold a.pin
        noticeThreshold := takeNat 1 15 x.noticeThreshold a.notice
        beaconThreshold := takeNat 1 15 x.beaconThreshold a.beacon
        foreignThreshold := takeNat 10 60 x.foreignThreshold a.foreign
        leakageThreshold := takeNat 20 2000 x.leakageThreshold a.leakage }
    let raised := match r with
      | some (i, _) => if a.policy.isSome then [i] else []
      | none => []
    (s.applyFaults new raised).reply
      (.ok (wOpt (fun v : FaultId × FaultSetting => wIdx v.2.policy.ctorIdx ++ w8 v.2.level) r ++ thresholdBytes new))

/-- FAULT_POLICY (R165). -/
def execFaultPolicy (r : Option (Enum FaultId)) (p : Option (Enum Policy)) (l a b c f k : Option Nat) (s : State) :
    Host.Outcome State Fault Refusal :=
  .next <| s.live fun s =>
    s.request 0x38 rPolicyArgs ⟨r, p, l, a, b, c, f, k⟩ fun s => s.faultPolicy ⟨r, p, l, a, b, c, f, k⟩

/-- R166: for each record named, its class, source and resulting state. -/
def State.clearedFields (s : State) (l : List FaultId) : List Byte :=
  wList (fun i => wFault i ++ wIdx (s.faultRec i).state.ctorIdx) l

/-- R166: the record named, or all sixteen in the table's order (DESIGN CHOICE, log 92). -/
def State.faultClear (s : State) (sel : ClearSel) : State :=
  let clear := fun (s : State) (l : List FaultId) =>
    let s := l.foldl (fun s i => s.clearRecord i) s
    s.reply (.ok (s.clearedFields l))
  match sel with
  | .one (some i) => clear s [i]
  | .one none => s.reply (.no .badArgument)
  | .all => clear s allFaults

/-- FAULT_CLEAR (R166). -/
def execFaultClear (sel : ClearSel) (s : State) : Host.Outcome State Fault Refusal :=
  .next (s.live fun s => s.request 0x39 (rReq rClearSel) sel fun s => s.faultClear sel)

/-- A record with every field of R154; the condition is one of a condition class alone, which the class says, and its
values are numbered as R154 lists them, present and absent (R168). The last value is a signed 16-bit number in every
class (DEDUCED, log 28). -/
def State.faultBytes (s : State) (i : FaultId) : List Byte :=
  let r := s.faultRec i
  wFault i ++ wIdx r.state.ctorIdx ++ wIdx (s.faultSetting i).policy.ctorIdx ++ w8 (s.faultSetting i).level
    ++ wOpt (fun p : Policy => wIdx p.ctorIdx) r.run
    ++ (if FaultId.isCondition i then wFirst r.condition else [])
    ++ wTimer 2 r.retry ++ wOpt wBV r.firstSeen ++ wOpt wBV r.lastSeen ++ w8 r.count ++ wOpt i16 r.value
    ++ wBool r.silenced ++ wBool r.owed

/-- R167. -/
def State.faultReadFields (s : State) (l : List FaultId) : List Byte :=
  wList s.faultBytes l ++ thresholdBytes s.settings.faults ++ wBool s.faultPin ++ wOpt wFault s.fs.endReport
    ++ wTimer 2 s.fs.spacing

def State.faultRead (s : State) (r : Option (Enum FaultId)) : State :=
  match r with
  | none => s.reply (.ok (s.faultReadFields allFaults))
  | some (.known i) => s.reply (.ok (s.faultReadFields [i]))
  | some (.outside _) => s.reply (.no .badArgument)

/-- FAULT_READ (R167). -/
def execFaultRead (r : Option (Enum FaultId)) (s : State) : Host.Outcome State Fault Refusal :=
  .next (s.live fun s => s.request 0x3A (rArg rFault) r fun s => s.faultRead r)

def HistEntry.bytes (e : HistEntry) : List Byte :=
  w16 e.seq ++ wBV e.uptime ++ wFault e.record ++ wIdx e.transition.ctorIdx ++ wOpt i16 e.value

/-- R167: up to `n` entries newest first, from the newest or from the one that bears the start number. -/
def historyPage (l : List HistEntry) (n : Nat) (start : Option Nat) : List HistEntry :=
  let newest := l.reverse
  (match start with
   | none => newest
   | some k => newest.dropWhile fun e => e.seq != k).take (clampNat 1 16 n)

/-- R167: the newest sequence number; R167 states none while the ring is empty, and the field is then a free value
(DESIGN CHOICE, log 68). -/
def newestSeq (l : List HistEntry) : List Byte := w16 ((l.getLast?.map (·.seq)).getD Config.newestOfNone)

def State.faultHistory (s : State) (n : Nat) (start : Option Nat) : State :=
  let h := s.fs.history
  s.reply (.ok (w8 h.length ++ newestSeq h ++ wList HistEntry.bytes (historyPage h n start)))

/-- FAULT_HISTORY (R167). -/
def execFaultHistory (n : Nat) (start : Option Nat) (s : State) : Host.Outcome State Fault Refusal :=
  .next <| s.live fun s =>
    s.request 0x3B (rPair (rReq (rNat 1)) (rArg (rNat 2))) (n, start) fun s => s.faultHistory n start

end Sys2Proof.Machine
end

