-- ==== Sys2Proof/Machine/StoreRequests.lean ====
section
/-!
DEFINITION. The requests of the settings store and the ends of its writes: SETTINGS_SAVE, SETTINGS_SAVE_WRITE_END,
SETTINGS_DEFAULTS, IDENTITY_READ, IDENTITY_WRITE, CALIBRATE, REGION_WRITE_END (chapter 12).
-/

namespace Sys2Proof.Machine

/-- The request under execution holds the queue (R171). -/
def State.hold (s : State) : State := s.modPlk fun k => { k with requests := markExecuting k.requests }

/-- A write that a reset or dormancy cuts short leaves the record with a failing check: from its start the record is
not whole (R178). While an earlier write runs on, its reply discarded, the request waits (DESIGN CHOICE, log 73). -/
def State.beginSave (s : State) : State :=
  if s.sts.writing.isSome then s
  else
    (s.modSts fun x =>
      { x with
        writing := some (.save s.settings)
        stored := x.stored.map fun r => { r with whole := false } }).hold

/-- SETTINGS_SAVE (R178). -/
def execSettingsSave (s : State) : Host.Outcome State Fault Refusal :=
  .next (s.live fun s => s.request 0x40 rNothing () State.beginSave)

/-- The reply of a request whose write has ended goes to its entry; with host power withdrawn meanwhile it is discarded
(R176, R178). -/
def State.writeReply (s : State) (a : Answer) : State :=
  match s.plk.front with
  | some e => if e.executing then s.reply a else s
  | none => s

/-- SETTINGS_SAVE_WRITE_END (R178). -/
def execSettingsSaveWriteEnd (s : State) : Host.Outcome State Fault Refusal :=
  .next <| s.live fun s =>
    match s.sts.writing with
    | some (.save v) =>
      let c := crc16 (Config.recordImage v)
      (s.modSts fun x =>
        { x with writing := none, stored := some { values := v, check := c, whole := true } }).writeReply
          (.ok (w16 c.toNat))
    | _ => s

/-- SETTINGS_DEFAULTS (R178). -/
def execSettingsDefaults (s : State) : Host.Outcome State Fault Refusal :=
  .next <| s.live fun s =>
    s.request 0x41 rNothing () fun s =>
      if s.cc.custody = .part then s.reply (.no .refusedState) else s.applyDefaults.reply (.ok [])

/-- R179. Each channel's gain stands before its offset, with no count (DESIGN CHOICE, log 12). -/
def State.identityFields (s : State) : List Byte :=
  wOpt w32 s.sts.region.serial ++ wOpt (wList fun b : Byte => [b]) s.sts.region.ident
    ++ s.sts.region.calib.toList.flatMap (fun c => w16 c.gain ++ i16 c.offset)
    ++ wBool s.sts.regionOk ++ wBool s.sts.strap

/-- IDENTITY_READ (R179). -/
def execIdentityRead (s : State) : Host.Outcome State Fault Refusal :=
  .next (s.live fun s => s.request 0x42 rNothing () fun s => s.reply (.ok s.identityFields))

/-- R179: the whole region is rewritten, holding the request queue. While an earlier write runs on, its reply discarded,
the request waits (DESIGN CHOICE, log 73). -/
def State.beginRegion (s : State) (values : Region) (fields : List Byte) : State :=
  if s.sts.writing.isSome then s
  else
    (s.modSts fun x =>
      { x with
        writing := some (.region values fields)
        storedRegion := x.storedRegion.map fun r => { r with whole := false } }).hold

/-- A line identifier of 0 to 16 characters, each 0x20 to 0x7E (R179). -/
def goodIdent (l : List Byte) : Bool :=
  decide (l.length ≤ 16) && l.all fun b => decide (0x20 ≤ b.toNat) && decide (b.toNat ≤ 0x7E)

def State.identityWrite (s : State) (serial : Nat) (ident : List Byte) : State :=
  if !s.sts.strap then s.reply (.no .isProtected)
  else if !goodIdent ident then s.reply (.no .badArgument)
  else s.beginRegion { s.sts.region with serial := some serial, ident := some ident }
    (w32 serial ++ wList (fun b => [b]) ident)

/-- IDENTITY_WRITE (R179). -/
def execIdentityWrite (serial : Nat) (ident : List Byte) (s : State) : Host.Outcome State Fault Refusal :=
  .next <| s.live fun s =>
    s.request 0x43 (rPair (rReq (rNat 4)) (rReq (rList rByte))) (serial, ident)
      fun s => s.identityWrite serial ident

def State.calibrate (s : State) (channel gain : Nat) (offset : Int) : State :=
  if !s.sts.strap then s.reply (.no .isProtected)
  else match allChans[channel]? with
    | none => s.reply (.no .badArgument)
    | some c =>
      let v : Calib := { gain := clampNat 8192 24576 gain, offset := clampInt (-2048) 2048 offset }
      s.beginRegion { s.sts.region with calib := s.sts.region.calib.set c v }
        (w8 channel ++ w16 v.gain ++ i16 v.offset)

/-- CALIBRATE (R179). -/
def execCalibrate (channel gain : Nat) (offset : Int) (s : State) : Host.Outcome State Fault Refusal :=
  .next <| s.live fun s =>
    s.request 0x44 (rPair (rReq (rNat 1)) (rPair (rReq (rNat 2)) (rReq rInt16))) (channel, gain, offset)
      fun s => s.calibrate channel gain offset

/-- REGION_WRITE_END (R179): the new values are stored and in use; a calibration applies from the next sample. -/
def execRegionWriteEnd (s : State) : Host.Outcome State Fault Refusal :=
  .next <| s.live fun s =>
    match s.sts.writing with
    | some (.region v fields) =>
      (s.modSts fun x =>
        { x with
          writing := none, region := v
          storedRegion := some { values := v, check := crc16 v.image, whole := true } }).writeReply
          (.ok fields)
    | _ => s

end Sys2Proof.Machine
end

