-- ==== Sys2Proof/Machine/OpsOwner.lean ====
section
/-!
DEFINITION. What the end of a transaction tells the block that asked for it (R72): the call controller (R102, R104 to
R106, R110), the line engine (R18, R33 to R35, R38), the fence tracker (R49 to R51) and the test unit (R150).
-/

namespace Sys2Proof.Machine

/-- The result fields of an ACK, as the owner's chapter gives them for the kind answered. -/
inductive AckFields where
  | empty | seize (channel : Nat) (coding : Enum Coding) | seff (e : Sf)
  deriving DecidableEq, Repr

/-- How a transaction ends for its owner (R72). -/
inductive TxEnd where
  | ack (f : AckFields) | nak | failed
  deriving DecidableEq, Repr

/-- Reading the result fields of an ACK; `none` where they do not have the layout of the kind (R72). -/
def ackFields (k : TxKind) (body : List Byte) : Option AckFields :=
  match k with
  | .seize => (readAll (rPair (rNat 1) (rEnum codings)) body).map fun x => .seize x.1 x.2
  | .coding | .swap | .rate => (readAll rSf body).map .seff
  | _ => if body.isEmpty then some .empty else none

/-! ## The call controller -/

/-- R99: the channel is held by the other record; the channel an admission wait keeps counts as held (log 22). -/
def State.channelTaken (s : State) (p : Port) (ch : Nat) : Bool :=
  let o := s.call p.other
  o.channel == some ch || o.alertChannel == some ch

/-- R104: the SEIZE has ended without a channel for the call, with the release cause given. In CLEARING the release ends
by R106 with that cause (log 21). BLOCKED has no coding (DESIGN CHOICE, log 62). -/
def State.seizeRefused (s : State) (p : Port) (cause : RelCause) : State :=
  if (s.call p).state = .clearing then (s.updCall p fun r => { r with cause := cause }).releaseDone p
  else s.updCall p fun r => { r with state := .blocked, cause := cause, coding := none }

/-- R104: the coding granted is the coding asked, or REDUCED where FULL was asked. -/
def codingFits (asked : Option Coding) (c : Enum Coding) : Option Coding :=
  match c with
  | .known c => if asked = some c || (asked == some .full && c == .reduced) then some c else none
  | .outside _ => none

/-- R104: the ACK of a SEIZE. -/
def State.seizeAcked (s : State) (p : Port) (ch : Nat) (coding : Enum Coding) : State :=
  let r := s.call p
  let free := decide (ch < 4) && !s.channelTaken p ch
  match codingFits r.coding coding with
  | some c =>
    if free then
      (if r.state = .seizing then
        (s.updCall p fun r => { r with state := .dialling, channel := some ch, coding := some c }).evaluateCapacity
      else (s.updCall p fun r => { r with channel := some ch }).releaseCall p r.cause)
    else (s.faultEvent .linkProtocol).seizeRefused p .protocol
  | none =>
    let s := s.faultEvent .linkProtocol
    if free then (s.updCall p fun r => { r with channel := some ch }).releaseCall p .protocol
    else s.seizeRefused p .protocol

/-- R104: the end of a SEIZE. A NAK in CLEARING leaves the recorded cause; a failure gives PROTOCOL in both states. -/
def State.seizeEnded (s : State) (p : Port) (e : TxEnd) : State :=
  if (s.call p).state = .seizing || (s.call p).state = .clearing then
    match e with
    | .ack (.seize ch c) => s.seizeAcked p ch c
    | .ack _ => s
    | .nak => s.seizeRefused p (if (s.call p).state = .clearing then (s.call p).cause else .refused)
    | .failed => s.seizeRefused p .protocol
  else s

/-- R106: the end of a RELEASE, however it ends. -/
def State.releaseEnded (s : State) (p : Port) : State :=
  if (s.call p).state = .clearing then s.releaseDone p else s

/-- R110: the end of an ANSWER. -/
def State.answerEnded (s : State) (p : Port) (e : TxEnd) : State :=
  match e with
  | .ack _ => s
  | .nak | .failed => if (s.call p).state = .connected then s.releaseCall p .protocol else s

/-- R105: the end of a DIGIT; its ACK marks the digits carried FORWARDED. -/
def State.digitEnded (s : State) (p : Port) (e : TxEnd) : State :=
  let r := s.call p
  if r.state = .dialling || r.state = .connected then
    match e with
    | .ack _ => s.markDigits p (fun i => decide (i < r.digitsUpTo)) .forwarded
    | .nak | .failed => s.releaseCall p .protocol
  else s

/-- R102: the end of a CODING. -/
def State.codingEnded (s : State) (p : Port) (e : TxEnd) : State :=
  let r := s.call p
  if r.carries && r.downgrade.isSome then
    match e with
    | .ack (.seff x) =>
      if ahead x s.le.sf then s.updCall p fun r => { r with downgrade := some { seff := some x } }
      else s.loss .protocol
    | .ack _ => s
    | .nak | .failed => (s.releaseCall p .capacity).faultEvent (FaultId.voiceCapacity p)
  else s

/-- The transaction of this kind is no longer in flight for the call. -/
def CallTxs.without (t : CallTxs) : TxKind → CallTxs
  | .seize => { t with seize := false }
  | .release => { t with release := false }
  | .answer => { t with answer := false }
  | .digit => { t with digit := false }
  | .coding => { t with coding := false }
  | _ => t

/-- The end of a call's transaction; one of a call that has gone is not acted on (R106). -/
def State.callTxEnded (s : State) (k : TxKind) (p : Port) (tag : Nat) (e : TxEnd) : State :=
  if (s.call p).serial ≠ tag then s
  else
    let s := s.modCallRaw p fun r => { r with txs := r.txs.without k }
    match k with
    | .seize => s.seizeEnded p e
    | .release => s.releaseEnded p
    | .answer => s.answerEnded p e
    | .digit => s.digitEnded p e
    | .coding => s.codingEnded p e
    | _ => s

/-! ## The line engine -/

/-- R33: the end of a SWAP. -/
def State.swapEnded (s : State) (n : Nat) (e : TxEnd) : State :=
  match s.tt.inFlight with
  | .swap d r (some m) none =>
    if m ≠ n then s
    else
      let back := fun (s : State) => s.modTt fun t =>
        { t with lowCounts := t.lowCounts.zipIdx.map fun (c, i) => if i + Config.firstDown = d then 0 else c }
      match e with
      | .ack (.seff x) =>
        if ahead x s.le.sf then s.modTt fun t => { t with inFlight := .swap d r (some n) (some x) }
        else s.loss .protocol
      | .ack _ => s
      | .nak => (back s).changeEnded .refused
      | .failed => (back s).changeEnded .failed
  | _ => s

/-- R34: the end of a RATE. -/
def State.rateEnded (s : State) (n : Nat) (e : TxEnd) : State :=
  match s.tt.inFlight with
  | .rate msg (some m) none =>
    if m ≠ n then s
    else match e with
      | .ack (.seff x) =>
        if ahead x s.le.sf then s.modTt fun t => { t with inFlight := .rate msg (some n) (some x) }
        else s.loss .protocol
      | .ack _ => s
      | .nak => s.changeEnded .refused
      | .failed => s.changeEnded .failed
  | _ => s

/-- R18, R38: the end of a PROFILE, which carried a change of profile (tag 1) or a need. -/
def State.profileEnded (s : State) (tag : Nat) (e : TxEnd) : State :=
  if tag = 1 then
    let s := s.modLe fun x => { x with changeInFlight := false }
    match e with
    | .ack _ => s
    | .nak | .failed => s.loss .protocol
  else s.modLe fun x => { x with needInFlight := false }

/-! ## The fence tracker -/

/-- R49, R50: the schedule of an acknowledged GATE_SET becomes the agreement, or its replacement. -/
def FT.agree (x : FT) (c : Sched) : FT :=
  { x with
    agreement := match x.agreement with
      | none => some { cur := c, active := false, repl := none, endSf := none }
      | some a => some { a with repl := some c } }

/-- R49, R50: the end of a GATE_SET; its NAK raises the GATE notice (R55). -/
def State.gateSetEnded (s : State) (e : TxEnd) : State :=
  match s.ft.request with
  | .set c =>
    let s := s.modFt fun x => { x with request := .none }
    match e with
    | .ack _ => if ahead c.anchor s.le.sf then s.ftUpd fun x => x.agree c else s.loss .protocol
    | .nak => (s.modFt fun x => { x with retry := some Config.gateRetryMs }).raise .gate
    | .failed => s.loss .protocol
  | _ => s

/-- R51: the end of a GATE_CLEAR. -/
def State.gateClearEnded (s : State) (e : TxEnd) : State :=
  match s.ft.request with
  | .clear x =>
    let s := s.modFt fun f => { f with request := .none }
    match e with
    | .ack _ => if ahead x s.le.sf then s else s.loss .protocol
    | .nak | .failed => s.loss .protocol
  | _ => s

/-! ## The test unit -/

/-- R150: an ACK makes the report DELIVERED, a NAK or a failure UNDELIVERED. -/
def State.reportEnded (s : State) (tag : Nat) (e : TxEnd) : State :=
  match e with
  | .ack _ =>
    match allResults.find? fun i => (s.tu.results.get i).serial == tag with
    | none => s
    | some i =>
      let r := s.tu.results.get i
      if r.report = .inFlight then
        (s.modTu fun x => { x with results := x.results.set i { r with report := .delivered } }).raise .test
      else s
  | .nak | .failed => s.undelivered tag

/-! ## Any owner -/

/-- R72: the owner of a transaction is told how it ended. -/
def State.txEnded (s : State) (q : TxReq) (n : Nat) (e : TxEnd) : State :=
  match q.kind with
  | .swap => s.swapEnded n e
  | .rate => s.rateEnded n e
  | .profile => s.profileEnded q.tag e
  | .gateSet => s.gateSetEnded e
  | .gateClear => s.gateClearEnded e
  | .testResult => s.reportEnded q.tag e
  | .seize | .digit | .release | .answer | .coding =>
    match q.port with
    | some p => s.callTxEnded q.kind p q.tag e
    | none => s

/-- R70, R72: the entry is freed, waiting requests are granted, and the owner is told. -/
def State.endTx (s : State) (t : Tx) (e : TxEnd) : State :=
  ((s.freeEntry t.number).grantWaiting).txEnded t.req t.number e

/-- R71, R72: a transaction ends as failed, with its LINK_PROTOCOL event. -/
def State.failTx (s : State) (t : Tx) : State :=
  ((s.modCounts fun c => { c with failed := inc32 c.failed }).endTx t .failed).faultEvent .linkProtocol

/-- R71: the third timeout ends the transaction; an earlier one places the same message again. -/
def State.txTimeout (s : State) (n : Nat) : State :=
  match s.ss.txs.find? fun t => t.number == n with
  | none => s
  | some t =>
    if t.timeLeft.isNone then s
    else if t.sends < 3 then
      s.modSs fun x =>
        SS.enqueue
          { x with txs := x.txs.map fun u =>
              if u.number = n then { u with sends := u.sends + 1, timeLeft := none } else u }
          (.send n) (message t.req.kind.code n t.req.body)
    else s.failTx t

end Sys2Proof.Machine
end

