-- ==== Sys2Proof/Machine/OpsMessage.lean ====
section
/-!
DEFINITION. A complete management unit received as one message (R68): answers (R72), the repeat check (R73), and what
each of the far end's seven requests does at its owner (R14, R36, R104, R108, R110, R150, R164).
-/

namespace Sys2Proof.Machine

/-- A message as it arrives: its number byte, its length byte and the bytes that follow. -/
structure Msg where
  number : Byte
  length : Byte
  body : List Byte
  deriving DecidableEq, Repr

/-- R68: the unit is 3 + length bytes long, with length in 0 to 117. -/
def Msg.whole (m : Msg) : Bool := m.body.length == m.length.toNat && decide (m.length.toNat ≤ 117)

/-- R68: a complete management unit counts as received; one that fails the length check goes no further. -/
def State.receive (s : State) (m : Msg) (f : State → State) : State :=
  if !s.inService then s
  else
    let s := s.modCounts fun c => { c with messages := inc32 c.messages }
    if m.whole then f s else s.modCounts fun c => { c with malformed := inc32 c.malformed }

/-- A NAK of the scheduler's own, which keeps no repeat record (R68). -/
def State.plainNak (s : State) (n : Byte) (c : NakCause) : State :=
  s.placeAnswer none n false (message codeNak n.toNat (w8 c.code))

/-- R73: a fresh request is recorded and goes to its owner; a repeat is answered from the record, or dropped while the
owner's answer is pending. -/
def State.fresh (s : State) (t : FarType) (n : Byte) (f : State → State) : State :=
  let r := s.ss.repeats.get t
  if r.last = some n then
    match r.answer with
    | .held positive msg =>
      (s.modCounts fun c => { c with repeats := inc32 c.repeats }).placeAnswer (some t) n positive msg
    | .pending | .absent => s
  else f (s.modSs fun x => { x with repeats := x.repeats.set t { last := some n, answer := .pending } })

/-- R68, R73: a request of the far end, its body read by the layout its type gives. -/
def State.farRequest {α : Type} (s : State) (t : FarType) (m : Msg) (layout : List Byte → Option α)
    (act : State → α → State) : State :=
  s.receive m fun s =>
    match layout m.body with
    | none =>
      ((s.plainNak m.number .invalid).modCounts fun c => { c with malformed := inc32 c.malformed }).faultEvent
        .linkProtocol
    | some a => s.fresh t m.number fun s => act s a

/-! ## Answers (R72) -/

/-- R72: the entry an answer's number names. -/
def State.answerTo (s : State) (m : Msg) (f : State → Tx → State) : State :=
  s.receive m fun s =>
    match s.ss.txs.find? fun t => t.number == m.number.toNat with
    | none => s.modCounts fun c => { c with unmatched := inc32 c.unmatched }
    | some t => f s t

def State.ackMsg (s : State) (m : Msg) : State :=
  s.answerTo m fun s t =>
    match ackFields t.req.kind m.body with
    | some f => s.endTx t (.ack f)
    | none => s.failTx t

/-- NAK (R72), whatever its body holds: one that is not a single cause byte is taken as a NAK too (DESIGN CHOICE, log
54). -/
def State.nakMsg (s : State) (m : Msg) : State := s.answerTo m fun s t => s.endTx t .nak

/-- R68: a type outside the table, or one the part itself sends. -/
def State.unknownMsg (s : State) (m : Msg) : State :=
  s.receive m fun s =>
    (s.plainNak m.number .unknown).modCounts fun c => { c with unknownType := inc32 c.unknownType }

/-! ## RETRAIN (R14) -/

def State.retrainMsg (s : State) (m : Msg) : State :=
  s.farRequest .retrain m (readAll rNothing) fun s _ =>
    (s.answerAck .retrain m.number []).modLe fun x =>
      { x with farEnd := x.farEnd <|> some { number := m.number, timer := Config.farEndMs } }

/-! ## UP_TABLE (R36) -/

structure UpTableBody where
  bits : List Nat
  snr : List Nat
  seff : Sf
  deriving DecidableEq, Repr

/-- 26 codes in 13 bytes, 26 SNR values, S_eff (R36, R59). -/
def upTableLayout (l : List Byte) : Option UpTableBody :=
  if l.length = 43 then
    match rSf (l.drop 39) with
    | some (e, []) =>
      some { bits := unpackCodes (l.take 13), snr := ((l.drop 13).take 26).map fun b => min 240 b.toNat, seff := e }
    | _ => none
  else none

/-- R36: the cause of a refusal; where several cases hold, that of the first in the table (DESIGN CHOICE, log 59). -/
def State.upTableRefusal (s : State) (p : Profile) (u : UpTableBody) : Option NakCause :=
  if overCap (Profile.cap p) (Profile.upBudget p) u.bits then some .cap
  else if u.bits.any (fun b => b == 1 || decide (12 < b)) then some .table
  else if !ahead u.seff s.le.sf then some .late
  else none

/-- The profile whose cap and budget are checked: the pending one, else the one in force (R36). -/
def State.checkProfile (s : State) : Profile := (s.le.pending.map (·.profile)).getD s.le.inForce

def State.upTableMsg (s : State) (m : Msg) : State :=
  s.farRequest .upTable m upTableLayout fun s u =>
    let p := s.checkProfile
    match s.upTableRefusal p u with
    | some c => (s.answerNak .upTable m.number c).faultEvent .linkProtocol
    | none =>
      (s.answerAck .upTable m.number []).modTt fun t =>
        { t with upWaiting := some ⟨(u.bits.zip u.snr).map upTone, u.seff, Profile.cap p⟩ }

/-! ## ALERT (R108) -/

structure AlertBody where
  port : Enum Port
  channel : Nat
  caller : Option (List Digit)
  deriving DecidableEq, Repr

/-- A digit's byte: 0 to 9, 10 for *, 11 for # (R59). -/
def rDigit : Reader Digit := fun l =>
  match rEnum digits l with
  | some (.known d, r) => some (d, r)
  | _ => none

/-- A port, a channel and, optionally, a caller number of 1 to 16 digits. -/
def alertLayout (l : List Byte) : Option AlertBody :=
  match readAll (rPair rPort (rPair (rNat 1) (rArg (rList rDigit)))) l with
  | some (p, ch, c) =>
    if (c.map fun ds => decide (1 ≤ ds.length) && decide (ds.length ≤ 16)).getD true then
      some { port := p, channel := ch, caller := c }
    else none
  | none => none

/-- R108, step 4, and the call admitted or waiting. A waiting one has its caller number and the coding REDUCED already
(DESIGN CHOICE, log 22). -/
def State.admitAlert (s : State) (n : Byte) (p : Port) (ch : Nat) (caller : Option (List Digit)) : State :=
  match s.admission with
  | .fail => s.answerNak .alert n .capacity
  | .at c =>
    let (s, k) := s.takeSerial
    let s := s.updCall p fun _ =>
      { Reset.call with
        state := .alertingIn, dir := some .incoming, channel := some ch, coding := some c, caller := caller
        alert := some 120000, serial := k, order := k }
    ((s.answerAck .alert n (wIdx c.ctorIdx)).ringDecision p).evaluateCapacity
  | .wait =>
    let (s, k) := s.takeSerial
    s.updCall p fun _ =>
      { Reset.call with
        state := .alertingIn, dir := some .incoming, coding := some .reduced, caller := caller
        admission := some 2000, serial := k, order := k, alertNumber := some n, alertChannel := some ch }

/-- R108, step 3: the hold set of a port under the host's own PORT_LOOP. -/
def State.hostLoop (s : State) (p : Port) : Bool :=
  let h := (s.port p).hold
  h.test && (h.put .test false).isEmpty && s.looping p && s.testing fun c => c.requester == .box

def State.alertMsg (s : State) (m : Msg) : State :=
  s.farRequest .alert m alertLayout fun s a =>
    match a.port with
    | .outside _ => s.answerNak .alert m.number .invalid
    | .known p =>
      if 4 ≤ a.channel ∨ s.channelTaken p a.channel then s.answerNak .alert m.number .invalid
      else if (s.call p).state ≠ .free ∨ (s.port p).hook.isOff then s.answerNak .alert m.number .busy
      else if (s.port p).hold.isEmpty then s.admitAlert m.number p a.channel a.caller
      else if s.hostLoop p then (s.abortTest .alert).admitAlert m.number p a.channel a.caller
      else s.answerNak .alert m.number .busy

/-! ## CLEAR and ANSWERED (R104, R110) -/

def callLayout (l : List Byte) : Option (Enum Port × Nat) := readAll (rPair rPort (rNat 1)) l

/-- R104, R110: what a CLEAR does to the record of its port. FAR_CLEARED has no coding and no downgrade (DESIGN CHOICE,
log 62). -/
def State.farClear (s : State) (p : Port) (ch : Nat) : State :=
  let r := s.call p
  match r.state with
  | .dialling | .connected =>
    if r.channel = some ch then
      (s.updCall p fun r =>
        { r with state := .farCleared, channel := none, coding := none, downgrade := none
                 cause := .farEnd }).setWanted p .normal
    else s
  | .alertingIn =>
    if r.admission.isSome then
      (if r.alertChannel = some ch then (s.nakAlert p .cleared).freeCall p .farEnd else s)
    else if r.channel = some ch then (s.ringOff p).freeCall p .farEnd
    else s
  | _ => s

def State.clearMsg (s : State) (m : Msg) : State :=
  s.farRequest .clear m callLayout fun s a =>
    match a.1 with
    | .outside _ => s.answerNak .clear m.number .invalid
    | .known p => (s.farClear p a.2).answerAck .clear m.number []

/-- What an ANSWERED does to the record of its port. -/
def State.farAnswered (s : State) (p : Port) (ch : Nat) : State :=
  let r := s.call p
  if r.state = .dialling ∧ r.channel = some ch then
    let s := s.updCall p fun r => { r with state := .connected, connect := some s.le.sf }
    if (s.settings.ports.get p).reverseOnAnswer then s.setWanted p .reversed else s
  else s

def State.answeredMsg (s : State) (m : Msg) : State :=
  s.farRequest .answered m callLayout fun s a =>
    match a.1 with
    | .outside _ => s.answerNak .answered m.number .invalid
    | .known p => (s.farAnswered p a.2).answerAck .answered m.number []

/-! ## TEST_REQ (R149, R150) -/

inductive TestReqBody where
  | start (kind : Enum TestKind) (target : Enum Target) (priority : Bool)
  | abort
  deriving DecidableEq, Repr

/-- A flag: 0x00 clear, 0x01 set (R59). -/
def rFlag : Reader Bool := fun l =>
  match rEnum onOff l with
  | some (.known b, r) => some (b, r)
  | _ => none

def testReqLayout : List Byte → Option TestReqBody
  | [] => none
  | b :: t =>
    if b = 0 then
      (readAll (rPair (rEnum testKinds) (rPair (rEnum targets) rFlag)) t).map fun x => .start x.1 x.2.1 x.2.2
    else if b = 1 ∧ t = [] then some .abort
    else none

def TestReason.nak : TestReason → NakCause
  | .supply => .supply
  | .call => .call
  | .portState => .portState

/-- R149, R150: an operator's START. -/
def State.operatorStart (s : State) (n : Byte) (k : TestKind) (t : Target) (priority : Bool) : State :=
  let busy := (s.tu.current.map fun c => c.requester == .operator || !priority).getD false
  if busy then s.answerNak .testReq n .busy
  else match s.testRefusal k t priority with
    | some r => s.answerNak .testReq n r.nak
    | none =>
      let s := (s.abortTest .preempted).answerAck .testReq n (testBytes k t)
      s.startTest k t .operator priority (some n)

def State.testReqMsg (s : State) (m : Msg) : State :=
  s.farRequest .testReq m testReqLayout fun s a =>
    match a with
    | .abort =>
      if s.testing fun c => c.requester == .operator then
        (s.abortTest .requested).answerAck .testReq m.number []
      else s.answerNak .testReq m.number .noneRunning
    | .start (.known k) (.known t) priority =>
      if TestKind.fits k t then s.operatorStart m.number k t priority else s.answerNak .testReq m.number .invalid
    | .start _ _ _ => s.answerNak .testReq m.number .invalid

/-! ## BEACON_CLEAR (R164) -/

def State.beaconClearMsg (s : State) (m : Msg) : State :=
  s.farRequest .beaconClear m (readAll rFault) fun s a =>
    match a with
    | .outside _ => s.answerNak .beaconClear m.number .invalid
    | .known i =>
      let s := if (s.faultRec i).state = .clear then s
        else (s.modFault i fun r => { r with silenced := true, owed := false }).voidEndReport i
      s.answerAck .beaconClear m.number []

/-! ## Any message -/

/-- R68: a complete management unit goes by its type. -/
def State.takeMessage (s : State) (unit : List Byte) : State :=
  match unit with
  | t :: n :: l :: body =>
    let m : Msg := { number := n, length := l, body := body }
    if t.toNat = codeAck then s.ackMsg m
    else if t.toNat = codeNak then s.nakMsg m
    else match FarType.ofCode t.toNat with
      | some .alert => s.alertMsg m
      | some .clear => s.clearMsg m
      | some .answered => s.answeredMsg m
      | some .upTable => s.upTableMsg m
      | some .retrain => s.retrainMsg m
      | some .testReq => s.testReqMsg m
      | some .beaconClear => s.beaconClearMsg m
      | none => s.unknownMsg m
  | _ => s.receive { number := 0, length := 255, body := [] } id

end Sys2Proof.Machine
end

