-- ==== Sys2Proof/Machine/Frames.lean ====
section
/-!
DEFINITION. Superframes and management messages: UPSTREAM_SUPERFRAME, DOWNSTREAM_SUPERFRAME, UNKNOWN_TYPE_MESSAGE, ACK,
NAK, TRANSACTION_TIMEOUT, UP_TABLE, ALERT, CLEAR, ANSWERED, TEST_REQ, BEACON_CLEAR, RETRAIN (chapter 4, with R14, R36,
R104, R108, R110, R150, R164).
-/

namespace Sys2Proof.Machine

/-! ## Voice slots (R57, R63, R99) -/

/-- R57: 80 bytes at FULL, 40 at REDUCED. -/
def codingBytes : Coding → Nat
  | .full => 80
  | .reduced => 40

/-- A call's slot, while its record carries one. -/
def State.slotOf (s : State) (p : Port) : Option Slot :=
  let r := s.call p
  match r.carries, r.channel with
  | true, some ch => some { channel := ch, coding := r.coding.getD .reduced, port := p }
  | _, _ => none

/-- The slots the call controller names, in rising channel id. -/
def State.namedSlots (s : State) : List Slot :=
  match s.slotOf .a, s.slotOf .b with
  | some a, some b => if b.channel < a.channel then [b, a] else [a, b]
  | a, b => a.toList ++ b.toList

/-- R57: slots are placed while each fits whole; the first that does not and all after it are omitted. -/
def fitSlots : Nat → List Slot → List Slot
  | _, [] => []
  | room, x :: t =>
    if codingBytes x.coding ≤ room then x :: fitSlots (room - codingBytes x.coding) t else []

/-- Bytes cut or filled with zeros to a length. -/
def fitBytes (n : Nat) (l : List Byte) : List Byte := (l ++ List.replicate n 0).take n

/-- The audio a port codes into its slot: its own while its audio source is LINE, else silence (R91). -/
def State.slotAudio (s : State) (a b : List Byte) (x : Slot) : List Byte :=
  let own := match x.port with
    | .a => a
    | .b => b
  fitBytes (codingBytes x.coding) (if (s.port x.port).audio = .line then own else [])

/-! ## Cells upstream (R58) -/

/-- What the arbiter gives a cell position. -/
inductive CellTurn where
  | mgmt | data | idle
  deriving DecidableEq, Repr

/-- R58: the arbiter's decision, and p after it. -/
def cellTurn (first mgmt data : Bool) (p n : Nat) : CellTurn × Nat :=
  if first && mgmt then (.mgmt, 0)
  else match mgmt, data with
    | true, true => if n ≤ p then (.mgmt, 0) else (.data, p + 1)
    | false, true => (.data, min n (p + 1))
    | true, false => (.mgmt, 0)
    | false, false => (.idle, p)

/-- What the scheduler's report of carriage does at the message's owner (R14, R71, R137, R145, R163). A send carried to
its end after its transaction ended starts no timer of the entry that has taken its number since (R69). -/
def State.carried (s : State) (w : Sender) : State :=
  match w with
  | .send n =>
    if s.ss.outQueue.any fun m => m.who == .send n then s
    else s.modSs fun x =>
      { x with txs := x.txs.map fun t => if t.number = n then { t with timeLeft := some Config.answerMs } else t }
  | .answer (some .retrain) n true => if s.le.farEnd.any fun f => f.number == n then s.loss .farEnd else s
  | .answer (some .testReq) n true =>
    if s.testing fun c => c.phase == .arming && c.reqNumber == some n then s.armedRaw.lineLaw else s
  | .answer _ _ _ => s
  | .beacon => s
  | .ended i => s.endCarried i
  | .powerLoss => s.modSup fun x => { x with loss := .ended }

/-- R58: the next cell of the message at the head; the message leaves with its last cell and is reported carried. -/
def State.placeMgmt (s : State) : State × List Byte :=
  match s.ss.outQueue with
  | [] => (s, idleCell)
  | m :: t =>
    let s := s.modCounts fun c => { c with mgmtCells := inc32 c.mgmtCells }
    match m.cells with
    | c :: d :: rest =>
      (s.modSs fun x => { x with outQueue := { m with cells := d :: rest, started := true } :: t }, cellBytes true c)
    | l =>
      ((s.modSs fun x => { x with outQueue := t }).carried m.who,
        match l with
        | c :: _ => cellBytes true c
        | [] => idleCell)

/-- R58: the oldest data cell leaves the queue. -/
def State.placeData (s : State) : State × List Byte :=
  match s.ss.upQueue with
  | [] => (s, idleCell)
  | c :: t =>
    ((s.modSs fun x => { x with upQueue := t }).modCounts fun n => { n with dataCells := inc32 n.dataCells },
      cellBytes false c)

/-- R58: one cell position. -/
def State.cellPosition (s : State) (first : Bool) : State × List Byte :=
  let (turn, p) := cellTurn first (!s.ss.outQueue.isEmpty) (!s.ss.upQueue.isEmpty) s.ss.p
    (ServiceRatio.n s.settings.ratio)
  let s := s.modSs fun x => { x with p := p }
  match turn with
  | .mgmt => s.placeMgmt
  | .data => s.placeData
  | .idle => (s.modCounts fun c => { c with idleCells := inc32 c.idleCells }, idleCell)

/-- R57, step 2: the cell positions in turn; the arbiter makes no choice once the link has left service. -/
def State.placeCells (first : Bool) : Nat → State → State × List Byte
  | 0, s => (s, [])
  | k + 1, s =>
    if !s.inService then (s, [])
    else
      let (s, b) := s.cellPosition first
      let (s, rest) := State.placeCells false k s
      (s, b ++ rest)

/-- R57: the layout of an upstream superframe. -/
def State.layUp (s : State) (a b : List Byte) : State :=
  let n := payloadBytes (total s.tt.up) s.emptied
  let named := s.namedSlots
  let slots := fitSlots n named
  let voice := slots.flatMap (s.slotAudio a b)
  let s := s.modCounts fun c => { c with slotsOmitted := add32 c.slotsOmitted (named.length - slots.length) }
  let (s, cells) := State.placeCells true ((n - voice.length) / 64) s
  (s.modSs fun x =>
    { x with slots := if s.inService then named else [], lastUp := fitBytes n (voice ++ cells) }).flowLaw

/-- UPSTREAM_SUPERFRAME (R57, R58): the start of an upstream superframe in IN_SERVICE. -/
def execUpstreamSuperframe (a b : List Byte) (s : State) : Host.Outcome State Fault Refusal :=
  .next (s.live fun s => if s.inService then s.layUp a b else s)

/-! ## Downstream (R63 to R66) -/

/-- R63: both partial units are dropped for a check. -/
def State.dropForCheck (s : State) : State :=
  let k := (if s.ss.dataPartial.isSome then 1 else 0) + (if s.ss.mgmtPartial.isSome then 1 else 0)
  s.modSs fun x =>
    { x with
      dataPartial := none, mgmtPartial := none
      counts := { x.counts with unitsCheck := add32 x.counts.unitsCheck k } }

def SsCounts.sequence (c : SsCounts) (units cells : Nat) : SsCounts :=
  { c with unitsSequence := add32 c.unitsSequence units, cellsSequence := add32 c.cellsSequence cells }

/-- What R64 makes of a cell against the partial unit of its kind. -/
inductive Fit where
  | begins (dropped : Bool) | badStart (dropped : Bool) | orphan | outOfOrder | tooLong | joins (p : Partial)
  deriving DecidableEq, Repr

/-- R64, with the limit of the kind in bytes. -/
def fitCell (limit : Nat) (p : Option Partial) (c : Cell) : Fit :=
  if c.start then (if c.index = 0 then .begins p.isSome else .badStart p.isSome)
  else match p with
    | none => .orphan
    | some p =>
      if c.seq ≠ p.seq ∨ c.index ≠ p.nextIndex then .outOfOrder
      else if limit < p.bytes.length + c.data.length then .tooLong
      else .joins
        { p with nextIndex := (p.nextIndex + 1) % 16, cells := p.cells + 1, bytes := p.bytes ++ c.data }

/-- A unit begun by a START cell. -/
def Partial.start (c : Cell) : Partial := { seq := c.seq, nextIndex := 1, cells := 1, bytes := c.data }

/-- R64, R65: a kept DATA cell takes its place; with END set the unit is complete and waits for DATA_DOWN. -/
def State.keepData (s : State) (c : Cell) (p : Partial) : State :=
  if c.fin then
    (s.modSs fun x => { x with dataPartial := none }).modPlk fun k => { k with dataDown := k.dataDown ++ [p.bytes] }
  else s.modSs fun x => { x with dataPartial := some p }

/-- R65: a DATA cell that finds the pool full. -/
def State.noRoomDown (s : State) : State :=
  s.modSs fun x => { x with dataPartial := none, counts := { x.counts with unitsRoom := inc32 x.counts.unitsRoom } }

/-- R64 to R66: a DATA cell. -/
def State.dataCell (s : State) (c : Cell) : State :=
  if !s.sup.procPwr then
    (if c.start then s.modCounts fun n => { n with unitsPower := inc32 n.unitsPower } else s)
  else
    let drop := fun (s : State) => s.modSs fun x => { x with dataPartial := none }
    match fitCell 1600 s.ss.dataPartial c with
    | .begins d =>
      let s := (drop s).modCounts fun n => n.sequence (if d then 1 else 0) 0
      if s.poolUsed < Config.poolCells then s.keepData c (Partial.start c) else s.noRoomDown
    | .badStart d => (drop s).modCounts fun n => n.sequence (if d then 1 else 0) 1
    | .orphan => s.modCounts fun n => { n with orphans := inc32 n.orphans }
    | .outOfOrder => (drop s).modCounts fun n => n.sequence 1 1
    | .tooLong => (drop s).modCounts fun n => { n with unitsLong := inc32 n.unitsLong }
    | .joins p => if s.poolUsed < Config.poolCells then s.keepData c p else s.noRoomDown

/-- R64, R68: a kept MGMT cell; a complete unit is taken as one message. -/
def State.keepMgmt (s : State) (c : Cell) (p : Partial) : State :=
  if c.fin then (s.modSs fun x => { x with mgmtPartial := none }).takeMessage p.bytes
  else s.modSs fun x => { x with mgmtPartial := some p }

/-- R64: a MGMT cell. -/
def State.mgmtCell (s : State) (c : Cell) : State :=
  let drop := fun (s : State) => s.modSs fun x => { x with mgmtPartial := none }
  match fitCell 120 s.ss.mgmtPartial c with
  | .begins d => ((drop s).modCounts fun n => n.sequence (if d then 1 else 0) 0).keepMgmt c (Partial.start c)
  | .badStart d => (drop s).modCounts fun n => n.sequence (if d then 1 else 0) 1
  | .orphan => s.modCounts fun n => { n with orphans := inc32 n.orphans }
  | .outOfOrder => (drop s).modCounts fun n => n.sequence 1 1
  | .tooLong => (drop s).modCounts fun n => { n with unitsLong := inc32 n.unitsLong }
  | .joins p => s.keepMgmt c p

/-- A cell as received (R59): its kind code, and its fields. -/
def readCell (l : List Byte) : Nat × Cell :=
  let b := ((l[0]?).getD 0).toNat
  let used := ((l[2]?).getD 0).toNat
  (b / 64,
    { start := decide (32 ≤ b % 64), fin := decide (16 ≤ b % 32), index := b % 16, seq := ((l[1]?).getD 0).toNat
      data := (l.drop 3).take used })

/-- R63: one cell of 64 bytes is judged. Once a message in an earlier cell has taken the link out of service, the rest
of the superframe is ignored (DESIGN CHOICE, log 69). -/
def State.takeCell (s : State) (l : List Byte) : State :=
  if !s.inService then s
  else if crc8 (l.take 63) ≠ (l[63]?).getD 0 then
    (s.modCounts fun n => { n with checkFails := inc32 n.checkFails }).dropForCheck
  else
    let (kind, c) := readCell l
    let used := ((l[2]?).getD 0).toNat
    let bad := used = 0 ∨ 60 < used ∨ (used < 60 ∧ c.fin = false)
    if kind = 0 then s
    else if kind = 3 ∨ bad then
      (s.modCounts fun n => { n with formatFaults := inc32 n.formatFaults }).dropForCheck
    else if kind = 1 then s.dataCell c
    else s.mgmtCell c

/-- The whole cells of 64 bytes at the head of the bytes that remain. -/
def chunks : Nat → List Byte → List (List Byte)
  | 0, _ => []
  | k + 1, l => if l.length < 64 then [] else l.take 64 :: chunks k (l.drop 64)

/-- R63, step 1: each slot's bytes go to its port while the port's audio source is LINE; a port without a slot, or whose
slot was omitted, plays silence. -/
def State.giveVoice (s : State) : List Slot → List Byte → State
  | [], _ => s
  | x :: t, l =>
    let n := codingBytes x.coding
    State.giveVoice
      (if (s.port x.port).audio = .line then s.modPort x.port fun p => { p with voice := some (l.take n) } else s)
      t (l.drop n)

/-- R63: a received downstream superframe is taken apart, and the superframe ends (R1). -/
def State.takeDown (s : State) (payload : List Byte) : State :=
  let n := payloadBytes (total s.tt.down) s.emptied
  let l := fitBytes n payload
  let slots := fitSlots n s.ss.slots
  let used := (slots.map fun x => codingBytes x.coding).sum
  let s := (s.modPort .a fun p => { p with voice := none }).modPort .b fun p => { p with voice := none }
  let s := s.giveVoice slots l
  let s := (chunks (n / 64) (l.drop used)).foldl State.takeCell s
  if s.inService then
    s.modLe fun x =>
      let c := x.sf + 1
      { x with sf := c, sfStart := x.sfStart + 40, evalDue := x.evalDue || c.toNat % 100 == 0 }
  else s

/-- DOWNSTREAM_SUPERFRAME (R63): the end of a received downstream superframe in IN_SERVICE. -/
def execDownstreamSuperframe (payload : List Byte) (s : State) : Host.Outcome State Fault Refusal :=
  .next (s.live fun s => if s.inService then s.takeDown payload else s)

/-! ## Messages -/

/-- Types that have a command of their own (R68). -/
def knownType (t : Byte) : Bool :=
  t.toNat == codeAck || t.toNat == codeNak || (FarType.ofCode t.toNat).isSome

/-- UNKNOWN_TYPE_MESSAGE (R68). -/
def execUnknownTypeMessage (t n l : Byte) (body : List Byte) (s : State) : Host.Outcome State Fault Refusal :=
  .next (s.live fun s => if knownType t then s else s.unknownMsg ⟨n, l, body⟩)

/-- ACK (R72). -/
def execAck (n l : Byte) (body : List Byte) (s : State) : Host.Outcome State Fault Refusal :=
  .next (s.live fun s => s.ackMsg ⟨n, l, body⟩)

/-- NAK (R72). -/
def execNak (n l : Byte) (body : List Byte) (s : State) : Host.Outcome State Fault Refusal :=
  .next (s.live fun s => s.nakMsg ⟨n, l, body⟩)

/-- TRANSACTION_TIMEOUT (R71): the 200 ms of one entry end. -/
def execTransactionTimeout (n : Nat) (s : State) : Host.Outcome State Fault Refusal :=
  .next (s.live fun s => if s.inService then s.txTimeout n else s)

/-- RETRAIN (R14). -/
def execRetrain (n l : Byte) (body : List Byte) (s : State) : Host.Outcome State Fault Refusal :=
  .next (s.live fun s => s.retrainMsg ⟨n, l, body⟩)

/-- UP_TABLE (R36). -/
def execUpTable (n l : Byte) (body : List Byte) (s : State) : Host.Outcome State Fault Refusal :=
  .next (s.live fun s => s.upTableMsg ⟨n, l, body⟩)

/-- ALERT (R108). -/
def execAlert (n l : Byte) (body : List Byte) (s : State) : Host.Outcome State Fault Refusal :=
  .next (s.live fun s => s.alertMsg ⟨n, l, body⟩)

/-- CLEAR (R104, R110). -/
def execClear (n l : Byte) (body : List Byte) (s : State) : Host.Outcome State Fault Refusal :=
  .next (s.live fun s => s.clearMsg ⟨n, l, body⟩)

/-- ANSWERED (R104). -/
def execAnswered (n l : Byte) (body : List Byte) (s : State) : Host.Outcome State Fault Refusal :=
  .next (s.live fun s => s.answeredMsg ⟨n, l, body⟩)

/-- TEST_REQ (R149, R150). -/
def execTestReq (n l : Byte) (body : List Byte) (s : State) : Host.Outcome State Fault Refusal :=
  .next (s.live fun s => s.testReqMsg ⟨n, l, body⟩)

/-- BEACON_CLEAR (R164). -/
def execBeaconClear (n l : Byte) (body : List Byte) (s : State) : Host.Outcome State Fault Refusal :=
  .next (s.live fun s => s.beaconClearMsg ⟨n, l, body⟩)

end Sys2Proof.Machine
end

