-- ==== Sys2Proof/Machine/Gate.lean ====
section
/-!
DEFINITION. The fence gate's own events: AGREEMENT_IN_FORCE, REPLACEMENT_IN_FORCE, AGREEMENT_END, GATE_RETRY_EXPIRY,
IMPULSE_SECOND_CLOSE (chapter 3, R47 to R52).
-/

namespace Sys2Proof.Machine

/-- R51: an anchor before the end superframe, if there is one. -/
def beforeEnd (anchor : Sf) (e : Option Sf) : Bool := (e.map fun x => ahead x anchor).getD true

/-- AGREEMENT_IN_FORCE (R49, R8): the first symbol of the anchor superframe of a pending agreement. -/
def execAgreementInForce (s : State) : Host.Outcome State Fault Refusal :=
  .next <| s.live fun s =>
    match s.ft.agreement with
    | some a =>
      if s.inService && !a.active && a.cur.anchor == s.le.sf && beforeEnd a.cur.anchor a.endSf then
        (s.ftUpd fun x => { x with agreement := some { a with active := true } }).widthChanged s.agreedWidth
      else s
    | none => s

/-- REPLACEMENT_IN_FORCE (R50): the first symbol of the replacement's anchor superframe. -/
def execReplacementInForce (s : State) : Host.Outcome State Fault Refusal :=
  .next <| s.live fun s =>
    match s.ft.agreement with
    | some a =>
      match a.repl with
      | some c =>
        if s.inService && c.anchor == s.le.sf && beforeEnd c.anchor a.endSf then
          (s.ftUpd fun x =>
            { x with agreement := some { a with cur := c, repl := none } }).widthChanged s.agreedWidth
        else s
      | none => s
    | none => s

/-- AGREEMENT_END (R51): the first symbol of the end superframe. -/
def execAgreementEnd (s : State) : Host.Outcome State Fault Refusal :=
  .next <| s.live fun s =>
    match s.ft.agreement with
    | some a =>
      if s.inService && a.endSf == some s.le.sf then
        (s.ftUpd fun x => { x with agreement := none }).widthChanged s.agreedWidth
      else s
    | none => s

/-- GATE_RETRY_EXPIRY (R49, R50): the retry timer runs out; R48's conditions are looked at again. -/
def execGateRetryExpiry (s : State) : Host.Outcome State Fault Refusal :=
  .next (s.live fun s => if s.ft.retry.isSome then s.modFt fun x => { x with retry := none } else s)

/-- R52: the close of a counting second. -/
def FT.closeSecond (x : FT) (threshold : Nat) : FT :=
  let high := decide (threshold ≤ x.hits)
  { x with
    highRun := if high then satInc 10 x.highRun else 0
    lowRun := if high then 0 else satInc 60 x.lowRun
    hits := 0
    stats := { x.stats with peak := max x.stats.peak x.hits } }

/-- R52: the condition IMPULSE_NOISE by the runs. -/
def FT.impulseNow (x : FT) : Bool :=
  if x.impulse then decide (x.lowRun < 60) else decide (10 ≤ x.highRun)

/-- IMPULSE_SECOND_CLOSE (R52), while the line driver runs. -/
def execImpulseSecondClose (s : State) : Host.Outcome State Fault Refusal :=
  .next <| s.live fun s =>
    if s.le.link.driverOn then
      let s := s.modFt fun x => x.closeSecond s.settings.gate.impulseThreshold
      let now := s.ft.impulseNow
      if now = s.ft.impulse then s
      else (s.ftUpd fun x => { x with impulse := now }).faultCondition .impulseNoise now none
    else s

end Sys2Proof.Machine
end

