-- ==== Sys2Proof/Machine/Ports.lean ====
section
/-!
DEFINITION. The events of a phone port: HOOK_SAMPLE, OFF_HOOK, ON_HOOK, RING_TRIP, OFF_HOOK_ON_TEST, PULSE_TRAIN_END,
TONE_DIGIT, TONE_ABSENCE_END, POLARITY_SWAP_END, CADENCE_PHASE_END, FEED_OVERCURRENT, RING_OVERLOAD (chapter 5).
-/

namespace Sys2Proof.Machine

/-! ## The samples of one millisecond (R84 to R86, R89, R90) -/

/-- The feeds in which the hook is sampled (R84). -/
def Feed.sampled : Feed → Bool
  | .disconnected | .protect | .polaritySwap => false
  | _ => true

/-- R86: a pulse train ends: the digit of a count of 1 to 10, if any. -/
def pulseDigit (n : Nat) : Option Digit :=
  if h : 1 ≤ n ∧ n ≤ 9 then some (.num ⟨n, by omega⟩)
  else if n = 10 then some (.num 0)
  else none

/-- R86, R88: the pulse train in progress ends. -/
def State.endTrain (s : State) (p : Port) : State :=
  match pulseDigit (s.port p).pulses with
  | some d =>
    let s := s.modPort p fun x =>
      { x with pulses := 0, detect := { x.detect with make := none }
               counts := { x.counts with pulseDigits := inc32 x.counts.pulseDigits } }
    let (s, joined) := s.addDigit p d .pulse
    if joined then s.ccDigit p else s
  | none => s.modPort p PP.discardTrain

/-- R85: a break of length L ends and is classified. -/
def State.endBreak (s : State) (p : Port) (l : Nat) : State :=
  let s := s.modPort p fun x =>
    { x with hook := .offHook, detect := { x.detect with breakMs := 0, onHookDue := false } }
  if l < 20 then s.modPort p fun x => { x with counts := { x.counts with glitches := inc32 x.counts.glitches } }
  else if l < 25 then s.modPort p PP.discardTrain
  else if l < 96 then
    s.modPort p fun x => { x with pulses := satInc 255 x.pulses, detect := { x.detect with make := some 150 } }
  else s.endTrain p

/-- R85: the hook detector at an unblanked sample, with T the off-hook threshold. -/
def State.hookUnblanked (s : State) (p : Port) (t loop : Nat) : State :=
  let x := s.port p
  let watch := fun (x : PP) =>
    { x with detect := { x.detect with offRun := if t ≤ loop then satInc 20 x.detect.offRun else 0 } }
  match x.hook with
  | .onHook =>
    match x.feed with
    | .testing | .standby | .ringPause => s.modPort p watch
    | .ringing =>
      s.modPort p fun x =>
        { x with detect := { x.detect with tripRun := if 15 < loop then satInc 30 x.detect.tripRun else 0 } }
    | _ => s
  | .offHook =>
    if loop + 2 < t then
      s.modPort p fun x =>
        { x with hook := .brk, detect := { x.detect with breakMs := 0, onHookDue := false, toneArmed := true } }
    else s
  | .brk =>
    if t ≤ loop then s.endBreak p x.detect.breakMs
    else if loop + 2 < t ∧ 300 ≤ x.detect.breakMs then
      s.modPort p fun x => { x with detect := { x.detect with onHookDue := true } }
    else s

/-- R89: the overcurrent detector. -/
def PP.overcurrentSample (x : PP) (loop : Nat) : PP :=
  let d := x.detect
  match x.feed with
  | .standby | .active | .reversed =>
    if 0 < d.ocBlank then { x with detect := { d with ocBlank := d.ocBlank - 1 } }
    else if 60 < loop then
      (if d.ocArmed then { x with detect := { d with ocRun := satInc 10 d.ocRun, ocMax := max d.ocMax loop } } else x)
    else { x with detect := { d with ocRun := 0, ocMax := 0, ocArmed := true } }
  | _ => x

/-- R90: the end of a 10 ms period of an on-phase; the first three are blanked. -/
def Detect.period (d : Detect) (peak : Nat) : Detect :=
  let d := { d with roPeak := 0 }
  if d.roMs ≤ 30 ∨ d.roArmed = false then d
  else if 90 < peak then { d with roRun := satInc 5 d.roRun, roMax := max d.roMax peak }
  else { d with roRun := 0, roMax := 0 }

/-- R90: the ring overload detector, its periods counted from the burst start. -/
def PP.overloadSample (x : PP) (ring : Nat) : PP :=
  if x.feed = .ringing then
    let d := { x.detect with roMs := x.detect.roMs + 1, roPeak := max x.detect.roPeak ring }
    { x with detect := if d.roMs % 10 = 0 then d.period d.roPeak else d }
  else x

/-- The time of a break and of the blanking interval runs on with every sample (R84, R85). -/
def PP.passMs (x : PP) : PP :=
  { x with detect := { x.detect with
      blank := x.detect.blank - 1
      breakMs := if x.hook = .brk then x.detect.breakMs + 1 else x.detect.breakMs } }

/-- HOOK_SAMPLE (R84 to R86, R89, R90): the samples of one port at one millisecond. -/
def State.hookSample (s : State) (p : Port) (loop ring : Nat) : State :=
  let x := s.port p
  let set := s.settings.ports.get p
  let blanked := decide (0 < x.detect.blank) || (set.fenceExposed && s.gatedNow)
  let s := s.modPort p fun x => ((x.passMs).overcurrentSample loop).overloadSample ring
  if x.feed.sampled && !blanked then s.hookUnblanked p set.offHookThreshold loop else s

/-- HOOK_SAMPLE, while the port is fed. -/
def execHookSample (p : Port) (loop ring : Nat) (s : State) : Host.Outcome State Fault Refusal :=
  .next <| s.live fun s =>
    let f := (s.port p).feed
    if f.sampled || f == .polaritySwap then s.hookSample p loop ring else s

/-! ## Hook recognition (R80, R83) -/

/-- A lifted handset: the feed goes to ACTIVE, the digit list is emptied, and the call controller is told. -/
def State.lift (s : State) (p : Port) (trip : Bool) : State :=
  let s := s.modPort p fun x =>
    let x := x.enter .active
    { x.emptyDigits with
      hook := .offHook, wanted := .normal, ringRequest := none, cadence := none
      counts := { x.counts with
        offHooks := inc32 x.counts.offHooks
        ringTrips := if trip then inc32 x.counts.ringTrips else x.counts.ringTrips } }
  (s.raise (.hook p)).ccOffHook p

/-- OFF_HOOK (R80, R83, R85): the off-hook run has reached 20 samples in STANDBY or RING_PAUSE. -/
def execOffHook (p : Port) (s : State) : Host.Outcome State Fault Refusal :=
  .next <| s.live fun s =>
    let x := s.port p
    if x.hook == .onHook && (x.feed == .standby || x.feed == .ringPause) && decide (20 ≤ x.detect.offRun) then
      s.lift p false
    else s

/-- ON_HOOK (R80, R85): a break of 300 ms or more has ended the off-hook. -/
def execOnHook (p : Port) (s : State) : Host.Outcome State Fault Refusal :=
  .next <| s.live fun s =>
    let x := s.port p
    if x.hook == .brk && x.detect.onHookDue && x.feed.isTalk then
      ((s.modPort p fun x =>
        { (x.clearHook).enter .standby with wanted := .normal, tone := .none, audio := .none }).raise
          (.hook p)).ccOnHook p
    else s

/-- RING_TRIP (R83): the ring trip run has reached 30 samples in RINGING. -/
def execRingTrip (p : Port) (s : State) : Host.Outcome State Fault Refusal :=
  .next <| s.live fun s =>
    let x := s.port p
    if x.hook == .onHook && x.feed == .ringing && decide (30 ≤ x.detect.tripRun) then s.lift p true else s

/-- OFF_HOOK_ON_TEST (R85, R148): the off-hook watch in TESTING has completed. -/
def execOffHookOnTest (p : Port) (s : State) : Host.Outcome State Fault Refusal :=
  .next <| s.live fun s =>
    let x := s.port p
    if x.feed == .testing && decide (20 ≤ x.detect.offRun) then
      (s.modPort p fun x => { x with detect := { x.detect with offRun := 0 } }).abortIf
        (fun c => c.kind == .portLoop && Target.port c.target == p) .offHook
    else s

/-! ## Digits (R86, R87) -/

/-- PULSE_TRAIN_END (R86): a make of 150 ms after a pulse break. While a break runs it is open whether it is a glitch,
which the 150 ms outlast, or a further break, which ends the make (log 17); over POLARITY_SWAP the train is held (R81).
-/
def execPulseTrainEnd (p : Port) (s : State) : Host.Outcome State Fault Refusal :=
  .next <| s.live fun s =>
    let x := s.port p
    if x.detect.make.isSome && x.hook == .offHook && x.feed != .polaritySwap then s.endTrain p else s

/-- TONE_DIGIT (R87, R88): a tone pair has been present for 40 ms. -/
def execToneDigit (p : Port) (d : Digit) (s : State) : Host.Outcome State Fault Refusal :=
  .next <| s.live fun s =>
    let x := s.port p
    if x.feed.isTalk && x.hook == .offHook && x.detect.toneArmed then
      let s := s.modPort p fun x =>
        { x with detect := { x.detect with toneArmed := false }
                 counts := { x.counts with toneDigits := inc32 x.counts.toneDigits } }
      let (s, joined) := s.addDigit p d .tone
      if joined then s.ccDigit p else s
    else s

/-- TONE_ABSENCE_END (R87): no pair has been present for 40 ms. -/
def execToneAbsenceEnd (p : Port) (s : State) : Host.Outcome State Fault Refusal :=
  .next <| s.live fun s => s.modPort p fun x => { x with detect := { x.detect with toneArmed := true } }

/-! ## Polarity and ringing (R81, R82) -/

/-- POLARITY_SWAP_END (R81): the 20 ms of dead interval end. -/
def execPolaritySwapEnd (p : Port) (s : State) : Host.Outcome State Fault Refusal :=
  .next <| s.live fun s =>
    if (s.port p).feed = .polaritySwap then
      s.modPort p fun x => x.enter (match x.wanted with | .normal => .active | .reversed => .reversed)
    else s

/-- The on and off time of a pair. -/
def pairAt (l : Cadence) (k : Nat) : Nat × Nat := (l[k]?).getD (0, 0)

/-- R82: the pause after an on-phase, of the same pair, or of pair 0 of the cadence newly requested. -/
def CadencePos.pause (k : CadencePos) (requested : Cadence) : CadencePos :=
  if k.restart then
    { k with pairs := requested, pair := 0, on := false, timeLeft := (pairAt requested 0).2, restart := false }
  else { k with on := false, timeLeft := (pairAt k.pairs k.pair).2 }

/-- CADENCE_PHASE_END (R82). -/
def execCadencePhaseEnd (p : Port) (s : State) : Host.Outcome State Fault Refusal :=
  .next <| s.live fun s =>
    let x := s.port p
    match x.cadence with
    | some k =>
      let requested := (x.ringRequest.map (Cadences.get s.settings.cadences)).getD k.pairs
      if x.feed = .ringing then
        s.modPort p fun x => { x.enter .ringPause with cadence := some (k.pause requested) }
      else if x.feed = .ringPause then
        (if k.restart then s.burstStart p requested 0
         else s.burstStart p k.pairs (if k.pair + 1 < k.pairs.length then k.pair + 1 else 0))
      else s
    | none => s

/-! ## Overloads (R89, R90) -/

/-- FEED_OVERCURRENT (R89): the run has reached 10 samples. -/
def execFeedOvercurrent (p : Port) (s : State) : Host.Outcome State Fault Refusal :=
  .next <| s.live fun s =>
    let x := s.port p
    if (x.feed == .standby || x.feed.isTalk) && x.detect.ocArmed && decide (10 ≤ x.detect.ocRun) then
      (s.modPort p fun x =>
        { x with detect := { x.detect with ocArmed := false, ocRun := 0, ocMax := 0 }
                 counts := { x.counts with overcurrents := inc32 x.counts.overcurrents } }).portEvent
        (FaultId.feedOvercurrent p) (x.detect.ocMax : Int)
    else s

/-- RING_OVERLOAD (R90): the run has reached 5 periods. -/
def execRingOverload (p : Port) (s : State) : Host.Outcome State Fault Refusal :=
  .next <| s.live fun s =>
    let x := s.port p
    if x.feed == .ringing && x.detect.roArmed && decide (5 ≤ x.detect.roRun) then
      (s.modPort p fun x =>
        { x with detect := { x.detect with roArmed := false, roRun := 0, roMax := 0 }
                 counts := { x.counts with ringOverloads := inc32 x.counts.ringOverloads } }).portEvent
        (FaultId.ringOverload p) (x.detect.roMax : Int)
    else s

end Sys2Proof.Machine
end

