-- ==== Sys2Proof/Machine/Calls.lean ====
section
/-!
DEFINITION. The timers of the call controller: ADMISSION_WAIT_EXPIRY, HOLD_OFF_EXPIRY, DECISION_TIMER_EXPIRY,
ALERT_TIMER_EXPIRY, GRACE_TIMER_EXPIRY (chapter 6).
-/

namespace Sys2Proof.Machine

/-- ADMISSION_WAIT_EXPIRY (R101, R103, R108): the 2 s end, and admission fails. -/
def execAdmissionWaitExpiry (p : Port) (s : State) : Host.Outcome State Fault Refusal :=
  .next <| s.live fun s =>
    let r := s.call p
    if r.admission.isNone then s
    else match r.state with
      | .seizing =>
        s.updCall p fun r => { r with state := .blocked, cause := .capacity, coding := none, admission := none }
      | .alertingIn => (s.nakAlert p .capacity).freeCall p .capacity
      | _ => s

/-- HOLD_OFF_EXPIRY (R101): the n reported becomes c. -/
def execHoldOffExpiry (s : State) : Host.Outcome State Fault Refusal :=
  .next <| s.live fun s =>
    if s.cc.holdOff.isSome then s.modCc fun c => { c with nReported := s.callCount, holdOff := none } else s

/-- DECISION_TIMER_EXPIRY (R109): the default plan is applied. -/
def execDecisionTimerExpiry (p : Port) (s : State) : Host.Outcome State Fault Refusal :=
  .next <| s.live fun s =>
    if (s.call p).sub == some .decisionWanted && (s.call p).decision.isSome then s.applyPlan p s.defaultPlan else s

/-- ALERT_TIMER_EXPIRY (R110, R112): nobody has answered. -/
def execAlertTimerExpiry (p : Port) (s : State) : Host.Outcome State Fault Refusal :=
  .next <| s.live fun s =>
    if (s.call p).alert.isNone then s
    else match (s.call p).state with
      | .alertingIn => s.releaseCall p .noAnswer
      | .intercomRinging => ((s.ringOff p).freeCall p .noAnswer).leaveIntercom p.other .noAnswer
      | _ => s

/-- GRACE_TIMER_EXPIRY (R114): custody becomes PART and the waiting decisions take the default plan; R136 withdraws the
host's power. -/
def execGraceTimerExpiry (s : State) : Host.Outcome State Fault Refusal :=
  .next <| s.live fun s => if s.cc.grace.isSome then (s.setCustody .part).decideAll else s

end Sys2Proof.Machine
end

