-- ==== Sys2Proof/Machine/Supply.lean ====
section
/-!
DEFINITION. The sweeps of the measurement unit and the supply supervisor's timers: SWEEP_PERIOD_START, SWEEP_END,
MAINS_TIMER_EXPIRY, RECOVERY_TIMER_EXPIRY, CUTOFF_TIMER_EXPIRY, LOW_BATTERY_TIMER_EXPIRY, BATTERY_GOOD_TIMER_EXPIRY,
LOSS_MESSAGE_TIMEOUT (chapters 7 and 8, with R151 and R159).
-/

namespace Sys2Proof.Machine

/-! ## Samples (R118 to R121) -/

/-- The range of each channel (7.1). -/
def Chan.limits : Chan → Int × Int
  | .battV => (0, 2000)
  | .battI => (-8000, 8000)
  | .adapterV => (0, 3000)
  | .lineTipE | .lineRingE | .lineTR => (-1500, 1500)
  | .paV | .pbV => (-1000, 1000)
  | .paI | .pbI => (-1500, 1500)
  | .dieT => (-80, 300)
  | .ldI => (0, 600)

/-- R119: raw × gain / 16,384, rounded half away from zero, plus the offset, clamped to the channel's range. -/
def convert (c : Chan) (k : Calib) (raw : Int) : Int :=
  clampInt (Chan.limits c).1 (Chan.limits c).2 (roundHalfAway (raw * k.gain) 16384 + k.offset)

/-- R120: a sample of a line group channel, or of a channel of a fence-exposed port. -/
def State.exposed (s : State) : Chan → Bool
  | .lineTipE | .lineRingE | .lineTR => true
  | .paV | .paI => s.settings.ports.a.fenceExposed
  | .pbV | .pbI => s.settings.ports.b.fenceExposed
  | _ => false

/-- R120: a kept sample joins the window of 8, and is fresh in its sweep. -/
def MuChan.keep (x : MuChan) (v : Int) (sweep : Sf) : MuChan :=
  let w := if 8 ≤ x.window.length then x.window.drop 1 else x.window
  { x with latest := some v, window := w ++ [v], lastKept := some sweep, fresh := true }

def Reading.add (r : Reading) (x : Sample) : Reading :=
  { n := r.n + 1, sum1 := r.sum1 + x.first, sum2 := r.sum2 + x.second }

/-- R146: a reading of a claimed channel, by its place among the channels claimed. -/
def CurrentTest.read (c : CurrentTest) (ch : Chan) (x : Sample) : CurrentTest :=
  if c.phase = .arming then c
  else match (TestKind.channels c.kind c.target).findIdx? (· == ch) with
    | some 0 => { c with r0 := c.r0.add x }
    | some 1 => { c with r1 := c.r1.add x }
    | some 2 => { c with r2 := c.r2.add x }
    | _ => c

/-- One channel's slot of a sweep (R118, R119); the gate of every channel is that of the symbol on the line at
SWEEP_PERIOD_START (R46, R120; DESIGN CHOICE, log 51). -/
def State.sampleChan (samples : PerChan Sample) (s : State) (ch : Chan) : State :=
  let m := s.mu.chans.get ch
  let x := samples.get ch
  if !(m.owned || Chan.supervision ch || s.mu.active.enables.get ch) then s
  else if s.exposed ch && s.gatedNow then s
  else if m.owned then s.modTu fun t => { t with current := t.current.map fun c => c.read ch x }
  else
    s.modMu fun u =>
      { u with chans := u.chans.set ch (m.keep (convert ch (s.sts.region.calib.get ch) x.raw) u.sweep) }

/-- A sweep begins: no channel has a fresh sample in it yet (R118, R120). -/
def MU.beginSweep (x : MU) : MU :=
  { x with sweep := x.sweep + 1, periodRate := x.rateInForce, sweeping := true
           chans := PerChan.mapAll (fun _ c => { c with fresh := false }) x.chans }

/-- SWEEP_PERIOD_START (R118): a period begins, and its sweep samples the channels in rising index. -/
def execSweepPeriodStart (samples : PerChan Sample) (s : State) : Host.Outcome State Fault Refusal :=
  .next <| s.live fun s =>
    if s.mu.started && !s.mu.sweeping then
      allChans.foldl (State.sampleChan samples) (s.modMu MU.beginSweep)
    else s

/-! ## The end of a sweep (R118, R122 to R124) -/

/-- R120: the sum of the window over its number, rounded half away from zero. -/
def MuChan.average (x : MuChan) : Option Int :=
  if x.window.isEmpty then none else some (roundHalfAway x.window.sum x.window.length)

/-- The sweep's fresh sample of a channel, if it has one (R120). -/
def MU.fresh (x : MU) (c : Chan) : Option Int :=
  let m := x.chans.get c
  if m.fresh then m.latest else none

/-- The power of each consumer in mW (7.4). -/
def Consumer.power (c : Consumer) (v i : Int) : Int :=
  match c with
  | .total | .line => (10 * v * i).tdiv 1000
  | .portA | .portB => (((v * i).natAbs / 100 : Nat) : Int)

def Consumer.channels : Consumer → Chan × Chan
  | .total => (.battV, .battI)
  | .line => (.battV, .ldI)
  | .portA => (.paV, .paI)
  | .portB => (.pbV, .pbI)

/-- T in ms (R118). -/
def sweepMs : SweepRate → Int
  | .r1000 => 1
  | .r250 => 4
  | .r50 => 20
  | .r10 => 100

/-- R122, R123: an account credited with p × T, and whether the credit is an overflow. -/
def Account.credit (a : Account) (e : Int) : Account × Bool :=
  let acc := clampInt (-Config.accLimit) Config.accLimit (a.acc + e)
  let count := satInc Config.countLimit a.count
  (⟨acc, count⟩, acc != a.acc + e || count == Config.countLimit)

/-- R122: one consumer's credit in the sweep just ended. -/
def MU.creditOne (x : MU) (c : Consumer) (a : Account) : Account × Bool :=
  match x.fresh c.channels.1, x.fresh c.channels.2 with
  | some v, some i => a.credit (c.power v i * sweepMs x.periodRate)
  | _, _ => (a, false)

/-- R122, R123: the credits of the sweep, and the overflow flag. -/
def MU.credits (x : MU) : MU :=
  let t := x.creditOne .total x.accounts.total
  let l := x.creditOne .line x.accounts.line
  let a := x.creditOne .portA x.accounts.portA
  let b := x.creditOne .portB x.accounts.portB
  { x with accounts := ⟨t.1, l.1, a.1, b.1⟩, overflow := x.overflow || t.2 || l.2 || a.2 || b.2 }

def MU.averageOf (x : MU) (c : Chan) : Option Int := (x.chans.get c).average

/-- R124: one channel as the readout shows it. -/
def MuChan.toRead (x : MuChan) : ChanRead :=
  { latest := x.latest, average := x.average, values := x.window.length, lastKept := x.lastKept, owned := x.owned }

/-- R124, R125: a pending snapshot is taken, with both rates (R126). -/
def State.takeSnapshot (s : State) : State :=
  match s.mu.pending with
  | none => s
  | some p =>
    (s.modMu fun x =>
      let n := (x.snapNumber + 1) % 65536
      { x with
        snapNumber := n
        readout := some
          { number := n, cause := p.cause, kind := p.kind, uptime := s.uptime, sweep := x.sweep, mode := s.sup.mode
            rate := x.periodRate, activeRate := x.active.rate, chans := PerChan.mapAll (fun _ c => c.toRead) x.chans
            accounts := x.accounts, overflow := x.overflow }
        accounts := if p.kind = .reset then Reset.mu.accounts else x.accounts
        overflow := if p.kind = .reset then false else x.overflow
        active := if p.cause = .requested then s.settings.measure else x.active
        pending := none }).raise .snapshot

/-! ## The readers (R118, R151, R159) -/

/-- A condition decided with hysteresis from its two tests. -/
def decideCond (now appears leaves : Bool) : Bool := if now then !leaves else appears

/-- R159: one thermal condition. -/
def State.thermalOne (s : State) (i : FaultId) (v on off : Int) : State :=
  s.actCondition i (decideCond (s.faultRec i).condition (decide (on ≤ v)) (decide (v < off))) v

/-- R159. -/
def State.thermal (s : State) (v : Option Int) : State :=
  match v with
  | none => s
  | some v => (s.thermalOne .thermalWarn v 220 200).thermalOne .thermalShutdown v 280 250

/-- R151: FOREIGN_VOLTAGE from the averages of the two legs to earth. -/
def State.foreign (s : State) (tip ring : Option Int) : State :=
  let l := 10 * s.settings.faults.foreignThreshold
  let above := fun (v : Option Int) => (v.map fun x => decide (l < x.natAbs)).getD false
  let below := fun (v : Option Int) => (v.map fun x => decide ((x.natAbs : Int) ≤ (l : Int) - 30)).getD false
  let worst : Int := (max ((tip.map Int.natAbs).getD 0) ((ring.map Int.natAbs).getD 0) : Nat)
  s.actCondition .foreignVoltage
    (decideCond (s.faultRec .foreignVoltage).condition (above tip || above ring) (below tip && below ring)) worst

/-- Applies `f` unless dormancy has come, which follows at once (R138). -/
def State.unlessDepleted (s : State) (f : State → State) : State := if s.sup.loss = .ended then s else f s

/-- R118: the work at the end of a sweep, in order. Of the readers of the averages the supply supervisor comes first,
then the thermal conditions, then the foreign voltage (DESIGN CHOICE, log 77). -/
def State.sweepEnd (s : State) : State :=
  let before := s.mu.overflow
  let s := s.modMu fun x => { x.credits with sweeping := false }
  let s := s.raiseIf (!before && s.mu.overflow) .snapshot
  let m := s.mu
  let s := s.supplyEvaluation
    { battV := m.averageOf .battV, battCount := m.chans.battV.window.length
      battI := m.averageOf .battI, adapterV := m.averageOf .adapterV }
  let s := s.unlessDepleted fun s => s.thermal (m.averageOf .dieT)
  let s := s.unlessDepleted fun s => s.foreign (m.averageOf .lineTipE) (m.averageOf .lineRingE)
  s.unlessDepleted State.takeSnapshot

/-- SWEEP_END (R118). -/
def execSweepEnd (s : State) : Host.Outcome State Fault Refusal :=
  .next (s.live fun s => if s.mu.sweeping then s.sweepEnd else s)

/-! ## Timers of the supply supervisor (R133, R137, R139) -/

/-- MAINS_TIMER_EXPIRY (R133). -/
def execMainsTimerExpiry (s : State) : Host.Outcome State Fault Refusal :=
  .next (s.live fun s => if s.sup.mains.isSome then s.enterMode .mains else s)

/-- RECOVERY_TIMER_EXPIRY (R133). -/
def execRecoveryTimerExpiry (s : State) : Host.Outcome State Fault Refusal :=
  .next (s.live fun s => if s.sup.recovery.isSome then s.enterMode .battery else s)

/-- CUTOFF_TIMER_EXPIRY (R133, R137). -/
def execCutoffTimerExpiry (s : State) : Host.Outcome State Fault Refusal :=
  .next (s.live fun s => if s.sup.cutoff.isSome then s.enterMode .depleted else s)

/-- LOW_BATTERY_TIMER_EXPIRY (R139), during the wait of R137 too (DESIGN CHOICE, log 79). -/
def execLowBatteryTimerExpiry (s : State) : Host.Outcome State Fault Refusal :=
  .next (s.live fun s => if s.sup.lowBattery.isSome then s.setBatteryFault true else s)

/-- BATTERY_GOOD_TIMER_EXPIRY (R139), during the wait of R137 too (DESIGN CHOICE, log 79). -/
def execBatteryGoodTimerExpiry (s : State) : Host.Outcome State Fault Refusal :=
  .next (s.live fun s => if s.sup.batteryGood.isSome then s.setBatteryFault false else s)

/-- LOSS_MESSAGE_TIMEOUT (R137): the 100 ms wait ends, and the part goes dormant. -/
def execLossMessageTimeout (s : State) : Host.Outcome State Fault Refusal :=
  .next <| s.live fun s =>
    match s.sup.loss with
    | .waiting _ => s.modSup fun x => { x with loss := .ended }
    | .none | .ended => s

end Sys2Proof.Machine
end

