-- ==== Sys2Proof/Machine/Tests.lean ====
section
/-!
DEFINITION. The events of the test unit and the fault supervisor: ARMING_TIMEOUT, TEST_DURATION_END,
RETRY_TIMER_EXPIRY, SPACING_TIMER_EXPIRY (chapters 9 and 10).
-/

namespace Sys2Proof.Machine

/-- ARMING_TIMEOUT (R145): 100 ms have passed since the ACK to the TEST_REQ was placed. -/
def execArmingTimeout (s : State) : Host.Outcome State Fault Refusal :=
  .next <| s.live fun s =>
    if s.testing fun c => c.phase == .arming && c.arm.isSome then s.armedRaw.lineLaw else s

/-- R146: a mean of the readings kept, clamped to its range, marked at its top limit or, with `both`, at either. -/
def testValue (lo hi : Int) (both : Bool) (n : Nat) (sum : Int) : TestValue :=
  let v := clampInt lo hi (roundHalfAway sum n)
  { value := v, mark := v == hi || (both && v == lo) }

/-- R146: the values of a test; LINE_FOREIGN's pair by pair, DC before AC (DESIGN CHOICE, log 12). -/
def CurrentTest.values (c : CurrentTest) : List TestValue :=
  match c.kind with
  | .lineForeign =>
    [c.r0, c.r1, c.r2].flatMap fun r =>
      [testValue (-1500) 1500 true r.n r.sum1, testValue 0 1500 false r.n r.sum2]
  | .lineInsulation => [c.r0, c.r1, c.r2].map fun r => testValue 0 10000 false r.n r.sum1
  | .portLoop => [testValue 0 20000 false c.r0.n c.r0.sum1, testValue 0 99 false c.r1.n c.r1.sum1]

/-- R146: each claimed channel has given a kept reading. -/
def CurrentTest.complete (c : CurrentTest) : Bool :=
  (([c.r0, c.r1, c.r2].map (·.n)).take (TestKind.channels c.kind c.target).length).all fun n => decide (0 < n)

/-- R146: whether the values fail, decided on the clamped values. -/
def testFails (x : FaultSettings) (k : TestKind) (vs : List Int) : Bool :=
  match k with
  | .lineForeign => (vs.take 4).any fun v => decide (10 * x.foreignThreshold < v.natAbs)
  | .lineInsulation => vs.any fun v => decide (v < (x.leakageThreshold : Int))
  | .portLoop => decide (vs.headD 0 < 5000) || decide (50 < (vs.drop 1).headD 0)

/-- R147, step 3: LEAKAGE, with the lowest of the three resistances. -/
def State.reportLeakage (s : State) (k : TestKind) (fails : Bool) (vs : List Int) : State :=
  if k = .lineInsulation then s.faultCondition .leakage fails (some (vs.foldl min 10000)) else s

/-- R147: a test that reaches the end of its duration. -/
def State.finishTest (s : State) (c : CurrentTest) : State :=
  let vs := c.values
  let ns := vs.map (·.value)
  let fails := testFails s.settings.faults c.kind ns
  let s := s.recordTest c (if fails then .fail else .pass) none (some vs)
  ((s.reportLeakage c.kind fails ns).endTest c).afterTest c

/-- TEST_DURATION_END (R146 to R148). -/
def execTestDurationEnd (s : State) : Host.Outcome State Fault Refusal :=
  .next <| s.live fun s =>
    match s.tu.current with
    | some c =>
      if c.phase = .running && c.timeLeft.isSome then
        (if c.complete then s.finishTest c else s.abortTest .noReadings)
      else s
    | none => s

/-- RETRY_TIMER_EXPIRY (R155, R156). -/
def execRetryTimerExpiry (i : FaultId) (s : State) : Host.Outcome State Fault Refusal :=
  .next <| s.live fun s =>
    if (s.faultRec i).state = .retryWait && (s.faultRec i).retry.isSome then s.retryExpired i else s

/-- SPACING_TIMER_EXPIRY (R163): another end-due record may have its report. -/
def execSpacingTimerExpiry (s : State) : Host.Outcome State Fault Refusal :=
  .next (s.live fun s => if s.fs.spacing.isSome then s.modFs fun x => { x with spacing := none } else s)

end Sys2Proof.Machine
end

