-- ==== Sys2Proof/Machine/Time.lean ====
section
/-!
DEFINITION. One millisecond of the part's time base (00_scope.md, "Timer units"): every running timer counts down to 0
and stays there until its expiry is taken, and the uptime counts (R138, R180). It is what a step does when no command
waits (log 2).
-/

namespace Sys2Proof.Machine

/-- A running timer counts down and stays at 0; a stopped one stays stopped. -/
def Timer.pass (t : Timer) : Timer := t.map fun n => n - 1

def LE.passMs (x : LE) : LE :=
  { x with
    phaseTimer := Timer.pass x.phaseTimer
    backoff := Timer.pass x.backoff
    pending := x.pending.map fun p => { p with timer := Timer.pass p.timer }
    farEnd := x.farEnd.map fun f => { f with timer := f.timer - 1 } }

def FT.passMs (x : FT) : FT := { x with retry := Timer.pass x.retry }

def SS.passMs (x : SS) : SS :=
  { x with txs := x.txs.map fun t => { t with timeLeft := Timer.pass t.timeLeft } }

/-- The timers of a port and its local tone (R91); a make is held over POLARITY_SWAP (R81). -/
def PP.passTimers (x : PP) : PP :=
  { x with
    toneMs := x.toneNext
    swapTimer := Timer.pass x.swapTimer
    cadence := x.cadence.map fun k => { k with timeLeft := k.timeLeft - 1 }
    detect := { x.detect with make := if x.feed = .polaritySwap then x.detect.make else Timer.pass x.detect.make } }

def CallRec.passMs (x : CallRec) : CallRec :=
  { x with
    admission := Timer.pass x.admission
    decision := Timer.pass x.decision
    alert := Timer.pass x.alert }

def CC.passMs (x : CC) : CC :=
  { x with
    recs := ⟨x.recs.a.passMs, x.recs.b.passMs⟩
    grace := Timer.pass x.grace
    holdOff := Timer.pass x.holdOff }

def LossMsg.pass : LossMsg → LossMsg
  | .waiting n => .waiting (n - 1)
  | m => m

def SUP.passMs (x : SUP) : SUP :=
  { x with
    mains := Timer.pass x.mains
    recovery := Timer.pass x.recovery
    cutoff := Timer.pass x.cutoff
    lowBattery := Timer.pass x.lowBattery
    batteryGood := Timer.pass x.batteryGood
    loss := x.loss.pass }

def TU.passMs (x : TU) : TU :=
  { x with current := x.current.map fun c => { c with timeLeft := Timer.pass c.timeLeft, arm := Timer.pass c.arm } }

def FaultRec.passMs (x : FaultRec) : FaultRec := { x with retry := Timer.pass x.retry }

def FS.passMs (x : FS) : FS :=
  { x with
    recs := allFaults.foldl (fun t i => t.set i (t.get i).passMs) x.recs
    spacing := Timer.pass x.spacing }

/-- R169: the whole bytes that the select periods of one millisecond carry; a part-byte at the end of a period is sent
again whole in the next. -/
def wholeBytes (clocks : List Nat) : Nat := (clocks.map fun c => c / 8).sum

/-- The bytes of the frame in progress go out as the host clocks them; the last check byte is FRAME_SENT's. -/
def PLK.passMs (k : PLK) (clocks : List Nat) : PLK :=
  { k with frame := k.frame.map fun f => { f with sent := min (f.bytes.length - 1) (f.sent + wholeBytes clocks) } }

/-- The uptime counts through dormancy too (R138). -/
def State.passUptime (s : State) : State :=
  if 999 ≤ s.uptimeMs then { s with uptimeMs := 0, uptime := s.uptime + 1 } else { s with uptimeMs := s.uptimeMs + 1 }

/-- One millisecond in which no command arrives. While RESETn is held low the part does nothing (R180). -/
def State.tick (s : State) : State :=
  if s.resetLow then s
  else if s.dormant then s.passUptime
  else
    { s.passUptime with
      le := s.le.passMs, ft := s.ft.passMs, ss := s.ss.passMs
      ports := ⟨s.ports.a.passTimers, s.ports.b.passTimers⟩
      cc := s.cc.passMs, sup := s.sup.passMs, tu := s.tu.passMs, fs := s.fs.passMs
      plk := s.plk.passMs (Config.selectClocks (1000 * s.uptime.toNat + s.uptimeMs)) }

end Sys2Proof.Machine
end

