-- ==== Sys2Proof/Machine/Dispatch.lean ====
section
/-!
DEFINITION. What every command does: one arm per row of spec/opcode_table.json, in the table's order.
-/

namespace Sys2Proof.Machine

/-- The effect of one command on the machine, by the rules of spec/. -/
def exec (i : Instr) (s : State) : Host.Outcome State Fault Refusal :=
  match i with
  | .powerOnReset strap => Sys2Proof.Machine.execPowerOnReset strap s
  | .pinReset strap => Sys2Proof.Machine.execPinReset strap s
  | .wake strap => Sys2Proof.Machine.execWake strap s
  | .settingsLoadEnd => Sys2Proof.Machine.execSettingsLoadEnd s
  | .requestFrame tag body => Sys2Proof.Machine.execRequestFrame tag body s
  | .dataUp tag body => Sys2Proof.Machine.execDataUp tag body s
  | .frameError stream => Sys2Proof.Machine.execFrameError stream s
  | .frameSent => Sys2Proof.Machine.execFrameSent s
  | .unknownRequest => Sys2Proof.Machine.execUnknownRequest s
  | .lineStatus => Sys2Proof.Machine.execLineStatus s
  | .lineConfigure linkEnable margin upshift => Sys2Proof.Machine.execLineConfigure linkEnable margin upshift s
  | .restartLine => Sys2Proof.Machine.execRestartLine s
  | .restartPorts => Sys2Proof.Machine.execRestartPorts s
  | .lineTableRead dir table => Sys2Proof.Machine.execLineTableRead dir table s
  | .toneMask action ranges => Sys2Proof.Machine.execToneMask action ranges s
  | .gateConfigure hit width impulse agreement => Sys2Proof.Machine.execGateConfigure hit width impulse agreement s
  | .gateStatus clear => Sys2Proof.Machine.execGateStatus clear s
  | .scheduleConfigure ratio => Sys2Proof.Machine.execScheduleConfigure ratio s
  | .scheduleStatus clear => Sys2Proof.Machine.execScheduleStatus clear s
  | .portConfigure port enable limit threshold freq fence lifeline reverse intercom => Sys2Proof.Machine.execPortConfigure port enable limit threshold freq fence lifeline reverse intercom s
  | .cadenceSet cadence pairs => Sys2Proof.Machine.execCadenceSet cadence pairs s
  | .portStatus port clear => Sys2Proof.Machine.execPortStatus port clear s
  | .ringPlan port plan => Sys2Proof.Machine.execRingPlan port plan s
  | .intercom port => Sys2Proof.Machine.execIntercom port s
  | .custodyClaim => Sys2Proof.Machine.execCustodyClaim s
  | .custodyRelease => Sys2Proof.Machine.execCustodyRelease s
  | .callStatus => Sys2Proof.Machine.execCallStatus s
  | .digitsRead port => Sys2Proof.Machine.execDigitsRead port s
  | .snapshot kind => Sys2Proof.Machine.execSnapshot kind s
  | .measureConfigure rate enables kind => Sys2Proof.Machine.execMeasureConfigure rate enables kind s
  | .measureRead => Sys2Proof.Machine.execMeasureRead s
  | .supplyConfigure threshold cutoff ren => Sys2Proof.Machine.execSupplyConfigure threshold cutoff ren s
  | .supplyStatus => Sys2Proof.Machine.execSupplyStatus s
  | .testStart kind target => Sys2Proof.Machine.execTestStart kind target s
  | .testAbort => Sys2Proof.Machine.execTestAbort s
  | .testRead => Sys2Proof.Machine.execTestRead s
  | .faultPolicy record policy level pin notice beacon foreign leakage => Sys2Proof.Machine.execFaultPolicy record policy level pin notice beacon foreign leakage s
  | .faultClear sel => Sys2Proof.Machine.execFaultClear sel s
  | .faultRead record => Sys2Proof.Machine.execFaultRead record s
  | .faultHistory count start => Sys2Proof.Machine.execFaultHistory count start s
  | .settingsSave => Sys2Proof.Machine.execSettingsSave s
  | .settingsSaveWriteEnd => Sys2Proof.Machine.execSettingsSaveWriteEnd s
  | .settingsDefaults => Sys2Proof.Machine.execSettingsDefaults s
  | .identityRead => Sys2Proof.Machine.execIdentityRead s
  | .identityWrite serial ident => Sys2Proof.Machine.execIdentityWrite serial ident s
  | .calibrate channel gain offset => Sys2Proof.Machine.execCalibrate channel gain offset s
  | .regionWriteEnd => Sys2Proof.Machine.execRegionWriteEnd s
  | .quietTimerExpiry => Sys2Proof.Machine.execQuietTimerExpiry s
  | .startReply => Sys2Proof.Machine.execStartReply s
  | .refusal => Sys2Proof.Machine.execRefusal s
  | .handshakeTimeout => Sys2Proof.Machine.execHandshakeTimeout s
  | .probeEnd => Sys2Proof.Machine.execProbeEnd s
  | .upstreamTable tones => Sys2Proof.Machine.execUpstreamTable tones s
  | .confirmation scheduleAccepted => Sys2Proof.Machine.execConfirmation scheduleAccepted s
  | .exchangeTimeout => Sys2Proof.Machine.execExchangeTimeout s
  | .backOffExpiry => Sys2Proof.Machine.execBackOffExpiry s
  | .symbolReceived sym => Sys2Proof.Machine.execSymbolReceived sym s
  | .windowMissed => Sys2Proof.Machine.execWindowMissed s
  | .syncFailureLoss => Sys2Proof.Machine.execSyncFailureLoss s
  | .lowPowerLoss => Sys2Proof.Machine.execLowPowerLoss s
  | .retrain number length body => Sys2Proof.Machine.execRetrain number length body s
  | .retrainTimeout => Sys2Proof.Machine.execRetrainTimeout s
  | .profileTimerExpiry => Sys2Proof.Machine.execProfileTimerExpiry s
  | .evaluation => Sys2Proof.Machine.execEvaluation s
  | .swapApply => Sys2Proof.Machine.execSwapApply s
  | .rateApply => Sys2Proof.Machine.execRateApply s
  | .upTableApply => Sys2Proof.Machine.execUpTableApply s
  | .codingApply port => Sys2Proof.Machine.execCodingApply port s
  | .upstreamSuperframe audioA audioB => Sys2Proof.Machine.execUpstreamSuperframe audioA audioB s
  | .downstreamSuperframe payload => Sys2Proof.Machine.execDownstreamSuperframe payload s
  | .unknownTypeMessage type number length body => Sys2Proof.Machine.execUnknownTypeMessage type number length body s
  | .ack number length body => Sys2Proof.Machine.execAck number length body s
  | .nak number length body => Sys2Proof.Machine.execNak number length body s
  | .transactionTimeout number => Sys2Proof.Machine.execTransactionTimeout number s
  | .upTable number length body => Sys2Proof.Machine.execUpTable number length body s
  | .alert number length body => Sys2Proof.Machine.execAlert number length body s
  | .clear number length body => Sys2Proof.Machine.execClear number length body s
  | .answered number length body => Sys2Proof.Machine.execAnswered number length body s
  | .testReq number length body => Sys2Proof.Machine.execTestReq number length body s
  | .beaconClear number length body => Sys2Proof.Machine.execBeaconClear number length body s
  | .agreementInForce => Sys2Proof.Machine.execAgreementInForce s
  | .replacementInForce => Sys2Proof.Machine.execReplacementInForce s
  | .agreementEnd => Sys2Proof.Machine.execAgreementEnd s
  | .gateRetryExpiry => Sys2Proof.Machine.execGateRetryExpiry s
  | .impulseSecondClose => Sys2Proof.Machine.execImpulseSecondClose s
  | .hookSample port loop ring => Sys2Proof.Machine.execHookSample port loop ring s
  | .offHook port => Sys2Proof.Machine.execOffHook port s
  | .onHook port => Sys2Proof.Machine.execOnHook port s
  | .ringTrip port => Sys2Proof.Machine.execRingTrip port s
  | .offHookOnTest port => Sys2Proof.Machine.execOffHookOnTest port s
  | .pulseTrainEnd port => Sys2Proof.Machine.execPulseTrainEnd port s
  | .toneDigit port digit => Sys2Proof.Machine.execToneDigit port digit s
  | .toneAbsenceEnd port => Sys2Proof.Machine.execToneAbsenceEnd port s
  | .polaritySwapEnd port => Sys2Proof.Machine.execPolaritySwapEnd port s
  | .cadencePhaseEnd port => Sys2Proof.Machine.execCadencePhaseEnd port s
  | .feedOvercurrent port => Sys2Proof.Machine.execFeedOvercurrent port s
  | .ringOverload port => Sys2Proof.Machine.execRingOverload port s
  | .admissionWaitExpiry port => Sys2Proof.Machine.execAdmissionWaitExpiry port s
  | .holdOffExpiry => Sys2Proof.Machine.execHoldOffExpiry s
  | .decisionTimerExpiry port => Sys2Proof.Machine.execDecisionTimerExpiry port s
  | .alertTimerExpiry port => Sys2Proof.Machine.execAlertTimerExpiry port s
  | .graceTimerExpiry => Sys2Proof.Machine.execGraceTimerExpiry s
  | .sweepPeriodStart samples => Sys2Proof.Machine.execSweepPeriodStart samples s
  | .sweepEnd => Sys2Proof.Machine.execSweepEnd s
  | .mainsTimerExpiry => Sys2Proof.Machine.execMainsTimerExpiry s
  | .recoveryTimerExpiry => Sys2Proof.Machine.execRecoveryTimerExpiry s
  | .cutoffTimerExpiry => Sys2Proof.Machine.execCutoffTimerExpiry s
  | .lowBatteryTimerExpiry => Sys2Proof.Machine.execLowBatteryTimerExpiry s
  | .batteryGoodTimerExpiry => Sys2Proof.Machine.execBatteryGoodTimerExpiry s
  | .lossMessageTimeout => Sys2Proof.Machine.execLossMessageTimeout s
  | .armingTimeout => Sys2Proof.Machine.execArmingTimeout s
  | .testDurationEnd => Sys2Proof.Machine.execTestDurationEnd s
  | .retryTimerExpiry record => Sys2Proof.Machine.execRetryTimerExpiry record s
  | .spacingTimerExpiry => Sys2Proof.Machine.execSpacingTimerExpiry s

end Sys2Proof.Machine
end

