-- ==== Sys2Proof/Safety.lean ====
section
/-!
DEFINITION. The terms in which claims about the LT-20 are stated: what the host has asked and what a reply leaves, which
fault records a clear takes and what it leaves of them, how a TRAIN_FAIL condition ends, what a capacity evaluation does
to the calls, and what a safe run keeps: the limits of its lists (R56, R88, R160, R169), the laws of host power and the
processor link (R136, R176), the laws of the hold sets (R2, R78), the outbound queue and the transaction list (R56,
R69), the reassembly pool (R65), the pending notices (R175) and the voice channels of the two calls apart (R99).
-/

namespace Sys2Proof.Machine

/-! ## Requests and replies -/

/-- The body of the oldest unanswered request, while it is not yet under execution (R171). -/
def State.asked (s : State) : Option (List Byte) :=
  s.plk.front.bind fun e => if e.executing then none else some e.body

/-- A part that is not dormant, whose oldest unanswered request has the body given. -/
abbrev State.asks (s : State) (body : List Byte) : Prop := s.dormant = false ∧ s.asked = some body

/-- The state with a reply formed for the oldest unanswered request: the request code, the result code and the result
fields, in the next place of the order of forming (R168, R171). Nothing else differs. -/
def State.replied (s : State) (code : Byte) (result : Code) (fields : List Byte) : State :=
  { s with plk := { s.plk with
      requests := attachTo { order := s.plk.nextOrder, body := code :: result.byte :: fields } s.plk.requests
      nextOrder := s.plk.nextOrder + 1 } }

/-! ## Fault records -/

/-- A record that FAULT_CLEAR clears: RECOVERED, or LATCHED with its condition absent (R166). -/
abbrev FaultRec.clearable (r : FaultRec) : Prop := r.state = .recovered ∨ (r.state = .latched ∧ r.condition = false)

/-- The record once CLEAR: no run policy and no retry timer, times, count, value and flags cleared (R154, R166). Its
condition stands as reported. -/
def FaultRec.cleared (r : FaultRec) : FaultRec :=
  { state := .clear, run := none, condition := r.condition, retry := none, firstSeen := none, lastSeen := none, count := 0
    value := none, silenced := false, owed := false }

/-- The protective action of a record stands lifted (R158): LATCHED leaves the line hold set when neither LINK_LOSS nor
TRAIN_FAIL remains in LATCHED. -/
def State.lifted (v : State) (i : FaultId) : Prop :=
  match i with
  | .linkLoss | .trainFail =>
    (v.faultRec .linkLoss).state ≠ .latched → (v.faultRec .trainFail).state ≠ .latched → v.le.hold.latched = false
  | .foreignVoltage => v.le.hold.foreign = false
  | .thermalShutdown => v.le.hold.thermal = false ∧ ∀ p, (v.port p).hold.thermal = false
  | .feedOvercurrentA => v.ports.a.hold.fault = false
  | .feedOvercurrentB => v.ports.b.hold.fault = false
  | .ringOverloadA => v.ports.a.ringInhibit = false
  | .ringOverloadB => v.ports.b.ringInhibit = false
  | .thermalWarn => v.le.thermalTrim = false
  | .linkProtocol | .impulseNoise | .leakage | .voiceCapacityA | .voiceCapacityB | .batteryFault
  | .settingsCorrupt => True

/-- The TRAIN_FAIL condition of `s` has been reported absent (R11, R155): a record ACTIVE with a retry policy waits to
retry, one ACTIVE without is RECOVERED with its entry, any other keeps its state; a condition that was absent is no
change. -/
abbrev State.trainFailEnded (s u : State) : Prop :=
  ∀ r, r = s.faultRec .trainFail →
    (r.condition = false → u.faultRec .trainFail = r)
    ∧ (r.condition = true → r.state ≠ .active → u.faultRec .trainFail = { r with condition := false })
    ∧ (r.condition = true → r.state = .active → r.run = some .retryFast ∨ r.run = some .retrySlow →
      u.faultRec .trainFail = { r with
        condition := false, state := .retryWait, retry := some (if r.run = some .retryFast then 500 else 5000) })
    ∧ (r.condition = true → r.state = .active → r.run ≠ some .retryFast → r.run ≠ some .retrySlow →
      u.faultRec .trainFail = { r with condition := false, state := .recovered, run := none, retry := none }
      ∧ ∃ e ∈ u.fs.history, e.record = .trainFail ∧ e.uptime = s.uptime ∧ e.transition = .recovered)

/-! ## The capacity evaluation (R100 to R102) -/

/-- A requirement in bytes fits P_min of both directions as last handed over; the boundary fits (R100). -/
def State.fits (u : State) (n : Nat) : Bool := decide (n ≤ u.cc.pDown ∧ n ≤ u.cc.pUp)

/-- A call that carries a voice slot (R99). -/
def CallRec.slot (r : CallRec) : Bool :=
  r.state == .dialling || r.state == .connected || (r.state == .alertingIn && r.admission == none)

/-- The voice bytes of an admitted call: 80 at FULL, else 40, as with a downgrade in flight (R100). -/
def CallRec.ownBytes (r : CallRec) : Nat := if r.coding = some .full ∧ r.downgrade = none then 80 else 40

/-- What a record counts in R: its bytes while it is an admitted call, in the admission wait too, and in CLEARING while
its SEIZE is outstanding (R100). -/
def CallRec.bytesInR (r : CallRec) : Nat :=
  match r.state with
  | .seizing | .dialling | .connected | .alertingIn => r.ownBytes
  | .clearing => if r.txs.seize then r.ownBytes else 0
  | _ => 0

/-- A call newer than that of the other port, by R102: the later connect time, by the difference of R35; without one
before one with it; of two without, the later admitted; of two alike port A's (log 55). -/
def State.newerCall (s : State) (p : Port) : Bool :=
  match (s.call p).connect, (s.call p.other).connect with
  | some x, some y => if p = .a then !ahead y x else ahead x y
  | none, some _ => true
  | some _, none => false
  | none, none => decide ((s.call p.other).order < (s.call p).order)
      || (p == .a && (s.call .a).order == (s.call .b).order)

/-- The calls of `s` whose downgrade an evaluation asks for, with the profile and P_min of `u` (R102, steps 1 and 2). In
LIFELINE each that carries a slot at FULL with no downgrade in flight; otherwise, while R does not fit, the newest of
them, then the other. -/
def State.askedDown (s u : State) (p : Port) : Bool :=
  let full := fun q => (s.call q).slot && (s.call q).ownBytes == 80
  let r := 64 + (s.call p).bytesInR + (s.call p.other).bytesInR
  full p && (u.effProfile == .lifeline
    || (!u.fits r && (!full p.other || s.newerCall p || !u.fits (r - 40))))

/-- What a record counts once the downgrades are asked for. -/
def State.bytesAsked (s u : State) (p : Port) : Nat := if s.askedDown u p then 40 else (s.call p).bytesInR

/-- What a record counts once it is released: nothing, unless its SEIZE is outstanding (R100). -/
def CallRec.bytesLeft (r : CallRec) : Nat := if r.txs.seize then (if r.coding = some .full then 80 else 40) else 0

/-- The calls of `s` that an evaluation releases (R102, step 3): while R does not fit after the downgrades, the newest
that carries a slot, then the other. -/
def State.releasedForRoom (s u : State) (p : Port) : Bool :=
  (s.call p).slot && !u.fits (64 + s.bytesAsked u p + s.bytesAsked u p.other)
    && (!(s.call p.other).slot || s.newerCall p
      || !u.fits (64 + s.bytesAsked u p + (s.call p.other).bytesLeft))

/-- What a record counts at the end of the evaluation's three steps. -/
def State.bytesAfter (s u : State) (p : Port) : Nat :=
  if s.releasedForRoom u p then (s.call p).bytesLeft else s.bytesAsked u p

/-- The waiting calls that an evaluation admits at REDUCED (R101): the one whose wait began first is tested first,
without the other, and the other then with it (log 20). -/
def State.admittedToRoom (s u : State) (p : Port) : Bool :=
  let waits := fun q => (s.call q).admission.isSome && !s.releasedForRoom u q
  let first := !waits p.other || (if p = .a then decide ((s.call .a).order ≤ (s.call .b).order)
    else decide ((s.call .b).order < (s.call .a).order))
  waits p && ((s.call p).state == .seizing || (s.call p).state == .alertingIn)
    && u.fits (104 + (if first then (if waits p.other then 0 else s.bytesAfter u p.other)
      else if (s.call p.other).state = .seizing ∨ (s.call p.other).state = .alertingIn then 40 else 0))

/-- The transactions requested and not ended, those granted first. -/
def State.requested (s : State) : List TxReq := s.ss.txs.map (·.req) ++ s.ss.waiting

/-- The request for a call's downgrade, for its release with cause CAPACITY, and for its SEIZE at REDUCED (R102, R103,
R106). -/
def State.capacityRequest (s : State) (k : TxKind) (p : Port) : TxReq :=
  { kind := k, port := some p, tag := (s.call p).serial
    body := match k with
      | .coding => wPort p ++ w8 ((s.call p).channel.getD 0) ++ [1]
      | .release => wPort p ++ w8 ((s.call p).channel.getD 0) ++ [3]
      | _ => wPort p ++ [1] }

/-- What the evaluation of R102, with the retest of R101 that follows it, leaves of the calls of `s`: each call's record,
the bell of a call released, the VOICE_CAPACITY records, and the R last taken. -/
abbrev State.callsEvaluated (s u : State) : Prop :=
  (∀ p r, r = s.call p →
    (s.releasedForRoom u p = true →
      u.call p = { r with
        state := .clearing, cause := .capacity, sub := none, admission := none, decision := none, alert := none
        downgrade := none, txs := { r.txs with release := true, coding := r.txs.coding || s.askedDown u p } }
      ∧ (u.port p).ringRequest = none)
    ∧ (s.releasedForRoom u p = false → s.askedDown u p = true →
      u.call p = { r with downgrade := some { seff := none }, txs := { r.txs with coding := true } })
    ∧ (s.admittedToRoom u p = true → ∃ k, u.call p = { r with
        admission := none, order := k, coding := some .reduced
        txs := if r.state = .seizing then { r.txs with seize := true } else r.txs
        channel := if r.state = .seizing then r.channel else r.alertChannel
        alertNumber := if r.state = .seizing then r.alertNumber else none
        alertChannel := if r.state = .seizing then r.alertChannel else none
        alert := if r.state = .seizing then r.alert else some 120000
        sub := if r.state = .seizing then r.sub
          else if u.cc.custody = .part then some .ringingPlan else some .decisionWanted
        plan := if r.state = .alertingIn ∧ u.cc.custody = .part
          then some (.ring (if u.sup.mode = .reserve then 2 else 0)) else r.plan
        decision := if r.state = .seizing then r.decision else if u.cc.custody = .part then none else some 2000 })
    ∧ (s.releasedForRoom u p = false → s.askedDown u p = false → s.admittedToRoom u p = false → u.call p = r)
    ∧ (s.releasedForRoom u p = false →
      u.faultRec (FaultId.voiceCapacity p) = s.faultRec (FaultId.voiceCapacity p))
    ∧ (s.releasedForRoom u p = true → (s.faultSetting (FaultId.voiceCapacity p)).policy = .silent →
      (s.faultRec (FaultId.voiceCapacity p)).state = .clear ∨ (s.faultRec (FaultId.voiceCapacity p)).state = .recovered →
      u.faultRec (FaultId.voiceCapacity p) = s.faultRec (FaultId.voiceCapacity p))
    ∧ ∀ q, q = s.faultRec (FaultId.voiceCapacity p) → s.releasedForRoom u p = true →
      (s.faultSetting (FaultId.voiceCapacity p)).policy = .report → q.state = .clear ∨ q.state = .recovered →
      u.faultRec (FaultId.voiceCapacity p) = { q with
        state := .recovered, run := none, retry := none, count := min 255 (q.count + 1)
        firstSeen := q.firstSeen <|> some s.uptime, lastSeen := some s.uptime }
      ∧ ∃ e ∈ u.fs.history, e.record = FaultId.voiceCapacity p ∧ e.uptime = s.uptime ∧ e.transition = .raised)
  ∧ u.cc.lastR = 64 + s.bytesAfter u .a + s.bytesAfter u .b

/-- What a hand-over of P_min leaves of the calls (R30, R102): their records, and the transactions it requests, which are
those and no other. -/
abbrev State.capacityTaken (s u : State) : Prop :=
  s.callsEvaluated u
  ∧ ∃ new, u.requested = s.requested ++ new ∧ new.Nodup ∧ ∀ q : TxReq, q ∈ new ↔ ∃ p,
      (s.askedDown u p = true ∧ q = s.capacityRequest .coding p)
      ∨ (s.releasedForRoom u p = true ∧ q = s.capacityRequest .release p)
      ∨ (s.admittedToRoom u p = true ∧ (s.call p).state = .seizing ∧ q = s.capacityRequest .seize p)

/-! ## Safe runs -/

/-- The lists stay within the room the spec gives them: history 32, request queue 4, busy-answer list 4, transaction
list 8, upstream cell queue 128, digit lists 32 (R56, R61, R77, R88, R160, R169). -/
abbrev State.bounded (s : State) : Prop :=
  s.fs.history.length ≤ 32 ∧ s.plk.requests.length ≤ 4 ∧ s.plk.busy.length ≤ 4 ∧ s.ss.txs.length ≤ 8
    ∧ s.ss.upQueue.length ≤ 128 ∧ s.ports.a.digits.length ≤ 32 ∧ s.ports.b.digits.length ≤ 32

/-- Host power (R136): PROC_PWR_EN is asserted exactly in MAINS, in BATTERY, and in RESERVE until custody is PART; and
with it deasserted custody is PART. -/
abbrev State.hostPowered (s : State) : Prop :=
  (s.sup.procPwr = true ↔
    s.sup.mode = .mains ∨ s.sup.mode = .battery ∨ (s.sup.mode = .reserve ∧ s.cc.custody ≠ .part))
  ∧ (s.sup.procPwr = false → s.cc.custody = .part)

/-- The channels a call record holds: its own, and the one an admission wait keeps (R99, R108; log 22). -/
def CallRec.channels (r : CallRec) : List Nat := r.channel.toList ++ r.alertChannel.toList

/-- No voice channel is held by both call records (R99). -/
abbrev State.channelsApart (s : State) : Prop := ∀ c ∈ s.cc.recs.a.channels, c ∉ s.cc.recs.b.channels

/-- The law of the line hold set (R2, R3): with a member held the link is in TEST_HOLD where TEST is the sole member and
in IDLE otherwise; with none it is in a state whose driver runs. -/
abbrev LE.held (x : LE) : Prop :=
  (x.hold.isEmpty = false → x.link = x.hold.state) ∧ (x.hold.isEmpty = true → x.link.driverOn = true)

/-- The law of a port's hold set (R78, R79): with a member held the feed is in the held state the set requires; with
none it is in one of the six service states. -/
abbrev PP.held (x : PP) : Prop :=
  (x.hold.isEmpty = false → x.feed = x.hold.feed) ∧ (x.hold.isEmpty = true → x.feed.inService = true)

/-- The transaction number of a queued send none of whose cells has been placed (R69). -/
def OutMsg.unsent (m : OutMsg) : Option Nat :=
  match m.who with
  | .send n => if m.started then none else some n
  | _ => none

/-- The transaction list and the outbound queue (R56, R69): numbers are 0 to 15 and no two entries share one; answers
and unanswered messages hold at most 24 places; only the head message may be part-sent; and a transaction has at most
one unsent send in the queue, whose time left is then absent. -/
abbrev SS.queueLaw (x : SS) : Prop :=
  (∀ t ∈ x.txs, t.number < 16) ∧ (x.txs.map (·.number)).Nodup
  ∧ (x.outQueue.filter fun m => !m.isSend).length ≤ 24
  ∧ (∀ m ∈ x.outQueue.tail, m.started = false)
  ∧ (x.outQueue.filterMap OutMsg.unsent).Nodup
  ∧ (∀ n ∈ x.outQueue.filterMap OutMsg.unsent, ∃ t ∈ x.txs, t.number = n ∧ t.timeLeft = none)

/-- The downstream reassembly pool (R65): at most 64 cells, each of the partial unit's carrying at most 60 bytes. -/
abbrev State.poolLaw (s : State) : Prop :=
  s.poolUsed ≤ 64 ∧ ∀ p ∈ s.ss.dataPartial.toList, p.bytes.length ≤ 60 * p.cells

/-- The processor link is open exactly while PROC_PWR_EN is asserted; while it is closed its lists and the host's data
path are empty, with the flow state XON (R66, R176). -/
abbrev State.linkLaw (s : State) : Prop :=
  s.plk.isOpen = s.sup.procPwr
  ∧ (s.plk.isOpen = false →
      s.plk.rx = .hunt ∧ s.plk.rxBytes = [] ∧ s.plk.requests = [] ∧ s.plk.busy = [] ∧ s.plk.notices = []
      ∧ s.plk.dataDown = [] ∧ s.plk.frame = none ∧ s.ss.upQueue = [] ∧ s.ss.xon = true ∧ s.ss.dataPartial = none)

/-- What every step keeps. The 33 places of the outbound queue are log 52's reading of R69. -/
abbrev State.safe (s : State) : Prop :=
  s.bounded ∧ s.hostPowered ∧ s.channelsApart
  ∧ s.le.held ∧ s.ports.a.held ∧ s.ports.b.held
  ∧ s.ss.queueLaw ∧ s.ss.outQueue.length ≤ 33
  ∧ s.poolLaw ∧ s.plk.notices.Nodup ∧ s.linkLaw

end Sys2Proof.Machine
end

