-- ==== Sys2Proof/Certificates/Slice0/Obligations.lean ====
section
/-!
DEFINITION. The statements about the LT-20. A statement about a command gives the state `u` the command leaves and says
that `exec` answers `.next u.settle`: `State.settle` is the end of every step, where the standing laws are applied (log
6); StepEndFrame says what it leaves alone. `State.asks body` says that the part is not dormant and that the oldest
unanswered request has the body; `State.replied` is a formed reply.
-/

section
open Sys2Proof Sys2Proof.Machine

/-! ## The machine's step -/

/-- A step takes the command at the front of the queue and is `exec` of it on the queue's rest. -/
def Obligations.StepRunsFront : Prop :=
  ∀ (c : Instr) (s : State), step { s with pending := c :: s.pending } = exec c s

/-- Every command and every step answers a next state; a command leaves the commands that wait, and a step takes one
of them, or none where none waits. -/
def Obligations.EveryStepCompletes : Prop :=
  (∀ (c : Instr) (s : State), ∃ t, exec c s = .next t ∧ t.pending = s.pending)
  ∧ ∀ s : State, ∃ t, step s = .next t ∧ t.pending = s.pending.tail

/-- What a run may rely on is kept by every step of every state: the limits of the lists (R56, R61, R88, R160, R169),
host power (R136) and the processor link with it (R66, R176), the hold sets of the line and the ports (R2, R3, R78,
R79), the outbound queue and the transaction list (R56, R69; its 33rd place is log 52's reading), the reassembly pool
(R65), one pending notice a kind and source (R175), and the voice channels apart (R99; log 22). A step with no command
is one millisecond (log 2), and the laws stand at the end of a step (log 6). -/
def Obligations.EveryStepKeepsSafe : Prop :=
  ∀ s t : State, s.safe → step s = .next t → t.safe

/-- The state after a reset has what every step keeps (EveryStepKeepsSafe). -/
def Obligations.ResetIsSafe : Prop :=
  State.reset.safe

/-- A dormant part takes nothing but a start (R138): every other command, and the passing of a millisecond but for the
uptime, leaves it as it is. That a step without a command is a millisecond is the model's choice (log 2), and the mark
of dormancy is the model's own field (log 29). While RESETn is held low (R180, log 30) not even the uptime counts. -/
def Obligations.DormantWaits : Prop :=
  ∀ s : State, s.dormant = true →
    (∀ c : Instr, (∀ strap, c ≠ .powerOnReset strap ∧ c ≠ .pinReset strap ∧ c ≠ .wake strap) → exec c s = .next s)
    ∧ (s.resetLow = false → s.pending = [] → s.uptimeMs < 999 →
        step s = .next { s with uptimeMs := s.uptimeMs + 1 })
    ∧ (s.resetLow = false → s.pending = [] → 999 ≤ s.uptimeMs →
        step s = .next { s with uptimeMs := 0, uptime := s.uptime + 1 })
    ∧ (s.resetLow = true → (s.pending = [] → step s = .next s) ∧ ∀ strap, exec (.wake strap) s = .next s)

/-- THE MODEL'S CHOICE (log 2): with no command waiting a step is one millisecond: running timers come down by 1 and
stay at 0 until their expiry is taken, local tones and the frame in progress go on, the uptime counts, and nothing
else of the part changes. The make of a pulse train is held over POLARITY_SWAP (R81, log 17); the bytes sent follow
the clocks of the host's select periods, a free value (R169, log 18). What a handset hears (R91) is nothing outside
ACTIVE and REVERSED; there, the far end, the other port, or 450 Hz in the on time of the local tone. The byte sent
next is the frame's, or fill of 0x00 (R169). -/
def Obligations.IdleMillisecond : Prop :=
  (∀ s : State, s.dormant = false → s.resetLow = false → s.pending = [] →
    ∃ (ports : PerPort PP) (recs : PerFault FaultRec) (frame : Option Frame) (up : BitVec 32) (ms : Nat),
      step s = .next
        { s with
          le := { s.le with
            phaseTimer := s.le.phaseTimer.map (· - 1), backoff := s.le.backoff.map (· - 1)
            pending := s.le.pending.map fun p => { p with timer := p.timer.map (· - 1) }
            farEnd := s.le.farEnd.map fun f => { f with timer := f.timer - 1 } }
          ft := { s.ft with retry := s.ft.retry.map (· - 1) }
          ss := { s.ss with txs := s.ss.txs.map fun x => { x with timeLeft := x.timeLeft.map (· - 1) } }
          ports := ports
          cc := { s.cc with
            recs :=
              { a := { s.cc.recs.a with
                  admission := s.cc.recs.a.admission.map (· - 1), decision := s.cc.recs.a.decision.map (· - 1)
                  alert := s.cc.recs.a.alert.map (· - 1) }
                b := { s.cc.recs.b with
                  admission := s.cc.recs.b.admission.map (· - 1), decision := s.cc.recs.b.decision.map (· - 1)
                  alert := s.cc.recs.b.alert.map (· - 1) } }
            grace := s.cc.grace.map (· - 1), holdOff := s.cc.holdOff.map (· - 1) }
          sup := { s.sup with
            mains := s.sup.mains.map (· - 1), recovery := s.sup.recovery.map (· - 1)
            cutoff := s.sup.cutoff.map (· - 1), lowBattery := s.sup.lowBattery.map (· - 1)
            batteryGood := s.sup.batteryGood.map (· - 1)
            loss := match s.sup.loss with
              | .waiting n => .waiting (n - 1)
              | x => x }
          tu := { s.tu with current := s.tu.current.map fun c =>
            { c with timeLeft := c.timeLeft.map (· - 1), arm := c.arm.map (· - 1) } }
          fs := { s.fs with recs := recs, spacing := s.fs.spacing.map (· - 1) }
          plk := { s.plk with frame := frame }
          uptime := up, uptimeMs := ms }
      ∧ (∀ i, recs.get i = { s.faultRec i with retry := (s.faultRec i).retry.map (· - 1) })
      ∧ (∀ p x, x = s.port p → ports.get p = { x with
          toneMs := if x.audio = .none ∧ (x.feed = .active ∨ x.feed = .reversed) ∧ x.tone ≠ .none then
              (x.toneMs + 1) % (match x.tone with
                | .none | .noService => 1
                | .congestion => 400
                | .busy => 800
                | .ringback => 5000)
            else x.toneMs
          swapTimer := x.swapTimer.map (· - 1)
          cadence := x.cadence.map fun k => { k with timeLeft := k.timeLeft - 1 }
          detect := { x.detect with
            make := if x.feed = .polaritySwap then x.detect.make else x.detect.make.map (· - 1) } })
      ∧ (s.plk.frame = none → frame = none)
      ∧ (∀ f, s.plk.frame = some f → frame = some { f with
          sent := min (f.bytes.length - 1)
            (f.sent + ((Config.selectClocks (1000 * s.uptime.toNat + s.uptimeMs)).map (· / 8)).sum) })
      ∧ (s.uptimeMs < 999 → up = s.uptime ∧ ms = s.uptimeMs + 1)
      ∧ (999 ≤ s.uptimeMs → up = s.uptime + 1 ∧ ms = 0))
  ∧ (∀ x : PP,
    (x.feed ≠ .active → x.feed ≠ .reversed → x.heard = .silence)
    ∧ (x.feed = .active ∨ x.feed = .reversed →
      (x.audio = .line → x.heard = .farEnd x.voice)
      ∧ (x.audio = .intercom → x.heard = .otherPort)
      ∧ (x.audio = .none →
        (x.tone = .none → x.heard = .silence)
        ∧ (x.tone = .noService → x.toneMs = 0 → x.heard = .hz450)
        ∧ (x.tone = .congestion → x.heard = if x.toneMs < 200 then .hz450 else .silence)
        ∧ (x.tone = .busy → x.heard = if x.toneMs < 400 then .hz450 else .silence)
        ∧ (x.tone = .ringback → x.heard = if x.toneMs < 1000 then .hz450 else .silence))))
  ∧ ∀ k : PLK, (k.frame = none → k.outByte = 0)
      ∧ ∀ f b, k.frame = some f → f.bytes[f.sent]? = some b → k.outByte = b

/-- THE FRAME OF A STEP'S END (log 6). Every other statement gives the state before `State.settle`, the laws that
stand at the end of a step. Those laws put the part to sleep where the wait for its loss message has ended, and
otherwise leave the settings, the stores, the time, the waiting commands, the supply mode and the measurement unit as
they are. While they do not take the link out of service they leave everything as it is but for what they are about
(StepEndLaws): the profile change and the need, the GATE requests and the end of the agreement, the DIGITs, custody
and the n reported, the owed marks and the end reports, the transactions these ask for, and the host's power. Where
host power stays, of the processor link only the frame in progress, the pending notices and the notice sequence move:
a frame begins only on an open link with none in progress, and a pending notice stays or is the one that begins (R173,
R175). -/
def Obligations.StepEndFrame : Prop :=
  ∀ s : State,
    (s.sup.loss = .ended → s.settle = s.sleep)
    ∧ (s.dormant = false → s.settle.dormant = false →
        s.settle.settings = s.settings ∧ s.settle.pending = s.pending ∧ s.settle.uptime = s.uptime
        ∧ s.settle.uptimeMs = s.uptimeMs ∧ s.settle.sup.mode = s.sup.mode
        ∧ s.settle.mu.accounts = s.mu.accounts ∧ s.settle.mu.readout = s.mu.readout
        ∧ s.settle.mu.active = s.mu.active ∧ s.settle.mu.pending = s.mu.pending
        ∧ s.settle.sts = { s.sts with startedRaised := s.settle.sts.startedRaised })
    ∧ (s.dormant = false → s.settle.dormant = false → s.settle.le.link = s.le.link →
        s.settle.le = { s.le with
          pending := s.settle.le.pending, changeInFlight := s.settle.le.changeInFlight
          needInFlight := s.settle.le.needInFlight }
        ∧ s.settle.tt = { s.tt with
          inFlight := s.settle.tt.inFlight, waitingRate := s.settle.tt.waitingRate
          lastResult := s.settle.tt.lastResult, needSent := s.settle.tt.needSent
          needProgress := s.settle.tt.needProgress }
        ∧ s.settle.ft = { s.ft with agreement := s.settle.ft.agreement, request := s.settle.ft.request }
        ∧ s.settle.ss = { s.ss with
          upQueue := s.settle.ss.upQueue, xon := s.settle.ss.xon, dataPartial := s.settle.ss.dataPartial
          outQueue := s.settle.ss.outQueue, mgmtSeq := s.settle.ss.mgmtSeq, txs := s.settle.ss.txs
          nextNumber := s.settle.ss.nextNumber, waiting := s.settle.ss.waiting, counts := s.settle.ss.counts }
        ∧ s.settle.ports = s.ports ∧ s.settle.mu = s.mu ∧ s.settle.tu = s.tu
        ∧ s.settle.cc = { s.cc with
          recs := s.settle.cc.recs, custody := s.settle.cc.custody, grace := s.settle.cc.grace
          nReported := s.settle.cc.nReported, holdOff := s.settle.cc.holdOff }
        ∧ (∀ p, s.settle.call p = { s.call p with
            txs := { (s.call p).txs with digit := (s.settle.call p).txs.digit }
            digitsUpTo := (s.settle.call p).digitsUpTo })
        ∧ s.settle.sup = { s.sup with procPwr := s.settle.sup.procPwr }
        ∧ s.settle.fs = { s.fs with
          recs := s.settle.fs.recs, endReport := s.settle.fs.endReport, endVoid := s.settle.fs.endVoid
          spacing := s.settle.fs.spacing }
        ∧ (∀ i, s.settle.faultRec i = { s.faultRec i with owed := (s.settle.faultRec i).owed })
        ∧ (s.settle.sup.procPwr = s.sup.procPwr →
          s.settle.plk = { s.plk with
            frame := s.settle.plk.frame, notices := s.settle.plk.notices, noticeSeq := s.settle.plk.noticeSeq }
          ∧ (s.plk.isOpen = false ∨ s.plk.frame ≠ none → s.settle.plk.frame = s.plk.frame)
          ∧ (s.plk.isOpen = false → s.settle.plk.notices = s.plk.notices)
          ∧ (s.plk.isOpen = true → ∀ n ∈ s.plk.notices,
              n ∈ s.settle.plk.notices ∨ ∃ f, s.settle.plk.frame = some f ∧ f.src = .notice n)))

/-- WHAT STANDS AT A STEP'S END (log 6), law by law, each where it is due and where it is not; where an entry of the
transaction list is free and none waits, the transaction is granted at once. The start of a profile change (R18, R34),
with its table below 30 bits a PROTOCOL loss; the lifeline need (R38); the last decision in RELEASING (R113); the n
reported (R101); the DIGIT of a talking call, but for a lone leading "*" in DIALLING (R105); GATE_CLEAR after a loss of
lock or with agreement enable OFF (R51) and GATE_SET (R48); the owed marks (R162) and the ENDED beacon (R163);
PROC_PWR_EN with what its return and its withdrawal do to the link, its lists and the scheduler's data path (R66, R136,
R176). When each is asked for, the schedule's place, and the order of a step's end are the model's (log 6, log 7), and
so are the 2 s that start at the grant (log 32), what a need's progress counts (log 23), a need that differs already
when LIFELINE or service is entered (log 84), a star held when the call connects (log 61), and the order STARTED,
SUPPLY, CUSTODY, FAULT (log 25). -/
def Obligations.StepEndLaws : Prop :=
  (∀ s : State, s.sup.loss ≠ .ended → s.laws.sup.loss ≠ .ended → s.settle = s.laws.arbiter)
  ∧ (∀ s : State, s.laws = ((((((s.profileLaw.lastDecision.reportN.needLaw).sendDigits .a).sendDigits
      .b).gateClearLaw.gateSetLaw).refreshOwed).endReports).hostPowerLaw)
  ∧ (∀ (s : State) (e now : Profile) (bits : List Nat), e = s.effProfile →
    now = (s.le.pending.map (·.profile)).getD s.le.inForce → bits = s.computeDown s.settings.line.requestedMask e →
    (s.le.link ≠ .inService ∨ s.le.changeInFlight = true ∨ e = now → s.profileLaw = s)
    ∧ (s.le.link = .inService → s.le.changeInFlight = false → e ≠ now → s.ss.waiting = [] → s.ss.txs.length < 8 →
      (s.tt.inFlight ≠ .none → s.profileLaw.tt = { s.tt with
          waitingRate := some .profile, needProgress := none
          needSent := if e = .lifeline then some s.need else s.tt.needSent })
      ∧ (s.tt.inFlight ≠ .none ∨ 30 ≤ bits.sum →
        s.profileLaw.le = { s.le with
          pending := some { profile := e, timer := some 2000 }, changeInFlight := true }
        ∧ (s.profileLaw.ss.txs.take (s.ss.txs.length + 1)).map (·.req) = s.ss.txs.map (·.req) ++
          [{ kind := .profile, port := none, tag := 1
             body := w8 (Profile.cap e) ++ beInt 1 (Profile.level e)
               ++ w8 (if e = .lifeline then s.need else Profile.upBudget e) }])
      ∧ (s.tt.inFlight = .none → 30 ≤ bits.sum →
        ∃ n, s.profileLaw.tt = { s.tt with
          inFlight := .rate ⟨bits, s.settings.line.requestedMask, Profile.level e, .profile⟩ n none
          needProgress := none, needSent := if e = .lifeline then some s.need else s.tt.needSent })
      ∧ (s.tt.inFlight = .none → bits.sum < 30 →
        s.profileLaw.le.lastLoss = .protocol ∧ s.profileLaw.le.link ≠ .inService)))
  ∧ (∀ (s : State) (bits : List Nat), bits = s.computeDown s.settings.line.requestedMask s.effProfile →
    (s.le.link ≠ .inService ∨ s.le.inForce ≠ .lifeline ∨ s.le.pending ≠ none ∨ s.le.changeInFlight = true
        ∨ s.le.needInFlight = true ∨ s.tt.needSent = some s.need → s.needLaw = s)
    ∧ (s.le.link = .inService → s.le.inForce = .lifeline → s.le.pending = none → s.le.changeInFlight = false →
        s.le.needInFlight = false → s.tt.needSent ≠ some s.need → s.ss.waiting = [] → s.ss.txs.length < 8 →
      s.needLaw.le = { s.le with needInFlight := true }
      ∧ s.needLaw.tt.needSent = some s.need
      ∧ s.needLaw.tt.needProgress = some { rate := false, up := false, old := s.tt.upWaiting }
      ∧ (s.tt.inFlight ≠ .none → s.needLaw.tt.waitingRate = some .need ∧ s.needLaw.tt.inFlight = s.tt.inFlight)
      ∧ (s.tt.inFlight = .none → 30 ≤ bits.sum → ∃ n, s.needLaw.tt.inFlight
          = .rate ⟨bits, s.settings.line.requestedMask, -6, .need⟩ n none)
      ∧ (s.tt.inFlight = .none → bits.sum < 30 → s.needLaw.tt.inFlight = .none ∧ s.needLaw.tt.lastResult = .floor)
      ∧ (s.needLaw.ss.txs.take (s.ss.txs.length + 1)).map (·.req) = s.ss.txs.map (·.req) ++
          [{ kind := .profile, port := none, tag := 0, body := w8 4 ++ beInt 1 (-6) ++ w8 s.need }]))
  ∧ (∀ s : State,
    (s.cc.custody = .releasing → (∀ p, (s.call p).sub ≠ some .decisionWanted) →
      s.lastDecision = State.raise { s with cc := { s.cc with custody := .part, grace := none } } .custody)
    ∧ (s.cc.custody ≠ .releasing ∨ (∃ p, (s.call p).sub = some .decisionWanted) → s.lastDecision = s)
    ∧ (s.cc.nReported < s.callCount →
      s.reportN = { s with cc := { s.cc with nReported := s.callCount, holdOff := none } })
    ∧ (s.callCount < s.cc.nReported → s.cc.holdOff = none →
      s.reportN = { s with cc := { s.cc with holdOff := some 10000 } })
    ∧ (s.cc.nReported = s.callCount ∨ (s.callCount < s.cc.nReported ∧ s.cc.holdOff ≠ none) → s.reportN = s))
  ∧ (∀ (s : State) (p : Port) (ds : List DigitEntry), ds = (s.port p).digits.filter (fun e => e.mark == .pending) →
    (((s.call p).state ≠ .dialling ∧ (s.call p).state ≠ .connected) ∨ (s.call p).txs.digit = true ∨ ds = []
        ∨ ((s.call p).state = .dialling ∧ ∃ m, (s.port p).digits = [⟨.star, m, .pending⟩]) →
      s.sendDigits p = s)
    ∧ ((s.call p).state = .dialling ∨ (s.call p).state = .connected → (s.call p).txs.digit = false → ds ≠ [] →
        ¬ ((s.call p).state = .dialling ∧ ∃ m, (s.port p).digits = [⟨.star, m, .pending⟩]) →
        s.le.link = .inService → s.ss.waiting = [] → s.ss.txs.length < 8 →
      (s.sendDigits p).call p = { s.call p with
          txs := { (s.call p).txs with digit := true }, digitsUpTo := (s.port p).digits.length }
      ∧ (s.sendDigits p).ss.txs.map (·.req) = s.ss.txs.map (·.req) ++
          [{ kind := .digit, port := some p, tag := (s.call p).serial
             body := wPort p ++ (w8 ((s.call p).channel.getD 0) ++ wList (fun e => wDigit e.digit) ds) }]
      ∧ (s.sendDigits p).ports = s.ports ∧ (s.sendDigits p).le = s.le))
  ∧ (∀ s : State,
    (s.le.link ≠ .inService ∨ s.ft.request ≠ .none → s.gateClearLaw = s ∧ s.gateSetLaw = s)
    ∧ (s.ft.agreement = none → s.gateClearLaw = s)
    ∧ (s.ft.tracking = .searching ∨ s.settings.gate.agreementEnable = false ∨ s.ft.agreement ≠ none
        ∨ s.ft.retry ≠ none → s.gateSetLaw = s)
    ∧ (∀ a, s.ft.agreement = some a →
      a.endSf ≠ none ∨ (s.ft.tracking = .locked ∧ s.settings.gate.agreementEnable = true) → s.gateClearLaw = s)
    ∧ (∀ a, s.ft.agreement = some a → s.le.link = .inService → s.ft.request = .none → a.endSf = none →
        s.ft.tracking = .searching ∨ s.settings.gate.agreementEnable = false → s.ss.waiting = [] →
        s.ss.txs.length < 8 →
      s.gateClearLaw.ft = { s.ft with
          request := .clear (s.le.sf + 64)
          agreement := some { a with
            endSf := some (s.le.sf + 64), repl := a.repl.filter fun c => ahead (s.le.sf + 64) c.anchor } }
      ∧ s.gateClearLaw.ss.txs.map (·.req) = s.ss.txs.map (·.req) ++
          [{ kind := .gateClear, port := none, tag := 0, body := wBV (s.le.sf + 64) }]
      ∧ s.gateClearLaw.le = s.le ∧ s.gateClearLaw.tt = s.tt)
    ∧ (∀ p n, s.ft.period = some p → s.ft.next = some n → s.le.link = .inService → s.ft.tracking = .locked →
        s.settings.gate.agreementEnable = true → s.ft.agreement = none → s.ft.request = .none → s.ft.retry = none →
        s.ss.waiting = [] → s.ss.txs.length < 8 →
      ∃ c : Sched, c.period = p ∧ c.width = s.settings.gate.windowWidth
        ∧ c.origin = firstWindowFrom (n - 1) p (s.le.sfStart + 2560)
        ∧ c.anchor = s.le.sf + BitVec.ofNat 32 ((dist c.origin s.le.sfStart).toNat / 40)
        ∧ c.offset = (dist c.origin s.le.sfStart).toNat % 40
        ∧ s.gateSetLaw.ft = { s.ft with request := .set c }
        ∧ s.gateSetLaw.ss.txs.map (·.req) = s.ss.txs.map (·.req) ++
          [{ kind := .gateSet, port := none, tag := 0
             body := w16 c.period ++ w8 c.width ++ wBV c.anchor ++ w8 c.offset }]
        ∧ s.gateSetLaw.le = s.le ∧ s.gateSetLaw.tt = s.tt))
  ∧ (∀ s : State,
    (∀ i r, r = s.faultRec i → (s.refreshOwed).faultRec i = { r with owed := r.owed ||
        ((r.state == .active || r.state == .retryWait || r.state == .latched)
          && decide (s.settings.faults.beaconThreshold ≤ (s.faultSetting i).level) && !r.silenced) })
    ∧ s.refreshOwed = { s with fs := { s.fs with recs := s.refreshOwed.fs.recs } }
    ∧ (s.le.link ≠ .inService ∨ s.fs.endReport ≠ none ∨ s.fs.spacing ≠ none ∨ (∀ i, s.endDue i = false) →
      s.endReports = s)
    ∧ (∀ i, s.le.link = .inService → s.fs.endReport = none → s.fs.spacing = none →
        s.highest (allFaults.filter s.endDue) = some i →
      ((s.ss.outQueue.filter fun m => !m.isSend).length < 24 → s.endReports =
        { s with
          fs := { s.fs with endReport := some i, endVoid := false, spacing := some 1000 }
          ss := { s.ss with
            outQueue := s.ss.outQueue ++ [{ who := .ended i, started := false
                                            cells := cellsOf s.ss.mgmtSeq (message 0x38 0 (s.beaconBody true i)) }]
            mgmtSeq := (s.ss.mgmtSeq + 1) % 256 } })
      ∧ (24 ≤ (s.ss.outQueue.filter fun m => !m.isSend).length → s.endReports =
        { s with
          fs := { s.fs with endReport := none, endVoid := false, spacing := some 1000 }
          ss := { s.ss with counts := { s.ss.counts with
            unansweredDropped := inc32 s.ss.counts.unansweredDropped } } })))
  ∧ (∀ s : State,
    ((s.sup.mode = .mains ∨ s.sup.mode = .battery) → s.sup.procPwr = true → s.hostPowerLaw = s)
    ∧ (s.sup.mode = .reserve → s.sup.procPwr = false ∨ s.cc.custody ≠ .part → s.hostPowerLaw = s)
    ∧ (s.sup.mode = .start ∨ s.sup.mode = .depleted → s.sup.procPwr = false → s.hostPowerLaw = s)
    ∧ (s.sup.mode = .mains ∨ s.sup.mode = .battery → s.sup.procPwr = false → s.hostPowerLaw =
      { s with
        sup := { s.sup with procPwr := true }
        sts := { s.sts with startedRaised := true }
        plk := { s.plk with
          isOpen := true, rx := .hunt, rxBytes := [], requests := [], busy := [], dataDown := [], frame := none
          notices := (if s.sts.startedRaised then [] else [Notice.started]) ++ [.supply, .custody, .fault] } })
    ∧ (s.sup.procPwr = true →
        (s.sup.mode = .reserve ∧ s.cc.custody = .part) ∨ s.sup.mode = .start ∨ s.sup.mode = .depleted →
      s.hostPowerLaw =
      { s with
        sup := { s.sup with procPwr := false }
        plk := { s.plk with
          isOpen := false, rx := .hunt, rxBytes := [], requests := [], busy := [], dataDown := [], frame := none
          notices := [], noticeSeq := ((s.plk.noticeSeq + s.plk.notices.length) % 256 + 1) % 256 }
        ss := { s.ss with
          upQueue := [], xon := true, dataPartial := none
          counts := { s.ss.counts with
            unitsPower := add32 s.ss.counts.unitsPower s.plk.dataDown.length } } }))

/-! ## Starts (chapter 12) -/

/-- POWER_ON_RESET, PIN_RESET and WAKE: every block takes its reset values; the non-volatile stores stay; the fault
history, the energy accounts with their overflow flag, and the uptime stay but for a power-on; FACTORY is read; the
commands that wait are kept. A wake of a part that is not dormant finds no occasion. The values the blocks' rules give
for a reset, and, until the load ends, the settings and load result of log 3 (DESIGN CHOICE); that no SUPPLY notice is
raised for the first entry to START is the model's choice (log 78). A command that finds no
occasion changes nothing: the model's choice (log 1). -/
def Obligations.StartsReset : Prop :=
  (∀ (strap : Bool) (s : State),
    (exec (.powerOnReset strap) s = .next
      { State.reset with
        sts := { State.reset.sts with
          stored := s.sts.stored, storedRegion := s.sts.storedRegion, strap := strap, cause := .powerOn }
        pending := s.pending })
    ∧ (exec (.pinReset strap) s = .next
      { State.reset with
        mu := { State.reset.mu with accounts := s.mu.accounts, overflow := s.mu.overflow }
        fs := { State.reset.fs with history := s.fs.history, nextSeq := s.fs.nextSeq }
        sup := { State.reset.sup with enteredAt := s.uptime }
        sts := { State.reset.sts with
          stored := s.sts.stored, storedRegion := s.sts.storedRegion, strap := strap, cause := .pin }
        uptime := s.uptime, uptimeMs := s.uptimeMs, pending := s.pending })
    ∧ (s.dormant = true → s.resetLow = false → exec (.wake strap) s = .next
      { State.reset with
        mu := { State.reset.mu with accounts := s.mu.accounts, overflow := s.mu.overflow }
        fs := { State.reset.fs with history := s.fs.history, nextSeq := s.fs.nextSeq }
        sup := { State.reset.sup with enteredAt := s.uptime }
        sts := { State.reset.sts with
          stored := s.sts.stored, storedRegion := s.sts.storedRegion, strap := strap, cause := .depletedWake }
        uptime := s.uptime, uptimeMs := s.uptimeMs, pending := s.pending })
    ∧ (s.dormant = false → exec (.wake strap) s = .next s))
  ∧ (State.reset.le.link = .idle
  ∧ State.reset.le.hold = ⟨true, false, false, false, false, true⟩
  ∧ State.reset.le.attempts = 0 ∧ State.reset.le.reduction = 0 ∧ State.reset.le.inForce = .full
  ∧ State.reset.tt.cap = 10 ∧ total State.reset.tt.down = 0 ∧ total State.reset.tt.up = 0
  ∧ State.reset.tracker = .searching ∧ State.reset.ft.agreement = none
  ∧ State.reset.ss.upQueue = [] ∧ State.reset.ss.txs = [] ∧ State.reset.ss.xon = true
  ∧ (∀ p, (State.reset.port p).feed = .disconnected ∧ (State.reset.port p).hook = .onHook
      ∧ (State.reset.port p).hold = ⟨false, false, true, false, true⟩ ∧ (State.reset.call p).state = .free)
  ∧ State.reset.cc.custody = .part ∧ State.reset.cc.lastR = 64
  ∧ State.reset.mu.readout = none ∧ State.reset.mu.snapNumber = 0
  ∧ State.reset.sup.mode = .start ∧ State.reset.sup.adapter = .unknown ∧ State.reset.sup.procPwr = false
  ∧ State.reset.tu.current = none
  ∧ (∀ i, (State.reset.faultRec i).state = .clear) ∧ State.reset.fs.history = []
  ∧ State.reset.plk.isOpen = false ∧ State.reset.plk.rx = .hunt
  ∧ State.reset.sts.cause = .powerOn ∧ State.reset.faultPin = false)

/-- SETTINGS_LOAD_END (R177, R179, R180): the stored record's values where its check matches, else the defaults; the
region's where its check passed; SETTINGS_CORRUPT is reported once for each of the two that has none or fails its
check; the measurement unit starts with the settings loaded; DISABLED leaves the line and the ports the settings
enable, and stays where it stood otherwise; the mask in force is the requested mask. The bytes under the two checks
are free values (log 13), and that the mark of an empty table follows the mask is the model's choice (log 47). A
command that finds no occasion changes nothing (log 1). -/
def Obligations.SettingsLoadEnds : Prop :=
  (∀ s : State, s.dormant = false → s.sts.loading = true →
    ∃ (events : Nat) (u : State), exec .settingsLoadEnd s = .next u.settle
      ∧ (∀ r, s.sts.stored = some r → r.whole = true → r.check = crc16 (Config.recordImage r.values) →
          u.settings = r.values ∧ u.sts.loadResult = .stored)
      ∧ (s.sts.stored = none → u.settings = Config.defaults ∧ u.sts.loadResult = .defaults)
      ∧ (∀ r, s.sts.stored = some r → r.check ≠ crc16 (Config.recordImage r.values) ∨ r.whole = false →
          u.settings = Config.defaults ∧ u.sts.loadResult = .defaults)
      ∧ (∀ g, s.sts.storedRegion = some g → g.whole = true → g.check = crc16 g.values.image →
          u.sts.region = g.values ∧ u.sts.regionOk = true)
      ∧ (∀ g, s.sts.storedRegion = some g → g.check ≠ crc16 g.values.image ∨ g.whole = false →
          u.sts.region = Reset.region ∧ u.sts.regionOk = false)
      ∧ (s.sts.storedRegion = none → u.sts.region = Reset.region ∧ u.sts.regionOk = false)
      ∧ u.sts.loading = false ∧ u.sts.stored = s.sts.stored ∧ u.sts.storedRegion = s.sts.storedRegion
      ∧ events = (if u.sts.loadResult = .stored then 0 else 1) + (if u.sts.regionOk = true then 0 else 1)
      ∧ (events = 0 → u.fs.recs.settingsCorrupt = s.fs.recs.settingsCorrupt)
      ∧ (0 < events → u.settings.faults.records.settingsCorrupt.policy = .report →
          s.fs.recs.settingsCorrupt.state = .clear ∨ s.fs.recs.settingsCorrupt.state = .recovered →
          u.fs.recs.settingsCorrupt = { s.fs.recs.settingsCorrupt with
            state := .recovered, run := none, retry := none
            count := min 255 (min 255 (s.fs.recs.settingsCorrupt.count + 1) + (events - 1))
            firstSeen := s.fs.recs.settingsCorrupt.firstSeen <|> some s.uptime, lastSeen := some s.uptime })
      ∧ u.mu = { s.mu with
          active := u.settings.measure, started := true, periodRate := u.settings.measure.rate }
      ∧ u.le.hold.disabled = (s.le.hold.disabled && !u.settings.line.linkEnable)
      ∧ (∀ p, (u.port p).hold.disabled = ((s.port p).hold.disabled && !(u.settings.ports.get p).enable))
      ∧ (u.settings.line.linkEnable = true → u.le.hold.isEmpty = true → s.le.hold.disabled = true →
          s.le.link.driverOn = false → u.le.link = .quiet ∧ u.le.phaseTimer = some 200)
      ∧ u.tt.maskInForce = u.settings.line.requestedMask
      ∧ u.uptime = s.uptime ∧ u.sup.mode = s.sup.mode ∧ u.cc.custody = s.cc.custody
      ∧ u.plk.requests = s.plk.requests ∧ u.pending = s.pending)
  ∧ ∀ s : State, s.dormant = false → s.sts.loading = false → exec .settingsLoadEnd s = .next s.settle

/-! ## The processor link (chapter 11, R61) -/

/-- REQUEST_FRAME (R171) while the receiver of an open link hunts: the request joins the queue, is answered BUSY, or
is discarded with its count and the FRAME_ERROR notice. DATA_UP (R61, R62) while the receiver of an open link hunts:
an empty unit, or one the free cells do not hold, is discarded and counted; another joins the upstream queue whole, in
the cells of R60, and the flow state follows. Taking a whole frame as one command is the model's choice (log 18), and so
is the mark that orders replies (log 16). -/
def Obligations.FramesAreTaken : Prop :=
  (∀ (tag : Byte) (body : List Byte) (s : State), s.dormant = false → s.plk.isOpen = true → s.plk.rx = .hunt →
    body.length ≤ 1600 →
    (s.plk.requests.length < 4 → exec (.requestFrame tag body) s = .next (State.settle
      { s with plk := { s.plk with
          requests := s.plk.requests ++ [{ tag := tag, body := body, executing := false, reply := none }] } }))
    ∧ (4 ≤ s.plk.requests.length → s.plk.busy.length < 4 → exec (.requestFrame tag body) s = .next (State.settle
      { s with plk := { s.plk with
          busy := s.plk.busy ++
            [{ tag := tag, reply := { order := s.plk.nextOrder, body := [body.head?.getD 0, 0x01] } }]
          nextOrder := s.plk.nextOrder + 1 } }))
    ∧ (4 ≤ s.plk.requests.length → 4 ≤ s.plk.busy.length → exec (.requestFrame tag body) s = .next (State.settle
      (State.raise { s with plk := { s.plk with
          lastError := some .discarded
          errors := { s.plk.errors with discarded := inc32 s.plk.errors.discarded } } } .frameError))))
  ∧ (∀ (tag : Byte) (body : List Byte) (s : State), s.dormant = false → s.plk.isOpen = true → s.plk.rx = .hunt →
    body.length ≤ 1600 →
    (body = [] → exec (.dataUp tag body) s = .next (State.settle
      { s with ss := { s.ss with counts := { s.ss.counts with empty := inc32 s.ss.counts.empty } } }))
    ∧ (body ≠ [] → s.ss.upQueue.length + (body.length + 59) / 60 ≤ 128 → s.ss.upQueue.length ≤ 128 →
        ∃ v : State, v = { s with ss := { s.ss with
            upQueue := s.ss.upQueue ++ cellsOf s.ss.dataSeq body
            dataSeq := (s.ss.dataSeq + 1) % 256
            counts := { s.ss.counts with accepted := inc32 s.ss.counts.accepted } } }
          ∧ (s.ss.xon = true → 96 < v.ss.upQueue.length → exec (.dataUp tag body) s = .next (State.settle
              (State.raise { v with ss := { v.ss with xon := false } } .flow)))
          ∧ (s.ss.xon = true → v.ss.upQueue.length ≤ 96 → exec (.dataUp tag body) s = .next v.settle)
          ∧ (s.ss.xon = false → 32 < v.ss.upQueue.length → exec (.dataUp tag body) s = .next v.settle))
    ∧ (body ≠ [] → 128 < s.ss.upQueue.length + (body.length + 59) / 60 → s.ss.upQueue.length ≤ 128 →
        exec (.dataUp tag body) s = .next (State.settle
          { s with ss := { s.ss with counts := { s.ss.counts with noRoom := inc32 s.ss.counts.noRoom } } })))

/-- A frame that finds the receiver inside another, or whose body is longer than LEN allows, is its bytes (R170; log
18); a closed link hears nothing (R176). FRAME_ERROR (R170): a frame whose check differs, one of another kind, or one
whose LEN exceeds 1,600 is discarded with its count and the FRAME_ERROR notice, and the receiver hunts. Taking a whole
frame while the receiver hunts is the model's choice (log 18). -/
def Obligations.OtherStreamsAreBytes : Prop :=
  (∀ (tag : Byte) (body : List Byte) (s : State), s.dormant = false →
    (s.plk.rx ≠ .hunt ∨ 1600 < body.length →
      exec (.requestFrame tag body) s = exec (.frameError (frameBytes .request tag body)) s
      ∧ exec (.dataUp tag body) s = exec (.frameError (frameBytes .dataUp tag body)) s)
    ∧ (s.plk.isOpen = false → exec (.requestFrame tag body) s = .next s.settle
        ∧ exec (.dataUp tag body) s = .next s.settle ∧ ∀ stream, exec (.frameError stream) s = .next s.settle))
  ∧ (∀ (kind tag : Byte) (body : List Byte) (chk : List Byte) (s : State), s.dormant = false → s.plk.isOpen = true →
    s.plk.rx = .hunt → body.length ≤ 1600 → chk.length = 2 →
    (chk ≠ w16 (crc16 (w16 body.length ++ [kind, tag] ++ body)).toNat →
      exec (.frameError (0xC3 :: (w16 body.length ++ [kind, tag] ++ body ++ chk))) s = .next (State.settle
        (State.raise { s with plk := { s.plk with
          rxBytes := [], lastError := some .check
          errors := { s.plk.errors with check := inc32 s.plk.errors.check } } } .frameError)))
    ∧ (chk = w16 (crc16 (w16 body.length ++ [kind, tag] ++ body)).toNat → kind ≠ 0x10 → kind ≠ 0x20 →
      exec (.frameError (0xC3 :: (w16 body.length ++ [kind, tag] ++ body ++ chk))) s = .next (State.settle
        (State.raise { s with plk := { s.plk with
          rxBytes := [], lastError := some .kind
          errors := { s.plk.errors with kind := inc32 s.plk.errors.kind } } } .frameError)))
    ∧ ∀ n, 1600 < n → n < 65536 → exec (.frameError (0xC3 :: w16 n)) s = .next (State.settle
        (State.raise { s with plk := { s.plk with
          rxBytes := [], lastError := some .length
          errors := { s.plk.errors with length := inc32 s.plk.errors.length } } } .frameError)))

/-- FRAME AND RECEIVER AGREE (R168, R170): the bytes of a REQUEST or a DATA_UP frame, after any fill, are taken as
that frame: no byte of a frame is lost or read otherwise. -/
def Obligations.GoodFrameIsTaken : Prop :=
  ∀ (fill : List Byte) (tag : Byte) (body : List Byte) (s : State), s.dormant = false → s.plk.isOpen = true →
    s.plk.rx = .hunt → body.length ≤ 1600 → (0xC3 : Byte) ∉ fill →
    exec (.frameError (fill ++ frameBytes .request tag body)) s
      = exec (.requestFrame tag body) { s with plk := { s.plk with rxBytes := [] } }
    ∧ exec (.frameError (fill ++ frameBytes .dataUp tag body)) s
      = exec (.dataUp tag body) { s with plk := { s.plk with rxBytes := [] } }

/-- FRAME_SENT (R173): the frame in progress ends; a reply's entry leaves its list; a data unit leaves the DATA_DOWN
list and is counted. The arbiter's choice (R173, R175): with no frame in progress on an open link the oldest-formed
reply goes first, then the oldest-raised notice, whose content is formed now under the present notice sequence, then
the oldest data unit; nothing else changes. The order of forming is the model's mark (log 16). -/
def Obligations.FramesAreSent : Prop :=
  (∀ (f : Frame) (s : State), s.dormant = false → s.plk.frame = some f →
    (∀ o, f.src = .reply o → exec .frameSent s = .next (State.settle
      { s with plk := { s.plk with
          frame := none
          requests := s.plk.requests.filter fun e => e.reply.map (·.order) != some o
          busy := s.plk.busy.filter fun b => b.reply.order != o } }))
    ∧ (∀ n, f.src = .notice n → exec .frameSent s = .next (State.settle { s with plk := { s.plk with frame := none } }))
    ∧ (f.src = .data → exec .frameSent s = .next (State.settle
      { s with
        plk := { s.plk with frame := none, dataDown := s.plk.dataDown.drop 1 }
        ss := { s.ss with counts := { s.ss.counts with delivered := inc32 s.ss.counts.delivered } } })))
  ∧ (∀ s : State, s.plk.isOpen = true → s.plk.frame = none →
    (∀ tag r, (tag, r) ∈ s.plk.replies → (∀ x ∈ s.plk.replies, x ≠ (tag, r) → r.order < x.2.order) →
      s.arbiter = { s with plk := { s.plk with
        frame := some { src := .reply r.order, bytes := frameBytes .reply tag r.body } } })
    ∧ (∀ n rest, s.plk.replies = [] → s.plk.notices = n :: rest →
      s.arbiter = { s with plk := { s.plk with
        notices := rest, noticeSeq := (s.plk.noticeSeq + 1) % 256
        frame := some (Frame.mk (.notice n)
          (frameBytes .notice (BitVec.ofNat 8 s.plk.noticeSeq) (n.head ++ s.noticeContent n)) 0) } })
    ∧ (∀ u rest, s.plk.replies = [] → s.plk.notices = [] → s.plk.dataDown = u :: rest →
      s.arbiter = { s with plk := { s.plk with frame := some { src := .data, bytes := frameBytes .dataDown 0 u } } })
    ∧ (s.plk.replies = [] → s.plk.notices = [] → s.plk.dataDown = [] → s.arbiter = s))

/-- UNKNOWN_REQUEST and unreadable bodies (R172): an empty body or an unknown code is answered UNKNOWN_REQUEST; the
requests that take no argument answer BAD_ARGUMENT to a longer body; nothing else changes. That a request is executed
from the queue by its own row is the model's choice (log 4). -/
def Obligations.UnfitRequestsRefused : Prop :=
  (∀ s : State, s.asks [] → exec .unknownRequest s = .next (s.replied 0 .unknownRequest []).settle)
  ∧ (∀ (c : Byte) (rest : List Byte) (s : State), s.asks (c :: rest) → c.toNat ∉ requestCodes →
      exec .unknownRequest s = .next (s.replied c .unknownRequest []).settle)
  ∧ ∀ (rest : List Byte) (s : State), rest ≠ [] →
      (s.asks (0x01 :: rest) → exec .lineStatus s = .next (s.replied 0x01 .badArgument []).settle)
      ∧ (s.asks (0x1A :: rest) → exec .custodyClaim s = .next (s.replied 0x1A .badArgument []).settle)
      ∧ (s.asks (0x1B :: rest) → exec .custodyRelease s = .next (s.replied 0x1B .badArgument []).settle)
      ∧ (s.asks (0x1C :: rest) → exec .callStatus s = .next (s.replied 0x1C .badArgument []).settle)
      ∧ (s.asks (0x22 :: rest) → exec .measureRead s = .next (s.replied 0x22 .badArgument []).settle)
      ∧ (s.asks (0x29 :: rest) → exec .supplyStatus s = .next (s.replied 0x29 .badArgument []).settle)
      ∧ (s.asks (0x31 :: rest) → exec .testAbort s = .next (s.replied 0x31 .badArgument []).settle)
      ∧ (s.asks (0x32 :: rest) → exec .testRead s = .next (s.replied 0x32 .badArgument []).settle)
      ∧ (s.asks (0x40 :: rest) → exec .settingsSave s = .next (s.replied 0x40 .badArgument []).settle)
      ∧ (s.asks (0x41 :: rest) → exec .settingsDefaults s = .next (s.replied 0x41 .badArgument []).settle)
      ∧ (s.asks (0x42 :: rest) → exec .identityRead s = .next (s.replied 0x42 .badArgument []).settle)

/-! ## Requests that read -/

/-- LINE_STATUS (R20): OK in every state, with the values as they stand; nothing else changes. Field order, presence
bytes and numberings that R168 leaves open are the model's (log 12). The forms of R168 in which every reply and notice
writes its fields stand at the end: numbers most significant byte first, two's complement, flags, presence bytes,
lists, sets, ports, digits and records. -/
def Obligations.LineStatusAnswers : Prop :=
  (∀ s : State, s.asks [0x01] →
    exec .lineStatus s = .next (State.settle (s.replied 0x01 .ok
      (wIdx s.le.link.ctorIdx
        ++ wFlags [s.le.hold.disabled, s.le.hold.latched, s.le.hold.foreign, s.le.hold.thermal, s.le.hold.test,
            s.le.hold.supply]
        ++ w8 s.le.attempts ++ w8 s.settings.line.marginTarget
        ++ w8 (s.settings.line.marginTarget - s.le.reduction) ++ wBool (decide (0 < s.le.reduction))
        ++ w8 s.le.backoffStep ++ (if s.le.link = .retrainWait then w16 (s.le.backoff.getD 0) else [])
        ++ wIdx s.le.lastFailure.ctorIdx ++ wIdx s.le.lastLoss.ctorIdx
        ++ wIdx s.effProfile.ctorIdx ++ wIdx s.le.inForce.ctorIdx
        ++ wOpt (fun p : PendingProfile => wIdx p.profile.ctorIdx ++ w16 (p.timer.getD 2000)) s.le.pending
        ++ w8 s.tt.cap
        ++ w16 (s.tt.down.map (·.b)).sum ++ w16 (s.tt.up.map (·.b)).sum
        ++ w16 ((s.tt.down.map (·.b)).sum * (39 - s.agreedWidth) / 8)
        ++ w16 ((s.tt.up.map (·.b)).sum * (39 - s.agreedWidth) / 8)
        ++ wBV s.le.sf ++ wBV s.le.sym))))
  ∧ (∀ n : Nat, w8 n = [BitVec.ofNat 8 n] ∧ wIdx n = w8 n ∧ w16 n = [BitVec.ofNat 8 (n / 256), BitVec.ofNat 8 n]
      ∧ w32 n = w16 (n / 65536) ++ w16 n)
  ∧ (∀ n : Int, i16 n = w16 (BitVec.ofInt 16 n).toNat ∧ beInt 1 n = [BitVec.ofInt 8 n]
      ∧ beInt 8 n = w32 ((BitVec.ofInt 64 n).toNat / 2 ^ 32) ++ w32 (BitVec.ofInt 64 n).toNat)
  ∧ (∀ x : BitVec 32, wBV x = w32 x.toNat)
  ∧ wBool false = [0] ∧ wBool true = [1] ∧ wFirst true = [0] ∧ wFirst false = [1]
  ∧ wPort .a = [1] ∧ wPort .b = [2] ∧ (∀ n, wDigit (.num n) = w8 n.val) ∧ wDigit .star = [10] ∧ wDigit .hash = [11]
  ∧ (∀ f : List Byte → List Byte, wOpt f none = [0] ∧ (∀ x, wOpt f (some x) = 1 :: f x)
      ∧ wList f [] = [0] ∧ ∀ l, l.length < 256 → wList f l = BitVec.ofNat 8 l.length :: (l.map f).flatten)
  ∧ (∀ l : List Bool, wFlags l = wList w8 ((List.range l.length).filter fun i => l[i]? == some true))
  ∧ (allFaults.map fun i => (i, wFault i)) =
      [(.linkLoss, [0, 0]), (.trainFail, [1, 0]), (.linkProtocol, [2, 0]), (.impulseNoise, [3, 0]),
        (.foreignVoltage, [4, 0]), (.leakage, [5, 0]), (.feedOvercurrentA, [6, 1]), (.feedOvercurrentB, [6, 2]),
        (.ringOverloadA, [7, 1]), (.ringOverloadB, [7, 2]), (.voiceCapacityA, [8, 1]), (.voiceCapacityB, [8, 2]),
        (.thermalWarn, [9, 3]), (.thermalShutdown, [10, 3]), (.batteryFault, [11, 3]), (.settingsCorrupt, [12, 3])]

/-- SUPPLY_STATUS (R141): OK in every state and custody, with the values as they stand; nothing else changes. Field
order, presence bytes and numberings that R168 leaves open are the model's (log 12). PROC_PWR_EN and BATTERY_FAULT are
numbered as R130 lists their values: asserted 0, present 0. -/
def Obligations.SupplyStatusAnswers : Prop :=
  ∀ s : State, s.asks [0x29] →
    exec .supplyStatus s = .next (State.settle (s.replied 0x29 .ok
      (wIdx s.sup.mode.ctorIdx ++ wBV s.sup.enteredAt
        ++ wIdx s.sup.adapter.ctorIdx
        ++ wOpt i16 s.sup.battV ++ wOpt i16 s.sup.battI ++ wOpt i16 s.sup.adapterV
        ++ wOpt w16 s.sup.mains ++ wOpt w16 s.sup.recovery ++ wOpt w16 s.sup.cutoff ++ wOpt w16 s.sup.lowBattery
        ++ wOpt w16 s.sup.batteryGood
        ++ wIdx s.sup.profile.ctorIdx
        ++ wIdx (if s.sup.procPwr then 0 else 1)
        ++ wList wPort ([Port.a, .b].filter fun p => (s.port p).hold.shed)
        ++ wIdx (if s.sup.batteryFault then 0 else 1)
        ++ w16 s.settings.supply.reserveThreshold ++ w16 s.settings.supply.cutoff ++ w8 s.settings.supply.renLimit)))

/-- CALL_STATUS and DIGITS_READ (R115): OK in every state and custody; a port outside A and B is refused; nothing else
changes. A record's fields (R98) stand at the end, one by one. Field order, presence bytes and numberings that R168
leaves open are the model's (log 12), and so is that a transaction shows while it waits for an entry (log 56). -/
def Obligations.CallReadsAnswer : Prop :=
  (∀ s : State, s.asks [0x1C] →
    exec .callStatus s = .next (State.settle (s.replied 0x1C .ok
      ((s.call .a).bytes ++ (s.call .b).bytes
        ++ wIdx s.cc.custody.ctorIdx ++ wOpt w16 s.cc.grace
        ++ w8 s.cc.nReported ++ w8 s.callCount ++ wOpt w16 s.cc.holdOff
        ++ w8 s.cc.lastR ++ w16 s.cc.pDown ++ w16 s.cc.pUp))))
  ∧ (∀ (rest : List Byte) (s : State), s.asks (0x1D :: rest) →
    (∀ p, rest = 1 :: wPort p → exec (.digitsRead (.known p)) s = .next (State.settle (s.replied 0x1D .ok
      (wList (fun e : DigitEntry => wDigit e.digit ++ wIdx e.method.ctorIdx ++ wIdx e.mark.ctorIdx) (s.port p).digits
        ++ wBool (s.port p).overflow))))
    ∧ (∀ b : Byte, b ≠ 1 → b ≠ 2 → rest = [1, b] →
      exec (.digitsRead (.outside b.toNat)) s = .next (s.replied 0x1D .badArgument []).settle))
  ∧ ∀ r : CallRec, r.bytes =
    w8 r.state.ctorIdx ++ wOpt (fun x : SubState => w8 x.ctorIdx) r.sub ++ wOpt (fun x : CallDir => w8 x.ctorIdx) r.dir
      ++ wOpt w8 r.channel ++ wOpt (fun x : Coding => w8 x.ctorIdx) r.coding
      ++ wOpt (fun x : Downgrade => wOpt wBV x.seff) r.downgrade ++ wOpt wBV r.connect ++ wOpt (wList wDigit) r.caller
      ++ wOpt (fun x : HeldPlan => match x with | .ring c => [0] ++ w8 c | .silent => [1]) r.plan
      ++ w8 r.cause.ctorIdx ++ wOpt w16 r.admission ++ wOpt w16 r.decision ++ wOpt w32 r.alert
      ++ wFlags [r.txs.seize, r.txs.release, r.txs.answer, r.txs.digit, r.txs.coding]

/-- FAULT_READ and FAULT_HISTORY (R167). A record's fields (R154) and the thresholds stand at the end, one by one; a
condition is numbered as R154 lists its values, present 0. Field order, presence bytes and numberings that R168 leaves
open are the model's (log 12), and so are the 16-bit field of a value (log 28) and the byte of the pin (log 58). The
newest sequence number of an empty ring is a free value (log 68). -/
def Obligations.FaultReadsAnswer : Prop :=
  (∀ s : State, s.asks [0x3A, 0] →
    exec (.faultRead none) s = .next (State.settle (s.replied 0x3A .ok
      (wList s.faultBytes allFaults ++ thresholdBytes s.settings.faults ++ wBool s.faultPin
        ++ wOpt wFault s.fs.endReport ++ wOpt w16 s.fs.spacing))))
  ∧ (∀ (i : FaultId) (s : State), s.asks (0x3A :: 1 :: wFault i) →
    exec (.faultRead (some (.known i))) s = .next (State.settle (s.replied 0x3A .ok
      (w8 1 ++ s.faultBytes i ++ thresholdBytes s.settings.faults ++ wBool s.faultPin
        ++ wOpt wFault s.fs.endReport ++ wOpt w16 s.fs.spacing))))
  ∧ (∀ (c src : Byte) (s : State), faultOf c.toNat src.toNat = none → s.asks [0x3A, 1, c, src] →
    exec (.faultRead (some (.outside (c.toNat * 256 + src.toNat)))) s
      = .next (s.replied 0x3A .badArgument []).settle)
  ∧ (∀ (n : Nat) (start : Option Nat) (rest : List Byte) (s : State), s.asks (0x3B :: rest) →
    readAll (rPair (rReq (rNat 1)) (rArg (rNat 2))) rest = some (n, start) →
    exec (.faultHistory n start) s = .next (State.settle (s.replied 0x3B .ok
      (w8 s.fs.history.length
        ++ w16 (match s.fs.history.getLast? with | some e => e.seq | none => Config.newestOfNone)
        ++ wList (fun e : HistEntry =>
            w16 e.seq ++ wBV e.uptime ++ wFault e.record ++ wIdx e.transition.ctorIdx ++ wOpt i16 e.value)
          (List.take (max 1 (min 16 n)) (match start with
            | none => s.fs.history.reverse
            | some k => s.fs.history.reverse.dropWhile fun e => e.seq != k))))))
  ∧ (∀ (s : State) (i : FaultId) (r : FaultRec) (g : FaultSetting), r = s.faultRec i → g = s.faultSetting i →
    s.faultBytes i =
      wFault i ++ w8 r.state.ctorIdx ++ w8 g.policy.ctorIdx ++ w8 g.level ++ wOpt (fun p : Policy => w8 p.ctorIdx) r.run
        ++ (if i ∈ [FaultId.trainFail, .impulseNoise, .foreignVoltage, .leakage, .thermalWarn, .thermalShutdown,
              .batteryFault] then (if r.condition then [0] else [1]) else [])
        ++ wOpt w16 r.retry ++ wOpt wBV r.firstSeen ++ wOpt wBV r.lastSeen ++ w8 r.count ++ wOpt i16 r.value
        ++ wBool r.silenced ++ wBool r.owed)
  ∧ ∀ x : FaultSettings, thresholdBytes x =
      w8 x.pinThreshold ++ w8 x.noticeThreshold ++ w8 x.beaconThreshold ++ w8 x.foreignThreshold
        ++ w16 x.leakageThreshold

/-- MEASURE_READ (R128), TEST_READ (R153), IDENTITY_READ (R179) and LINE_TABLE_READ (R39): OK in every state, and
nothing else changes; a direction or a table outside those of R39, and CANDIDATE with UP, is refused. Field order,
presence bytes and numberings that R168 leaves open are the model's (log 12; no count before the channels and accounts
of a readout, and an upstream record's clear mark byte, among them), and so are the wire code of the sweep rate (log
11), the bytes of the region's check and of the strap (log 58), where a readout carries the active rate and of which
moment (log 63), and a rate in force that follows the active rate at once (log 76). The fields of the readout (R124), of
the records of R143, of a tone record (R23, R39) and of what follows a table stand at the end, one by one. -/
def Obligations.UnitReadsAnswer : Prop :=
  (∀ s : State,
    (s.asks [0x22] → exec .measureRead s = .next (State.settle (s.replied 0x22 .ok
      (wOpt Readout.bytes s.mu.readout ++ measureBytes s.mu.active ++ measureBytes s.settings.measure
        ++ wBool s.mu.forced ++ wIdx (if s.mu.forced then SweepRate.r10 else s.mu.active.rate).ctorIdx
        ++ wOpt (fun p : SnapPending => wIdx p.cause.ctorIdx ++ wIdx p.kind.ctorIdx) s.mu.pending
        ++ w16 s.mu.snapNumber))))
    ∧ (s.asks [0x32] → exec .testRead s = .next (State.settle (s.replied 0x32 .ok
      (wOpt CurrentTest.bytes s.tu.current ++ LastResult.bytes .lineForeign s.tu.results.lineForeign
        ++ LastResult.bytes .lineInsulation s.tu.results.lineInsulation
        ++ LastResult.bytes .portLoopA s.tu.results.portLoopA
        ++ LastResult.bytes .portLoopB s.tu.results.portLoopB))))
    ∧ (s.asks [0x42] → exec .identityRead s = .next (State.settle (s.replied 0x42 .ok
      (wOpt w32 s.sts.region.serial ++ wOpt (wList fun b : Byte => [b]) s.sts.region.ident
        ++ (allChans.map s.sts.region.calib.get).flatMap (fun c => w16 c.gain ++ i16 c.offset)
        ++ wBool s.sts.regionOk ++ wBool s.sts.strap))))
    ∧ (s.asks [0x04, 1, 0, 1, 0] → exec (.lineTableRead (.known .down) (.known .running)) s = .next (State.settle
      (s.replied 0x04 .ok (tableBytes 32 s.tt.down ++ wList w8 s.tt.lowCounts
        ++ w16 (s.tt.down.map (·.b)).sum ++ wOpt w16 (some s.pMinDown) ++ s.tableTail))))
    ∧ (s.asks [0x04, 1, 0, 1, 1] → exec (.lineTableRead (.known .down) (.known .candidate)) s = .next (State.settle
      (s.replied 0x04 .ok (tableBytes 32 s.tt.cand ++ wList w8 s.tt.lowCounts
        ++ w16 (s.tt.cand.map (·.b)).sum ++ [0] ++ s.tableTail))))
    ∧ (s.asks [0x04, 1, 1, 1, 0] → exec (.lineTableRead (.known .up) (.known .running)) s = .next (State.settle
      (s.replied 0x04 .ok (tableBytes 6 s.tt.up ++ w16 (s.tt.up.map (·.b)).sum
        ++ wOpt w16 (some s.pMinUp) ++ s.tableTail))))
    ∧ (∀ (d : Enum Direction) (t : Enum TableSel) (rest : List Byte), s.asks (0x04 :: rest) →
      readAll (rPair (rReq (rEnum directions)) (rReq (rEnum tableSels))) rest = some (d, t) →
      (d = .known .up ∧ t = .known .candidate) ∨ (∃ c, d = .outside c) ∨ (∃ c, t = .outside c) →
      exec (.lineTableRead d t) s = .next (s.replied 0x04 .badArgument []).settle))
  ∧ (∀ r : Readout, r.bytes =
      w16 r.number ++ w8 r.cause.ctorIdx ++ w8 r.kind.ctorIdx ++ wBV r.uptime ++ wBV r.sweep ++ w8 r.mode.ctorIdx
        ++ w8 r.rate.ctorIdx ++ w8 r.activeRate.ctorIdx
        ++ (allChans.map r.chans.get).flatMap (fun c =>
            wOpt i16 c.latest ++ wOpt i16 c.average ++ w8 c.values ++ wOpt wBV c.lastKept
              ++ (if c.owned then [1] else [0]))
        ++ [r.accounts.total, r.accounts.line, r.accounts.portA, r.accounts.portB].flatMap
            (fun a => beInt 8 a.acc ++ w32 a.count)
        ++ wBool r.overflow)
  ∧ (∀ x : MeasureSettings, measureBytes x =
      w8 x.rate.ctorIdx ++ wList wBool (allChans.map x.enables.get) ++ w8 x.kind.ctorIdx)
  ∧ (∀ c : CurrentTest, c.bytes =
      w8 c.kind.ctorIdx ++ w8 c.target.ctorIdx ++ w8 c.requester.ctorIdx ++ wBool c.priority
        ++ (if c.requester = .operator then [c.reqNumber.getD 0] else []) ++ w8 c.phase.ctorIdx
        ++ (if c.phase = .running then wBV (c.start.getD 0) ++ w16 (c.timeLeft.getD 0) else [])
        ++ wList (fun x : Chan => w8 x.ctorIdx) (match c.kind, c.target with
          | .portLoop, .portB => [.pbV, .pbI]
          | .portLoop, _ => [.paV, .paI]
          | _, _ => [.lineTipE, .lineRingE, .lineTR]))
  ∧ (∀ (i : ResultId) (r : LastResult),
    (r.latest = none → LastResult.bytes i r = [0, 0, 0]
      ++ wOpt (fun x : Completed => wValues (ResultId.kind i) x.values ++ w8 x.outcome.ctorIdx
          ++ w8 x.requester.ctorIdx ++ wBV x.endTime) r.completed ++ [0])
    ∧ ∀ x : Latest, r.latest = some x → LastResult.bytes i r =
      [1] ++ w8 x.outcome.ctorIdx ++ (match x.cause with | some c => w8 c.ctorIdx | none => [])
        ++ [1] ++ w8 x.requester.ctorIdx ++ [1] ++ wBV x.endTime
        ++ wOpt (fun x : Completed => wValues (ResultId.kind i) x.values ++ w8 x.outcome.ctorIdx
            ++ w8 x.requester.ctorIdx ++ wBV x.endTime) r.completed
        ++ [1] ++ w8 r.report.ctorIdx)
  ∧ (∀ (k : TestKind) (vs : List TestValue),
    (k ≠ .portLoop → wValues k vs = vs.flatMap fun v => i16 v.value ++ wBool v.mark)
    ∧ ∀ loop ren, vs = [loop, ren] → wValues .portLoop vs =
        i16 loop.value ++ wBool loop.mark ++ beInt 1 ren.value ++ wBool ren.mark)
  ∧ (∀ (first : Nat) (t : List ToneRec), tableBytes first t =
      w8 t.length ++ (List.range t.length).flatMap fun i => match t[i]? with
        | some x => w8 (first + i) ++ w8 x.s ++ w8 x.b ++ wBool x.masked
            ++ (match x.margin with | some m => i16 m | none => [])
        | none => [])
  ∧ ∀ s : State, s.tableTail =
      w8 (4 * (s.settings.line.marginTarget - s.le.reduction)) ++ w8 s.tt.cap
        ++ (match s.tt.inFlight with
          | .none => [0, 0]
          | .swap _ _ _ e => [1] ++ wOpt wBV e
          | .rate _ _ e => [2] ++ wOpt wBV e)
        ++ wOpt (fun r : RateReason => w8 r.ctorIdx) s.tt.waitingRate
        ++ wOpt (fun u : UpChange => wBV u.seff) s.tt.upWaiting
        ++ w8 s.tt.lastResult.ctorIdx ++ w8 s.tt.upshift

/-- GATE_STATUS (R54), SCHEDULE_STATUS (R76) and PORT_STATUS (R95): the reply carries the values as they stand before
any clearing; CLEAR then zeroes the statistics or counts and nothing else; an argument other than CLEAR is refused.
What the three replies hold, field by field, stands at the end. Field order, presence bytes and numberings that R168
leaves open are the model's (log 12), and so are the wire codes of the service ratio and of the ringing frequency (log
11), the code of a transaction's kind (log 53), the bytes of learning and of an agreement in force (log 58), and the
offset of a schedule agreed before service (log 31). -/
def Obligations.StatusReadsClear : Prop :=
  ∀ s : State,
    (s.asks [0x09, 0] → exec (.gateStatus none) s = .next (s.replied 0x09 .ok s.gateStatusFields).settle)
    ∧ (s.asks [0x09, 1, 0] → exec (.gateStatus (some (.known ()))) s = .next (State.settle
      { s.replied 0x09 .ok s.gateStatusFields with ft := { s.ft with stats := ⟨0, 0, 0, 0, 0⟩ } }))
    ∧ (∀ b : Byte, b ≠ 0 → s.asks [0x09, 1, b] → exec (.gateStatus (some (.outside b.toNat))) s
      = .next (s.replied 0x09 .badArgument []).settle)
    ∧ (s.asks [0x0D, 0] → exec (.scheduleStatus none) s = .next (s.replied 0x0D .ok s.scheduleStatusFields).settle)
    ∧ (s.asks [0x0D, 1, 0] → exec (.scheduleStatus (some (.known ()))) s = .next (State.settle
      { s.replied 0x0D .ok s.scheduleStatusFields with ss := { s.ss with counts := Reset.ssCounts } }))
    ∧ (∀ b : Byte, b ≠ 0 → s.asks [0x0D, 1, b] → exec (.scheduleStatus (some (.outside b.toNat))) s
      = .next (s.replied 0x0D .badArgument []).settle)
    ∧ (∀ p : Port, s.asks (0x12 :: 1 :: wPort p ++ [0]) → exec (.portStatus (.known p) none) s
      = .next (s.replied 0x12 .ok (s.portStatusFields p)).settle)
    ∧ (∀ p : Port, s.asks (0x12 :: 1 :: wPort p ++ [1, 0]) → exec (.portStatus (.known p) (some (.known ()))) s
      = .next (State.settle { s.replied 0x12 .ok (s.portStatusFields p) with
          ports := s.ports.set p { s.ports.get p with counts := ⟨0, 0, 0, 0, 0, 0, 0, 0⟩ } }))
    ∧ (∀ (p : Port) (b : Byte), b ≠ 0 → s.asks (0x12 :: 1 :: wPort p ++ [1, b]) →
      exec (.portStatus (.known p) (some (.outside b.toNat))) s = .next (s.replied 0x12 .badArgument []).settle)
    ∧ (∀ b : Byte, b ≠ 1 → b ≠ 2 → s.asks [0x12, 1, b, 0] → exec (.portStatus (.outside b.toNat) none) s
      = .next (s.replied 0x12 .badArgument []).settle)
    ∧ s.gateStatusFields =
      wIdx (if (∃ a, s.ft.agreement = some a ∧ a.active = true) then 2 else if s.ft.tracking = .locked then 1 else 0)
        ++ wIdx s.ft.tracking.ctorIdx ++ w8 s.ft.floor
        ++ wBool (s.le.link != .idle && s.le.link != .testHold && decide (s.ft.learn < 64))
        ++ (if s.ft.tracking = .locked then w16 (s.ft.period.getD 0) ++ wBV (s.ft.next.getD 0) else [])
        ++ w8 s.ft.misses ++ wList wBV s.ft.arrivals
        ++ wOpt (fun a : Agreement =>
            (w16 a.cur.period ++ w8 a.cur.width ++ wBV a.cur.anchor ++ w8 a.cur.offset)
              ++ wOpt (fun c : Sched => w16 c.period ++ w8 c.width ++ wBV c.anchor ++ w8 c.offset) a.repl
              ++ wOpt wBV a.endSf ++ wBool a.active) s.ft.agreement
        ++ w8 s.agreedWidth
        ++ wIdx (match s.ft.request with | .none => 0 | .set _ => 1 | .clear _ => 2) ++ wOpt w16 s.ft.retry
        ++ w16 s.ft.hits ++ w8 s.ft.highRun ++ w8 s.ft.lowRun ++ wIdx (if s.ft.impulse then 0 else 1)
        ++ w32 s.ft.stats.caught ++ w32 s.ft.stats.missed ++ w32 s.ft.stats.stray ++ w32 s.ft.stats.total
        ++ w32 s.ft.stats.peak
    ∧ s.scheduleStatusFields =
      w8 s.ss.upQueue.length ++ w8 (128 - s.ss.upQueue.length) ++ w8 (if s.ss.xon then 0 else 1)
        ++ w8 (s.ss.upQueue.filter fun c => c.fin).length
        ++ w8 (((s.ss.dataPartial.map fun x => x.cells).getD 0)
            + (s.plk.dataDown.map fun u => (u.length + 59) / 60).sum)
        ++ w8 ((s.ss.dataPartial.map fun x => x.cells).getD 0) ++ w8 s.plk.dataDown.length
        ++ wIdx s.settings.ratio.ctorIdx ++ w8 s.ss.p
        ++ w8 s.ss.outQueue.length ++ w8 (s.ss.outQueue.filter fun m => m.isSend).length
        ++ wList (fun t : Tx =>
            wIdx t.req.kind.ctorIdx ++ (match t.req.port with | none => [0] | some .a => [1] | some .b => [2])
              ++ w8 t.number ++ w8 t.sends ++ wOpt w8 t.timeLeft) s.ss.txs
        ++ w8 s.ss.nextNumber ++ w8 s.ss.waiting.length
        ++ ([s.ss.repeats.alert, s.ss.repeats.clear, s.ss.repeats.answered, s.ss.repeats.upTable, s.ss.repeats.retrain,
            s.ss.repeats.testReq, s.ss.repeats.beaconClear].flatMap fun r =>
              wOpt (fun b : Byte => [b]) r.last
                ++ wIdx (match r.answer with | .absent => 0 | .pending => 1 | .held _ _ => 2))
        ++ ([s.ss.counts.accepted, s.ss.counts.noRoom, s.ss.counts.empty, s.ss.counts.mgmtCells, s.ss.counts.dataCells,
            s.ss.counts.idleCells, s.ss.counts.slotsOmitted, s.ss.counts.checkFails, s.ss.counts.formatFaults,
            s.ss.counts.orphans, s.ss.counts.cellsSequence, s.ss.counts.delivered, s.ss.counts.unitsCheck,
            s.ss.counts.unitsSequence, s.ss.counts.unitsLong, s.ss.counts.unitsRoom, s.ss.counts.unitsPower,
            s.ss.counts.unitsLink, s.ss.counts.messages, s.ss.counts.malformed, s.ss.counts.unknownType,
            s.ss.counts.repeats, s.ss.counts.answersDropped, s.ss.counts.unansweredDropped, s.ss.counts.unmatched,
            s.ss.counts.failed].flatMap w32)
    ∧ ∀ (p : Port) (x : PP) (g : PortSettings) (c : PortCounts), x = s.port p → g = s.settings.ports.get p →
        c = x.counts → s.portStatusFields p =
      wIdx x.feed.ctorIdx ++ wIdx x.hook.ctorIdx
        ++ wFlags [x.hold.fault, x.hold.thermal, x.hold.shed, x.hold.test, x.hold.disabled] ++ wIdx x.wanted.ctorIdx
        ++ (if x.feed = .polaritySwap then w8 (x.swapTimer.getD 0) else [])
        ++ wOpt w8 x.ringRequest ++ wBool x.ringInhibit
        ++ wOpt (fun k : CadencePos => w8 k.pair ++ wBool k.on ++ w16 k.timeLeft) x.cadence
        ++ wIdx x.audio.ctorIdx ++ wIdx x.tone.ctorIdx ++ w8 x.pulses ++ w8 x.digits.length ++ wBool x.overflow
        ++ portSettingsBytes g
        ++ ([c.offHooks, c.pulseDigits, c.toneDigits, c.trainsDiscarded, c.glitches, c.ringTrips, c.overcurrents,
            c.ringOverloads].flatMap w32)
        ∧ portSettingsBytes g =
          wBool g.enable ++ w8 g.currentLimit ++ w8 g.offHookThreshold ++ w8 g.frequency.ctorIdx
            ++ wBool g.fenceExposed ++ wBool g.lifelineMarked ++ wBool g.reverseOnAnswer ++ wBool g.intercomEnable

/-! ## Requests that set -/

/-- LINE_CONFIGURE (R21): absent arguments keep their settings, a margin target above 15 becomes 15, a value
outside its set refuses the whole request; OFF places DISABLED in the hold set and ON removes it, with the
link in its held state or in QUIET at once, and a setting that finds DISABLED as it wants it changes nothing
but the settings. The margin reduction stays (R10); nothing is stored. The reply echoes the three;
SETTINGS_DEFAULTS gives ON, 6 dB and ON. -/
def Obligations.LineConfigureSets : Prop :=
  (∀ (l : Option (Enum Bool)) (m : Option Nat) (u : Option (Enum Bool)) (rest : List Byte) (s : State),
    s.asks (0x02 :: rest) →
    readAll (rPair (rArg (rEnum onOff)) (rPair (rArg (rNat 1)) (rArg (rEnum onOff)))) rest = some (l, m, u) →
    (∀ (l' u' : Option Bool), l = l'.map .known → u = u'.map .known →
      ∃ v : State, v.settings = { s.settings with line := { s.settings.line with
            linkEnable := l'.getD s.settings.line.linkEnable
            marginTarget := (m.map (min 15)).getD s.settings.line.marginTarget
            upshiftEnable := u'.getD s.settings.line.upshiftEnable } }
        ∧ v.le.hold.disabled = !v.settings.line.linkEnable
        ∧ (s.le.hold.disabled = v.le.hold.disabled → v = { s with settings := v.settings })
        ∧ (s.le.hold.disabled ≠ v.le.hold.disabled →
            (s.tu.current = none → v.le.hold = { s.le.hold with disabled := v.le.hold.disabled })
            ∧ (v.le.hold.isEmpty = false → v.le.link = v.le.hold.state)
            ∧ (v.le.hold.isEmpty = true → s.le.link = .idle ∨ s.le.link = .testHold →
                v.le.link = .quiet ∧ v.le.phaseTimer = some 200))
        ∧ v.le.reduction = s.le.reduction
        ∧ v.sts = s.sts ∧ v.uptime = s.uptime ∧ v.sup.mode = s.sup.mode ∧ v.cc.custody = s.cc.custody
        ∧ v.mu.accounts = s.mu.accounts ∧ v.plk.requests = s.plk.requests ∧ v.ss.upQueue = s.ss.upQueue
        ∧ exec (.lineConfigure l m u) s = .next (State.settle (v.replied 0x02 .ok
            (wBool v.settings.line.linkEnable ++ w8 v.settings.line.marginTarget
              ++ wBool v.settings.line.upshiftEnable))))
    ∧ ((∃ c, l = some (.outside c)) ∨ (∃ c, u = some (.outside c)) →
      exec (.lineConfigure l m u) s = .next (s.replied 0x02 .badArgument []).settle))
  ∧ ∀ s : State, s.asks [0x41] → s.cc.custody ≠ .part →
    ∃ v : State, exec .settingsDefaults s = .next (v.replied 0x41 .ok []).settle
      ∧ v.settings.line.linkEnable = true ∧ v.settings.line.marginTarget = 6 ∧ v.settings.line.upshiftEnable = true

/-- SCHEDULE_CONFIGURE (R75): N becomes 1, 2, 4 or 8; p above it becomes N, and then the next position where both
queues wait goes to management; another value is refused. The wire code of N, its place in the list 1, 2, 4, 8, is the
model's choice (log 11). -/
def Obligations.ScheduleConfigureSets : Prop :=
  ∀ (b : Byte) (s : State), s.asks [0x0C, 1, b] →
    (∀ r : ServiceRatio, b.toNat = r.ctorIdx →
      exec (.scheduleConfigure (.known r)) s = .next (State.settle (State.replied
        { s with settings := { s.settings with ratio := r }
                 ss := { s.ss with p := min s.ss.p (ServiceRatio.n r) } } 0x0C .ok (w8 r.ctorIdx)))
      ∧ (ServiceRatio.n r < s.ss.p → ∀ first,
          cellTurn first true true (min s.ss.p (ServiceRatio.n r)) (ServiceRatio.n r) = (.mgmt, 0)))
    ∧ (4 ≤ b.toNat → exec (.scheduleConfigure (.outside b.toNat)) s
      = .next (s.replied 0x0C .badArgument []).settle)

/-- GATE_CONFIGURE (R53), SUPPLY_CONFIGURE (R140), MEASURE_CONFIGURE (R127): absent arguments keep their values,
numbers are clamped, the cutoff stands at least 50 below the reserve threshold, the supervision channels stay enabled;
nothing but the group changes. With a snapshot pending MEASURE_CONFIGURE is answered BUSY; a rate, an enable or a kind
outside its set, or a list of other than twelve enables, refuses it whole. SNAPSHOT (R124): BUSY while one is pending,
else pending with the kind given, with the number it will bear; a kind outside its set is refused. The wire codes of
the sweep rates are the model's choice (log 11), and so is the order of two refusals (log 4). -/
def Obligations.UnitConfiguresSet : Prop :=
  ((∀ (h w i : Option Nat) (a : Option Bool) (rest : List Byte) (s : State), s.asks (0x08 :: rest) →
    readAll (rPair (rArg (rNat 1)) (rPair (rArg (rNat 1)) (rPair (rArg (rNat 1)) (rArg (rEnum onOff))))) rest
      = some (h, w, i, a.map .known) →
    ∃ g : GateSettings,
      g.hitThreshold = (h.map fun x => max 6 (min 24 x)).getD s.settings.gate.hitThreshold
      ∧ g.windowWidth = (w.map fun x => max 2 (min 8 x)).getD s.settings.gate.windowWidth
      ∧ g.impulseThreshold = (i.map fun x => max 1 (min 100 x)).getD s.settings.gate.impulseThreshold
      ∧ g.agreementEnable = a.getD s.settings.gate.agreementEnable
      ∧ exec (.gateConfigure h w i (a.map .known)) s = .next (State.settle (State.replied
        { s with settings := { s.settings with gate := g } } 0x08 .ok
        (w8 g.hitThreshold ++ w8 g.windowWidth ++ w8 g.impulseThreshold ++ wBool g.agreementEnable))))
  ∧ (∀ (h w i : Option Nat) (c : Nat) (rest : List Byte) (s : State), s.asks (0x08 :: rest) →
    readAll (rPair (rArg (rNat 1)) (rPair (rArg (rNat 1)) (rPair (rArg (rNat 1)) (rArg (rEnum onOff))))) rest
      = some (h, w, i, some (.outside c)) →
    exec (.gateConfigure h w i (some (.outside c))) s = .next (s.replied 0x08 .badArgument []).settle)
  ∧ (∀ (t c r : Option Nat) (rest : List Byte) (s : State), s.asks (0x28 :: rest) →
    readAll (rPair (rArg (rNat 2)) (rPair (rArg (rNat 2)) (rArg (rNat 1)))) rest = some (t, c, r) →
    ∃ g : SupplySettings,
      g.reserveThreshold = (t.map fun x => max 1080 (min 1240 x)).getD s.settings.supply.reserveThreshold
      ∧ g.cutoff = min ((c.map fun x => max 960 (min 1100 x)).getD s.settings.supply.cutoff) (g.reserveThreshold - 50)
      ∧ g.renLimit = (r.map fun x => max 5 (min 50 x)).getD s.settings.supply.renLimit
      ∧ exec (.supplyConfigure t c r) s = .next (State.settle (State.replied
        { s with settings := { s.settings with supply := g } } 0x28 .ok
        (w16 g.reserveThreshold ++ w16 g.cutoff ++ w8 g.renLimit))))
  ∧ ∀ (r : Option SweepRate) (k : Option SnapKind) (es : Option (List Bool)) (rest : List Byte) (s : State),
    s.asks (0x21 :: rest) →
    readAll (rPair (rArg (rEnum sweepRates)) (rPair (rArg (rList (rEnum onOff))) (rArg (rEnum snapKinds)))) rest
      = some (r.map .known, es.map (·.map .known), k.map .known) →
    (s.mu.pending.isSome = true → (∀ l, es = some l → l.length ≤ 12) →
      exec (.measureConfigure (r.map .known) (es.map (·.map .known)) (k.map .known)) s
        = .next (s.replied 0x21 .busy []).settle)
    ∧ (s.mu.pending = none → (∃ l, es = some l ∧ l.length ≠ 12) →
      exec (.measureConfigure (r.map .known) (es.map (·.map .known)) (k.map .known)) s
        = .next (s.replied 0x21 .badArgument []).settle)
    ∧ (s.mu.pending = none → (∀ l, es = some l → l.length = 12) → ∃ g : MeasureSettings,
      g.rate = r.getD s.settings.measure.rate ∧ g.kind = k.getD s.settings.measure.kind
      ∧ (es = none → g.enables = s.settings.measure.enables)
      ∧ (∀ l, es = some l → ∀ c : Chan, g.enables.get c = (Chan.supervision c || (l[c.ctorIdx]?).getD false))
      ∧ exec (.measureConfigure (r.map .known) (es.map (·.map .known)) (k.map .known)) s = .next (State.settle
        (State.replied { s with settings := { s.settings with measure := g } } 0x21 .ok (measureBytes g)))))
  ∧ (∀ (r : Option (Enum SweepRate)) (es : Option (List (Enum Bool))) (k : Option (Enum SnapKind)) (rest : List Byte)
      (s : State), s.asks (0x21 :: rest) →
    readAll (rPair (rArg (rEnum sweepRates)) (rPair (rArg (rList (rEnum onOff))) (rArg (rEnum snapKinds)))) rest
      = some (r, es, k) →
    (s.mu.pending ≠ none → (∀ l, es = some l → l.length ≤ 12) →
      exec (.measureConfigure r es k) s = .next (s.replied 0x21 .busy []).settle)
    ∧ (s.mu.pending = none →
      (∃ c, r = some (.outside c)) ∨ (∃ c, k = some (.outside c)) ∨ (∃ l c, es = some l ∧ .outside c ∈ l) →
      exec (.measureConfigure r es k) s = .next (s.replied 0x21 .badArgument []).settle))
  ∧ (∀ (b : Byte) (s : State), s.asks [0x20, 1, b] →
    (∀ k : SnapKind, b.toNat = k.ctorIdx →
      (s.mu.pending ≠ none → exec (.snapshot (.known k)) s = .next (s.replied 0x20 .busy []).settle)
      ∧ (s.mu.pending = none → exec (.snapshot (.known k)) s = .next (State.settle (State.replied
          { s with mu := { s.mu with pending := some { cause := .requested, kind := k } } } 0x20 .ok
          (w16 ((s.mu.snapNumber + 1) % 65536))))))
    ∧ (2 ≤ b.toNat → exec (.snapshot (.outside b.toNat)) s = .next (s.replied 0x20 .badArgument []).settle))

/-- PORT_CONFIGURE (R93) and CADENCE_SET (R94): refused in custody PART with nothing changed; otherwise the settings,
with times rounded to 50 ms and clamped, take effect, port enable placing or removing DISABLED, and a port ringing
with the cadence replaced takes its next phase from pair 0. The wire codes of the frequencies are the model's choice
(log 11), and so are the echo of CADENCE_SET, the number and then the list (log 12), and that a list of more than four
pairs is refused with BAD_ARGUMENT in custody PART too (log 4; R94 names REFUSED_STATE first). -/
def Obligations.PortSettingsSet : Prop :=
  (∀ (p : Enum Port) (e : Option (Enum Bool)) (l t : Option Nat) (f : Option (Enum RingFreq))
      (fe li re ic : Option (Enum Bool)) (rest : List Byte) (s : State), s.asks (0x10 :: rest) →
    readAll rPortArgs rest = some ⟨p, e, l, t, f, fe, li, re, ic⟩ →
    (s.cc.custody = .part → exec (.portConfigure p e l t f fe li re ic) s
      = .next (s.replied 0x10 .refusedState []).settle)
    ∧ (s.cc.custody ≠ .part → ∀ (q : Port) (e' fe' li' re' ic' : Option Bool) (f' : Option RingFreq), p = .known q →
        e = e'.map .known → f = f'.map .known → fe = fe'.map .known → li = li'.map .known → re = re'.map .known →
        ic = ic'.map .known →
        ∃ (v : State) (g : PortSettings),
          g.enable = e'.getD (s.settings.ports.get q).enable
          ∧ g.currentLimit = (l.map fun x => max 18 (min 32 x)).getD (s.settings.ports.get q).currentLimit
          ∧ g.offHookThreshold = (t.map fun x => max 8 (min 16 x)).getD (s.settings.ports.get q).offHookThreshold
          ∧ g.frequency = f'.getD (s.settings.ports.get q).frequency
          ∧ g.fenceExposed = fe'.getD (s.settings.ports.get q).fenceExposed
          ∧ g.lifelineMarked = li'.getD (s.settings.ports.get q).lifelineMarked
          ∧ g.reverseOnAnswer = re'.getD (s.settings.ports.get q).reverseOnAnswer
          ∧ g.intercomEnable = ic'.getD (s.settings.ports.get q).intercomEnable
          ∧ v.settings = { s.settings with ports := s.settings.ports.set q g }
          ∧ (v.port q).hold.disabled = !g.enable
          ∧ (v.port q.other).hold.disabled = (s.port q.other).hold.disabled
          ∧ v.sts = s.sts ∧ v.uptime = s.uptime ∧ v.sup.mode = s.sup.mode ∧ v.cc.custody = s.cc.custody
          ∧ v.plk.requests = s.plk.requests ∧ v.mu.accounts = s.mu.accounts ∧ v.ss.upQueue = s.ss.upQueue
          ∧ exec (.portConfigure p e l t f fe li re ic) s = .next (State.settle (v.replied 0x10 .ok
              (portSettingsBytes g))))
    ∧ (s.cc.custody ≠ .part →
        (∃ c, p = .outside c ∨ e = some (.outside c) ∨ f = some (.outside c) ∨ fe = some (.outside c)
          ∨ li = some (.outside c) ∨ re = some (.outside c) ∨ ic = some (.outside c)) →
        exec (.portConfigure p e l t f fe li re ic) s = .next (s.replied 0x10 .badArgument []).settle))
  ∧ ∀ (n : Nat) (ps : List (Nat × Nat)) (rest : List Byte) (s : State), s.asks (0x11 :: rest) →
    readAll (rPair (rReq (rNat 1)) (rReq (rList (rPair (rNat 2) (rNat 2))))) rest = some (n, ps) →
    (4 < ps.length → exec (.cadenceSet n ps) s = .next (s.replied 0x11 .badArgument []).settle)
    ∧ (ps.length ≤ 4 → s.cc.custody = .part → exec (.cadenceSet n ps) s
      = .next (s.replied 0x11 .refusedState []).settle)
    ∧ (ps.length ≤ 4 → s.cc.custody ≠ .part → 3 < n ∨ ps = [] → exec (.cadenceSet n ps) s
      = .next (s.replied 0x11 .badArgument []).settle)
    ∧ (ps.length ≤ 4 → s.cc.custody ≠ .part → n ≤ 3 → ps ≠ [] →
      ∃ c : Cadence, c = (ps.map fun x =>
            (max 100 (min 4000 ((x.1 + 25) / 50 * 50)), max 100 (min 6000 ((x.2 + 25) / 50 * 50))))
        ∧ exec (.cadenceSet n ps) s = .next (State.settle (State.replied
          { s with
            settings := { s.settings with cadences := Cadences.set s.settings.cadences n c }
            ports :=
              { a := if s.ports.a.ringRequest = some n then
                    { s.ports.a with cadence := s.ports.a.cadence.map fun k => { k with restart := true } }
                  else s.ports.a
                b := if s.ports.b.ringRequest = some n then
                    { s.ports.b with cadence := s.ports.b.cadence.map fun k => { k with restart := true } }
                  else s.ports.b } }
          0x11 .ok (w8 n ++ wList (fun x : Nat × Nat => w16 x.1 ++ w16 x.2) c))))

/-- FAULT_POLICY (R165): policy and level of a record and the five thresholds, each clamped to its range; a run in
progress keeps its run policy; a policy the class does not allow, a record that does not exist, or a policy or level
without a record is refused. A new policy other than SILENT raises at once a condition record in CLEAR or RECOVERED
whose condition is present, by R155 with its action (R158); otherwise the group alone changes, with the FAULT notice
where the pin moved (R161). That the raise counts as an occurrence and leaves the last value is the model's choice (log
72), and so are field order, presence bytes and numberings that R168 leaves open (log 12). -/
def Obligations.FaultPolicySets : Prop :=
  ∀ (r : Option (Enum FaultId)) (p : Option (Enum Policy)) (l a b c f k : Option Nat) (rest : List Byte) (s : State),
    s.asks (0x38 :: rest) → readAll rPolicyArgs rest = some ⟨r, p, l, a, b, c, f, k⟩ →
    (∀ (i : FaultId) (q : Option Policy), r = some (.known i) → p = q.map .known →
      (∀ x, q = some x → FaultId.allows i x = true) →
      ∃ v : State, v.settings = { s.settings with faults :=
          { records := s.settings.faults.records.set i
              { policy := q.getD (s.faultSetting i).policy
                level := (l.map fun x => max 1 (min 15 x)).getD (s.faultSetting i).level }
            pinThreshold := (a.map fun x => max 1 (min 15 x)).getD s.settings.faults.pinThreshold
            noticeThreshold := (b.map fun x => max 1 (min 15 x)).getD s.settings.faults.noticeThreshold
            beaconThreshold := (c.map fun x => max 1 (min 15 x)).getD s.settings.faults.beaconThreshold
            foreignThreshold := (f.map fun x => max 10 (min 60 x)).getD s.settings.faults.foreignThreshold
            leakageThreshold := (k.map fun x => max 20 (min 2000 x)).getD s.settings.faults.leakageThreshold } }
        ∧ ((s.faultRec i).state.isOpen = true → (v.faultRec i).run = (s.faultRec i).run)
        ∧ (∀ w : State, w = { s with settings := v.settings } →
          q = none ∨ q = some .silent ∨ FaultId.isCondition i = false ∨ (s.faultRec i).condition = false
            ∨ (s.faultRec i).state.isOpen = true → v = w.raiseIf (s.faultPin != w.faultPin) .fault)
        ∧ (∀ x : Policy, q = some x → x ≠ .silent → FaultId.isCondition i = true → (s.faultRec i).condition = true →
          (s.faultRec i).state.isOpen = false →
          v.faultRec i = { s.faultRec i with
              state := if x = .latched then .latched else .active, run := some x, retry := none
              count := min 255 ((s.faultRec i).count + 1), lastSeen := some s.uptime
              firstSeen := (s.faultRec i).firstSeen <|> some s.uptime }
          ∧ (x = .report → v.fs.history = List.drop (s.fs.history.length + 1 - 32)
                (s.fs.history ++ [⟨s.fs.nextSeq, s.uptime, i, .raised, (s.faultRec i).value⟩])
              ∧ v.fs.nextSeq = (s.fs.nextSeq + 1) % 65536 ∧ v.le = s.le ∧ v.ports = s.ports ∧ v.cc = s.cc
              ∧ v.ss = s.ss)
          ∧ (x = .latched → i = .trainFail → v.le.hold.latched = true)
          ∧ (x ≠ .report → i = .foreignVoltage → v.le.hold.foreign = true)
          ∧ (x ≠ .report → i = .thermalWarn → v.le.thermalTrim = true)
          ∧ (i = .thermalShutdown → v.le.hold.thermal = true ∧ ∀ p, (v.port p).hold.thermal = true))
        ∧ v.sts = s.sts ∧ v.uptime = s.uptime ∧ v.sup.mode = s.sup.mode ∧ v.plk.requests = s.plk.requests
        ∧ exec (.faultPolicy r p l a b c f k) s = .next (State.settle (v.replied 0x38 .ok
            (1 :: (w8 (v.faultSetting i).policy.ctorIdx ++ w8 (v.faultSetting i).level)
              ++ thresholdBytes v.settings.faults))))
    ∧ (r = none → p = none → l = none → ∃ (v : State) (g : FaultSettings),
      g.records = s.settings.faults.records
      ∧ g.pinThreshold = (a.map fun x => max 1 (min 15 x)).getD s.settings.faults.pinThreshold
      ∧ g.noticeThreshold = (b.map fun x => max 1 (min 15 x)).getD s.settings.faults.noticeThreshold
      ∧ g.beaconThreshold = (c.map fun x => max 1 (min 15 x)).getD s.settings.faults.beaconThreshold
      ∧ g.foreignThreshold = (f.map fun x => max 10 (min 60 x)).getD s.settings.faults.foreignThreshold
      ∧ g.leakageThreshold = (k.map fun x => max 20 (min 2000 x)).getD s.settings.faults.leakageThreshold
      ∧ v = { s with settings := { s.settings with faults := g } }
      ∧ exec (.faultPolicy r p l a b c f k) s = .next (State.settle
          (State.replied (v.raiseIf (s.faultPin != v.faultPin) .fault) 0x38 .ok (0 :: thresholdBytes g))))
    ∧ ((∃ i q, r = some (.known i) ∧ p = some (.known q) ∧ FaultId.allows i q = false)
        ∨ (∃ i x, r = some (.known i) ∧ p = some (.outside x)) ∨ (∃ x, r = some (.outside x))
        ∨ (r = none ∧ (p ≠ none ∨ l ≠ none)) →
      exec (.faultPolicy r p l a b c f k) s = .next (s.replied 0x38 .badArgument []).settle)

/-- TONE_MASK (R37): the ranges are refused outside tones 32 to 255 or in reverse, or more than 16, or none except for
REPLACE, as is an action outside its set; in service a mask that leaves the computed table below 30 bits is refused;
out of service and outside EXCHANGE the mask in force follows at once; in EXCHANGE it does not. That the mask is
tested with the effective profile while another is pending is log 49, that the marks of an empty table follow the mask
log 47, and the byte of a mask not yet in force log 58. -/
def Obligations.ToneMaskSets : Prop :=
  (∀ (b : Byte) (rs : List (Nat × Nat)) (rest : List Byte) (s : State), s.asks (0x05 :: rest) →
    readAll (rPair (rReq (rEnum maskActions)) (rReq (rList (rPair (rNat 1) (rNat 1))))) rest
      = some (.outside b.toNat, rs) →
    exec (.toneMask (.outside b.toNat) rs) s = .next (s.replied 0x05 .badArgument []).settle)
  ∧ ∀ (a : MaskAction) (rs : List (Nat × Nat)) (rest : List Byte) (s : State), s.asks (0x05 :: rest) →
    readAll (rPair (rReq (rEnum maskActions)) (rReq (rList (rPair (rNat 1) (rNat 1))))) rest = some (.known a, rs) →
    (16 < rs.length ∨ (rs = [] ∧ a ≠ .replace) ∨ (∃ x ∈ rs, x.1 < 32 ∨ 255 < x.2 ∨ x.2 < x.1) →
      exec (.toneMask (.known a) rs) s = .next (s.replied 0x05 .badArgument []).settle)
    ∧ (rs.length ≤ 16 → (rs = [] → a = .replace) → (∀ x ∈ rs, 32 ≤ x.1 ∧ x.2 ≤ 255 ∧ x.1 ≤ x.2) →
      ∀ m : List Bool, m = maskBy a s.settings.line.requestedMask rs →
        (s.le.link = .inService → (s.computeDown m s.effProfile).sum < 30 →
          exec (.toneMask (.known a) rs) s = .next (s.replied 0x05 .refusedState []).settle)
        ∧ (s.le.link = .inService → 30 ≤ (s.computeDown m s.effProfile).sum → s.tt.inFlight ≠ .none →
          exec (.toneMask (.known a) rs) s = .next (State.settle (State.replied
            { s with
              settings := { s.settings with line := { s.settings.line with requestedMask := m } }
              tt := { s.tt with waitingRate := some .mask } } 0x05 .ok
            (w8 (m.filter id).length ++ wBool (s.tt.maskInForce != m)))))
        ∧ (s.le.link = .inService → 30 ≤ (s.computeDown m s.effProfile).sum → s.tt.inFlight = .none →
          s.le.pending = none →
          ∃ (v : State) (n : Option Nat), exec (.toneMask (.known a) rs) s = .next (State.settle (v.replied 0x05 .ok
              (w8 (m.filter id).length ++ wBool (s.tt.maskInForce != m))))
            ∧ v.settings = { s.settings with line := { s.settings.line with requestedMask := m } }
            ∧ v.tt = { s.tt with inFlight := v.tt.inFlight }
            ∧ v.tt.inFlight = .rate ⟨s.computeDown m s.effProfile, m, Profile.level s.le.inForce, .mask⟩ n none
            ∧ v.le = s.le ∧ v.ft = s.ft ∧ v.ports = s.ports ∧ v.cc = s.cc ∧ v.mu = s.mu ∧ v.sup = s.sup
            ∧ v.tu = s.tu ∧ v.fs = s.fs ∧ v.plk = s.plk ∧ v.sts = s.sts ∧ v.uptime = s.uptime)
        ∧ (s.le.link = .exchange → exec (.toneMask (.known a) rs) s = .next (State.settle (State.replied
            { s with settings := { s.settings with line := { s.settings.line with requestedMask := m } } } 0x05 .ok
            (w8 (m.filter id).length ++ wBool (s.tt.maskInForce != m)))))
        ∧ (s.le.link ≠ .inService → s.le.link ≠ .exchange →
          exec (.toneMask (.known a) rs) s = .next (State.settle (State.replied
            { s with
              settings := { s.settings with line := { s.settings.line with requestedMask := m } }
              tt := { s.tt with
                maskInForce := m
                down := List.zipWith (fun t k => { t with masked := k }) s.tt.down m } } 0x05 .ok
            (w8 (m.filter id).length ++ [0])))))

/-- SETTINGS_SAVE and the end of its write (R178): the running settings with their check, and the reply when the write
ends; until then the record is not whole and the request holds the queue. IDENTITY_WRITE, CALIBRATE and the end of
their write (R179): refused with PROTECTED while the strap is low, with BAD_ARGUMENT for an identifier or channel
outside its range; gain and offset are clamped; the values are in use when the write ends, with the reply.
SETTINGS_DEFAULTS (R178): refused in custody PART; otherwise the eight groups take the defaults, and neither the
stored record nor custody, mode or history of snapshots changes. The bytes under the two checks are free values (log
13). -/
def Obligations.StoresAreWritten : Prop :=
  ((∀ s : State, s.asks [0x40] → s.sts.writing = none →
    exec .settingsSave s = .next (State.settle
      { s with
        sts := { s.sts with writing := some (.save s.settings)
                            stored := s.sts.stored.map fun r => { r with whole := false } }
        plk := { s.plk with requests := markExecuting s.plk.requests } }))
  ∧ ∀ (v : Settings) (s : State), s.dormant = false → s.sts.writing = some (.save v) →
    ∃ w : State, w = { s with sts := { s.sts with
          writing := none
          stored := some { values := v, check := crc16 (Config.recordImage v), whole := true } } }
      ∧ (∀ e, s.plk.front = some e → e.executing = true →
          exec .settingsSaveWriteEnd s = .next (State.settle (w.replied (codeOf e.body) .ok
            (w16 (crc16 (Config.recordImage v)).toNat))))
      ∧ (s.plk.front = none → exec .settingsSaveWriteEnd s = .next w.settle))
  ∧ ((∀ (n : Nat) (l : List Byte) (rest : List Byte) (s : State), s.asks (0x43 :: rest) →
    readAll (rPair (rReq (rNat 4)) (rReq (rList rByte))) rest = some (n, l) → s.sts.writing = none →
    (s.sts.strap = false → exec (.identityWrite n l) s = .next (s.replied 0x43 .isProtected []).settle)
    ∧ (s.sts.strap = true → (16 < l.length ∨ ∃ b ∈ l, b.toNat < 0x20 ∨ 0x7E < b.toNat) →
      exec (.identityWrite n l) s = .next (s.replied 0x43 .badArgument []).settle)
    ∧ (s.sts.strap = true → l.length ≤ 16 → (∀ b ∈ l, 0x20 ≤ b.toNat ∧ b.toNat ≤ 0x7E) →
      exec (.identityWrite n l) s = .next (State.settle
        { s with
          sts := { s.sts with
            writing := some (.region { s.sts.region with serial := some n, ident := some l }
              (w32 n ++ wList (fun b => [b]) l))
            storedRegion := s.sts.storedRegion.map fun r => { r with whole := false } }
          plk := { s.plk with requests := markExecuting s.plk.requests } })))
  ∧ (∀ (ch g : Nat) (o : Int) (rest : List Byte) (s : State), s.asks (0x44 :: rest) →
    readAll (rPair (rReq (rNat 1)) (rPair (rReq (rNat 2)) (rReq rInt16))) rest = some (ch, g, o) →
    s.sts.writing = none →
    (s.sts.strap = false → exec (.calibrate ch g o) s = .next (s.replied 0x44 .isProtected []).settle)
    ∧ (s.sts.strap = true → 11 < ch → exec (.calibrate ch g o) s = .next (s.replied 0x44 .badArgument []).settle)
    ∧ (∀ c : Chan, s.sts.strap = true → ch = c.ctorIdx →
      ∃ k : Calib, k.gain = max 8192 (min 24576 g) ∧ k.offset = max (-2048) (min 2048 o)
        ∧ exec (.calibrate ch g o) s = .next (State.settle
          { s with
            sts := { s.sts with
              writing := some (.region { s.sts.region with calib := s.sts.region.calib.set c k }
                (w8 ch ++ w16 k.gain ++ i16 k.offset))
              storedRegion := s.sts.storedRegion.map fun r => { r with whole := false } }
            plk := { s.plk with requests := markExecuting s.plk.requests } })))
  ∧ ∀ (g : Region) (fields : List Byte) (s : State), s.dormant = false → s.sts.writing = some (.region g fields) →
    ∃ w : State, w = { s with sts := { s.sts with
          writing := none, region := g
          storedRegion := some { values := g, check := crc16 g.image, whole := true } } }
      ∧ (∀ e, s.plk.front = some e → e.executing = true →
          exec .regionWriteEnd s = .next (w.replied (codeOf e.body) .ok fields).settle)
      ∧ (s.plk.front = none → exec .regionWriteEnd s = .next w.settle))
  ∧ (∀ s : State, s.asks [0x41] →
    (s.cc.custody = .part → exec .settingsDefaults s = .next (s.replied 0x41 .refusedState []).settle)
    ∧ (s.cc.custody ≠ .part → ∃ v : State, exec .settingsDefaults s = .next (v.replied 0x41 .ok []).settle
      ∧ v.settings = Config.defaults ∧ v.sts = s.sts ∧ v.le.hold.disabled = false
      ∧ (∀ p, (v.port p).hold.disabled = false)
      ∧ v.uptime = s.uptime ∧ v.sup.mode = s.sup.mode ∧ v.cc.custody = s.cc.custody
      ∧ v.mu.active = s.mu.active ∧ v.mu.readout = s.mu.readout ∧ v.mu.accounts = s.mu.accounts
      ∧ v.plk.requests = s.plk.requests))

/-! ## Requests that act -/

/-- RESTART (R19, R92, R181). Scope LINE: the records of the attempt and of the line are cleared, the tracker searches,
a link in service loses its transactions and its outbound queue, and the line is in QUIET with an empty hold set, else
in its held state. Scope PORTS: digits, ring requests, cadences and pulse counts go, hooks are on-hook; a port without a
hold is in STANDBY. Another scope is refused. With the attempt counter the TRAIN_FAIL condition ends (R11) and its
record moves as R155 says; the LINK_LOSS record stays as it is (R157). -/
def Obligations.RestartsClear : Prop :=
  (∀ s : State, s.asks [0x03, 1, 0] →
    ∃ v : State, exec .restartLine s = .next (v.replied 0x03 .ok [0]).settle
      ∧ v.le.attempts = 0 ∧ v.le.reduction = 0 ∧ v.le.backoffStep = 0 ∧ v.le.lastFailure = .none
      ∧ v.le.lastLoss = .none ∧ v.le.backoff = none ∧ v.le.exchange = none
      ∧ v.tt.cap = 10 ∧ total v.tt.down = 0 ∧ total v.tt.up = 0
      ∧ v.tt.maskInForce = s.settings.line.requestedMask
      ∧ v.ft.tracking = .searching ∧ v.ft.period = none ∧ v.ft.next = none
      ∧ (v.le.hold.isEmpty = true → v.le.link = .quiet ∧ v.le.phaseTimer = some 200)
      ∧ (v.le.hold.isEmpty = false → v.le.link = v.le.hold.state)
      ∧ (s.le.link = .inService → v.ss.txs = [] ∧ v.ss.outQueue = [])
      ∧ s.trainFailEnded v ∧ v.faultRec .linkLoss = s.faultRec .linkLoss
      ∧ v.settings = s.settings ∧ v.sts = s.sts ∧ v.uptime = s.uptime ∧ v.sup.mode = s.sup.mode
      ∧ v.cc.custody = s.cc.custody ∧ v.plk.requests = s.plk.requests ∧ v.ss.upQueue = s.ss.upQueue)
  ∧ (∀ s : State, s.asks [0x03, 1, 1] →
    ∃ v : State, exec .restartPorts s = .next (v.replied 0x03 .ok [1]).settle
      ∧ (∀ p, (v.port p).digits = [] ∧ (v.port p).overflow = false ∧ (v.port p).ringRequest = none
          ∧ (v.port p).cadence = none ∧ (v.port p).pulses = 0 ∧ (v.port p).hook = .onHook
          ∧ ((v.port p).hold.isEmpty = true → (v.port p).feed = .standby))
      ∧ v.settings = s.settings ∧ v.sts = s.sts ∧ v.uptime = s.uptime ∧ v.sup.mode = s.sup.mode
      ∧ v.cc.custody = s.cc.custody ∧ v.plk.requests = s.plk.requests ∧ v.mu.accounts = s.mu.accounts
      ∧ v.ss.upQueue = s.ss.upQueue)
  ∧ ∀ (b : Byte) (s : State), 2 ≤ b.toNat → s.asks [0x03, 1, b] →
    exec .restartLine s = .next (s.replied 0x03 .badArgument []).settle
    ∧ exec .restartPorts s = .next (s.replied 0x03 .badArgument []).settle

/-- Custody (R113): PART after every reset; what CUSTODY_CLAIM and CUSTODY_RELEASE do in each custody and supply mode,
the calls and their decision timers as they were; in RELEASING with no record in DECISION_WANTED custody becomes PART;
in PART five requests are refused and change nothing; the reads are answered in every custody. -/
def Obligations.CustodyMoves : Prop :=
  (∀ (strap : Bool) (s t : State), exec (.powerOnReset strap) s = .next t ∨ exec (.pinReset strap) s = .next t
      ∨ (s.dormant = true ∧ s.resetLow = false ∧ exec (.wake strap) s = .next t) → t.cc.custody = .part)
  ∧ (∀ s : State, s.asks [0x1A] →
    (s.cc.custody = .box → exec .custodyClaim s = .next (s.replied 0x1A .ok []).settle)
    ∧ (s.cc.custody ≠ .box → s.sup.mode = .mains ∨ s.sup.mode = .battery →
      exec .custodyClaim s = .next (State.settle
        ((State.raise { s with cc := { s.cc with custody := .box } } .custody).replied 0x1A .ok [])))
    ∧ (s.cc.custody ≠ .box → s.sup.mode = .start ∨ s.sup.mode = .reserve ∨ s.sup.mode = .depleted →
      exec .custodyClaim s = .next (s.replied 0x1A .refusedState []).settle))
  ∧ (∀ s : State, s.asks [0x1B] →
    (s.cc.custody ≠ .box → exec .custodyRelease s = .next (s.replied 0x1B .ok []).settle)
    ∧ (s.cc.custody = .box → (∀ p, (s.call p).sub ≠ some .decisionWanted) →
      exec .custodyRelease s = .next (State.settle
        ((State.raise { s with cc := { s.cc with custody := .part, grace := none } } .custody).replied 0x1B .ok [])))
    ∧ (s.cc.custody = .box → (∃ p, (s.call p).sub = some .decisionWanted) →
      exec .custodyRelease s = .next (State.settle
        ((State.raise { s with cc := { s.cc with custody := .releasing, grace := none } } .custody).replied 0x1B .ok
          []))))
  ∧ (∀ s : State, s.cc.custody = .releasing → (∀ p, (s.call p).sub ≠ some .decisionWanted) →
      s.settle.cc.custody = .part)
  ∧ (∀ (rest : List Byte) (s : State), s.cc.custody = .part →
    (∀ p plan, s.asks (0x18 :: rest) → readAll (rPair (rReq rPort) (rReq rPlan)) rest = some (p, plan) →
      exec (.ringPlan p plan) s = .next (s.replied 0x18 .refusedState []).settle)
    ∧ (∀ p, s.asks (0x19 :: rest) → readAll (rReq rPort) rest = some p →
      exec (.intercom p) s = .next (s.replied 0x19 .refusedState []).settle)
    ∧ (∀ p e l t f fe li re ic, s.asks (0x10 :: rest) →
      readAll rPortArgs rest = some ⟨p, e, l, t, f, fe, li, re, ic⟩ →
      exec (.portConfigure p e l t f fe li re ic) s = .next (s.replied 0x10 .refusedState []).settle)
    ∧ (∀ n ps, s.asks (0x11 :: rest) →
      readAll (rPair (rReq (rNat 1)) (rReq (rList (rPair (rNat 2) (rNat 2))))) rest = some (n, ps) → ps.length ≤ 4 →
      exec (.cadenceSet n ps) s = .next (s.replied 0x11 .refusedState []).settle)
    ∧ (s.asks [0x41] → exec .settingsDefaults s = .next (s.replied 0x41 .refusedState []).settle))
  ∧ ∀ (x : Byte × Instr) (s : State), x ∈ [(0x01, .lineStatus), (0x1C, .callStatus), (0x22, .measureRead),
      (0x29, .supplyStatus), (0x32, .testRead), (0x42, .identityRead)] → s.asks [x.1] →
    ∃ fields, exec x.2 s = .next (s.replied x.1 .ok fields).settle

/-- RING_PLAN and INTERCOM (R109, R111): refused in custody PART, and where the record waits for no decision, or for
INTERCOM is FREE or its port has intercom off; RING in STANDBY rings the port at once, but in RESERVE only where no REN
was measured or it is within the limit; SILENT rings nothing; REJECT releases the call; INTERCOM, in SEIZING with its
SEIZE not yet sent too, which is then withdrawn, rings a free port with cadence 3 and otherwise ends. That the RELEASE
shows in the record while it waits for an entry is the model's choice (log 56), and so is that nothing of an earlier
call stays in the record (log 86). -/
def Obligations.PlansAndIntercom : Prop :=
  (∀ (p : Port) (plan : Enum Plan) (rest : List Byte) (s : State), s.asks (0x18 :: rest) →
    readAll (rPair (rReq rPort) (rReq rPlan)) rest = some (.known p, plan) →
    (s.cc.custody = .part → exec (.ringPlan (.known p) plan) s = .next (s.replied 0x18 .refusedState []).settle)
    ∧ (s.cc.custody ≠ .part → (∀ c, plan = .known (.ring c) → c ≤ 3) → (∀ c, plan ≠ .outside c) →
        (s.call p).sub ≠ some .decisionWanted →
        exec (.ringPlan (.known p) plan) s = .next (s.replied 0x18 .refusedState []).settle)
    ∧ (s.cc.custody ≠ .part → (∃ c, plan = .known (.ring c) ∧ 3 < c) ∨ (∃ c, plan = .outside c) →
        exec (.ringPlan (.known p) plan) s = .next (s.replied 0x18 .badArgument []).settle)
    ∧ (s.cc.custody ≠ .part → (s.call p).sub = some .decisionWanted → (s.call p).state = .alertingIn →
        (∀ (c : Nat) (ren : Option Int), plan = .known (.ring c) → c ≤ 3 →
          ren = ((s.tu.results.get (match p with | .a => .portLoopA | .b => .portLoopB)).completed.bind fun x =>
            (x.values[1]?).map (·.value)) → ∃ v : State,
          exec (.ringPlan (.known p) plan) s = .next (v.replied 0x18 .ok []).settle
          ∧ v.call p = { s.call p with sub := some .ringingPlan, plan := some (.ring c), decision := none }
          ∧ v.call p.other = s.call p.other ∧ v.port p.other = s.port p.other
          ∧ (s.sup.mode ≠ .reserve ∨ (∀ x, ren = some x → x ≤ (s.settings.supply.renLimit : Int)) →
              (s.port p).feed = .standby →
              (v.port p).ringRequest = some c
              ∧ ((s.port p).ringInhibit = false → (v.port p).feed = .ringing)
              ∧ ((s.port p).ringInhibit = true → v.port p = { s.port p with ringRequest := some c }))
          ∧ (s.sup.mode = .reserve → (∃ x, ren = some x ∧ (s.settings.supply.renLimit : Int) < x) →
              v.port p = s.port p)
          ∧ v.settings = s.settings ∧ v.ss = s.ss ∧ v.le = s.le ∧ v.sup = s.sup ∧ v.fs = s.fs ∧ v.sts = s.sts)
        ∧ (plan = .known .silent → ∃ v : State,
          exec (.ringPlan (.known p) plan) s = .next (v.replied 0x18 .ok []).settle
          ∧ v.call p = { s.call p with sub := some .ringingPlan, plan := some .silent, decision := none }
          ∧ v.ports = s.ports ∧ v.call p.other = s.call p.other ∧ v.ss = s.ss ∧ v.le = s.le ∧ v.sup = s.sup)
        ∧ (plan = .known .reject → ∃ v : State,
          exec (.ringPlan (.known p) plan) s = .next (v.replied 0x18 .ok []).settle
          ∧ (v.call p).state = .clearing ∧ (v.call p).cause = .rejected ∧ (v.call p).txs.release = true
          ∧ (v.call p).channel = (s.call p).channel ∧ v.call p.other = s.call p.other)))
  ∧ (∀ (b : Byte) (plan : Enum Plan) (rest : List Byte) (s : State), b ≠ 1 → b ≠ 2 → s.asks (0x18 :: rest) →
    readAll (rPair (rReq rPort) (rReq rPlan)) rest = some (.outside b.toNat, plan) → s.cc.custody ≠ .part →
    exec (.ringPlan (.outside b.toNat) plan) s = .next (s.replied 0x18 .badArgument []).settle)
  ∧ ∀ (p : Port) (s : State), s.asks (0x19 :: 1 :: wPort p) →
    (s.cc.custody = .part → exec (.intercom (.known p)) s = .next (s.replied 0x19 .refusedState []).settle)
    ∧ (s.cc.custody ≠ .part → (s.settings.ports.get p).intercomEnable = false ∨ (s.call p).state = .free →
      exec (.intercom (.known p)) s = .next (s.replied 0x19 .refusedState []).settle)
    ∧ (s.cc.custody ≠ .part → (s.settings.ports.get p).intercomEnable = true →
      (s.call p).state = .localOnly ∨ (s.call p).state = .blocked ∨ ((s.call p).state = .seizing
        ∧ ((s.call p).txs.seize = false ∨ ∃ r ∈ s.ss.waiting, r.kind = .seize ∧ r.port = some p)) →
      ∃ v : State, exec (.intercom (.known p)) s = .next (v.replied 0x19 .ok []).settle
        ∧ (v.call p).dir = some .intercom ∧ (v.call p).cause = .none ∧ (v.call p).admission = none
        ∧ (v.call p).txs.seize = false
        ∧ ((s.call p.other).state = .free → (s.port p.other).hold.isEmpty = true → (s.port p.other).hook = .onHook →
            (v.call p).state = .intercomCalling ∧ (v.call p.other).state = .intercomRinging
            ∧ (v.call p.other).alert = some 120000
            ∧ ((s.port p.other).feed = .standby → (v.port p.other).ringRequest = some 3))
        ∧ ((s.call p.other).state ≠ .free ∨ (s.port p.other).hook ≠ .onHook
              ∨ (s.port p.other).hold.isEmpty = false →
            (v.call p).state = .intercomEnded ∧ v.call p.other = s.call p.other)
        ∧ ((s.call p).state ≠ .seizing → v.ss = s.ss)
        ∧ ((s.call p).state = .seizing → v.ss = { s.ss with
            waiting := s.ss.waiting.filter fun r => !(r.kind == .seize && r.port == some p) })
        ∧ v.settings = s.settings ∧ v.le = s.le ∧ v.sup = s.sup ∧ v.sts = s.sts)
    ∧ (s.cc.custody ≠ .part → (s.settings.ports.get p).intercomEnable = true →
      ((s.call p).state = .dialling ∧ ∀ e ∈ (s.port p).digits, e.mark ≠ .forwarded)
        ∨ ((s.call p).state = .seizing ∧ s.seizeSent p = true) →
      ∃ v : State, exec (.intercom (.known p)) s = .next (v.replied 0x19 .ok []).settle
        ∧ (v.call p).state = .clearing ∧ (v.call p).cause = .intercom ∧ v.call p.other = s.call p.other
        ∧ v.settings = s.settings ∧ v.le.link = s.le.link ∧ v.sup = s.sup ∧ v.sts = s.sts)
    ∧ ∀ b : Byte, b ≠ 1 → b ≠ 2 → ∀ t : State, t.asks [0x19, 1, b] → t.cc.custody ≠ .part →
      exec (.intercom (.outside b.toNat)) t = .next (t.replied 0x19 .badArgument []).settle

/-- TEST_START and TEST_ABORT (R144, R145, R148, R149, R152): a kind that does not fit its target is refused; a
running test answers BUSY or CONFLICT; a test that the supply mode does not permit, RESERVE an active one, a
LINE_INSULATION with a line call CONNECTED, and a PORT_LOOP of a port not on-hook, not FREE or held are refused with
the reason SUPPLY, CALL or PORT_STATE; LINE_FOREIGN runs 1 s over the three line channels and holds nothing,
LINE_INSULATION 3 s over them with TEST in the line hold set, PORT_LOOP 2 s in TESTING; an active test applies the
measuring source to its target (R146); an abort ends the host's test ABORTED with cause REQUESTED and removes it. -/
def Obligations.TestsStartAndAbort : Prop :=
  (∀ (k : TestKind) (t : Target) (s : State), s.asks [0x30, 1, BitVec.ofNat 8 k.ctorIdx, 1, BitVec.ofNat 8 t.ctorIdx] →
    (TestKind.fits k t = false →
      exec (.testStart (.known k) (.known t)) s = .next (s.replied 0x30 .badArgument []).settle)
    ∧ (TestKind.fits k t = true → ∀ c, s.tu.current = some c →
      exec (.testStart (.known k) (.known t)) s
        = .next (s.replied 0x30 (if c.requester = .box then .busy else .conflict) []).settle)
    ∧ (TestKind.fits k t = true → s.tu.current = none → s.sup.mode = .start ∨ s.sup.mode = .depleted →
      exec (.testStart (.known k) (.known t)) s = .next (s.replied 0x30 .refusedState [0]).settle)
    ∧ (k = .portLoop → t ≠ .line → s.tu.current = none → s.sup.mode = .mains ∨ s.sup.mode = .battery →
      (s.port (Target.port t)).hook ≠ .onHook ∨ (s.call (Target.port t)).state ≠ .free
        ∨ (s.port (Target.port t)).hold.isEmpty = false →
      exec (.testStart (.known k) (.known t)) s = .next (s.replied 0x30 .refusedState [2]).settle)
    ∧ (k ≠ .lineForeign → TestKind.fits k t = true → s.tu.current = none → s.sup.mode = .reserve →
      exec (.testStart (.known k) (.known t)) s = .next (s.replied 0x30 .refusedState [0]).settle)
    ∧ (k = .lineInsulation → t = .line → s.tu.current = none → s.sup.mode = .mains ∨ s.sup.mode = .battery →
      ((∃ p, (s.call p).state = .connected ∧ (s.call p).channel ≠ none) →
        exec (.testStart (.known k) (.known t)) s = .next (s.replied 0x30 .refusedState [1]).settle)
      ∧ ((∀ p, (s.call p).state = .connected → (s.call p).channel = none) → s.le.hold.test = false →
        ∃ v : State, exec (.testStart (.known k) (.known t)) s
            = .next (v.replied 0x30 .ok (w8 1 ++ w8 0 ++ w16 3000)).settle
          ∧ v.tu.current = some
              { kind := .lineInsulation, target := .line, requester := .box, priority := false, reqNumber := none
                phase := .running, start := some s.uptime, timeLeft := some 3000, arm := none
                r0 := ⟨0, 0, 0⟩, r1 := ⟨0, 0, 0⟩, r2 := ⟨0, 0, 0⟩ }
          ∧ v.measuringSource = some .line
          ∧ v.le.hold = { s.le.hold with test := true } ∧ v.le.link = v.le.hold.state
          ∧ (∀ ch, (v.mu.chans.get ch).owned
              = ((s.mu.chans.get ch).owned || ch == .lineTipE || ch == .lineRingE || ch == .lineTR))
          ∧ (s.le.link = .inService → ∀ p, (v.call p).lineCall = false)
          ∧ v.ports.a.hold = s.ports.a.hold ∧ v.ports.b.hold = s.ports.b.hold ∧ v.settings = s.settings
          ∧ v.sts = s.sts ∧ v.sup.mode = s.sup.mode ∧ v.mu.accounts = s.mu.accounts))
    ∧ (k = .lineForeign → t = .line → s.tu.current = none →
      s.sup.mode = .mains ∨ s.sup.mode = .battery ∨ s.sup.mode = .reserve →
      ∃ v : State, exec (.testStart (.known k) (.known t)) s
          = .next (v.replied 0x30 .ok (w8 0 ++ w8 0 ++ w16 1000)).settle
        ∧ v.tu.current = some
            { kind := .lineForeign, target := .line, requester := .box, priority := false, reqNumber := none
              phase := .running, start := some s.uptime, timeLeft := some 1000, arm := none
              r0 := ⟨0, 0, 0⟩, r1 := ⟨0, 0, 0⟩, r2 := ⟨0, 0, 0⟩ }
        ∧ v.mu.chans = { s.mu.chans with
            lineTipE := { s.mu.chans.lineTipE with owned := true }
            lineRingE := { s.mu.chans.lineRingE with owned := true }
            lineTR := { s.mu.chans.lineTR with owned := true } }
        ∧ v.measuringSource = none
        ∧ v.le = s.le ∧ v.ports = s.ports ∧ v.cc = s.cc ∧ v.settings = s.settings ∧ v.fs = s.fs ∧ v.ss = s.ss)
    ∧ (∀ p : Port, k = .portLoop → Target.port t = p → t ≠ .line → s.tu.current = none →
      s.sup.mode = .mains ∨ s.sup.mode = .battery → (s.port p).hook = .onHook → (s.call p).state = .free →
      (s.port p).hold.isEmpty = true → (s.port p).feed = .standby →
      ∃ v : State, exec (.testStart (.known k) (.known t)) s
          = .next (v.replied 0x30 .ok (w8 2 ++ w8 t.ctorIdx ++ w16 2000)).settle
        ∧ (v.port p).feed = .testing ∧ (v.port p).hold = { (s.port p).hold with test := true }
        ∧ v.measuringSource = some t
        ∧ v.port p.other = s.port p.other ∧ v.cc = s.cc ∧ v.le = s.le ∧ v.settings = s.settings))
  ∧ ∀ s : State, s.asks [0x31] →
    (s.tu.current = none → exec .testAbort s = .next (s.replied 0x31 .refusedState []).settle)
    ∧ (∀ c, s.tu.current = some c → c.requester = .operator →
      exec .testAbort s = .next (s.replied 0x31 .conflict []).settle)
    ∧ (∀ c, s.tu.current = some c → c.requester = .box →
      ∃ v : State, exec .testAbort s = .next (v.replied 0x31 .ok []).settle
        ∧ v.tu.current = none ∧ v.measuringSource = none
        ∧ v.tu.lastWritten = some (TestKind.result c.kind c.target)
        ∧ (v.tu.results.get (TestKind.result c.kind c.target)).latest
            = some { outcome := .aborted, cause := some .requested, requester := .box, endTime := s.uptime }
        ∧ (v.tu.results.get (TestKind.result c.kind c.target)).completed
            = (s.tu.results.get (TestKind.result c.kind c.target)).completed
        ∧ (∀ ch ∈ TestKind.channels c.kind c.target, (v.mu.chans.get ch).owned = false)
        ∧ v.settings = s.settings ∧ v.sts = s.sts ∧ v.uptime = s.uptime ∧ v.sup.mode = s.sup.mode
        ∧ v.mu.accounts = s.mu.accounts ∧ v.plk.requests = s.plk.requests)

/-- FAULT_CLEAR (R166), in every state and custody, of one record or of ALL: a RECOVERED record, and a LATCHED one whose
condition is absent, with its action lifted, becomes CLEAR with a CLEARED entry and keeps only its condition; every
other record stays; the reply lists class, source and resulting state, with ALL of all sixteen in the table's order; a
class and source that name no record is refused. An end report in flight for a record cleared runs to its carriage,
which then changes no record. An expiry that comes first brings RECOVERED. The clear of LINK_LOSS alone in LATCHED
frees the line, which goes to QUIET with its attempt counter. Premises: the law of the line hold set (R2), and no
LATCHED for THERMAL_WARN, which R154 allows no such policy. -/
def Obligations.FaultClearClears : Prop :=
  (∀ (i : FaultId) (s : State), s.asks (0x39 :: 1 :: 0 :: wFault i) →
    ((s.faultRec i).clearable → ∃ v : State,
      exec (.faultClear (.one (some i))) s = .next (State.settle (v.replied 0x39 .ok (w8 1 ++ wFault i ++ w8 0)))
        ∧ v.faultRec i = (s.faultRec i).cleared
        ∧ (∃ e ∈ v.fs.history, e.seq = s.fs.nextSeq ∧ e.uptime = s.uptime ∧ e.record = i ∧ e.transition = .cleared
            ∧ e.value = (s.faultRec i).value)
        ∧ (s.le.held → (s.faultRec .thermalWarn).state ≠ .latched →
          ((s.faultRec i).state = .latched → v.lifted i)
          ∧ (∀ j, j ≠ i → v.faultRec j = s.faultRec j)
          ∧ (s.fs.endReport = some i → v.fs.endReport = some i ∧ v.fs.endVoid = true))
        ∧ (i = .linkLoss → (s.faultRec i).state = .latched → (s.faultRec .trainFail).state ≠ .latched →
            s.le.link = .idle → s.le.hold = ⟨false, true, false, false, false, false⟩ →
            v.le.link = .quiet ∧ v.le.phaseTimer = some 200 ∧ v.le.attempts = s.le.attempts)
        ∧ v.settings = s.settings ∧ v.sts = s.sts ∧ v.uptime = s.uptime ∧ v.sup.mode = s.sup.mode
        ∧ v.plk.requests = s.plk.requests)
    ∧ (¬ (s.faultRec i).clearable →
      exec (.faultClear (.one (some i))) s = .next (State.settle (s.replied 0x39 .ok
          (w8 1 ++ wFault i ++ w8 (s.faultRec i).state.ctorIdx)))))
  ∧ (∀ s : State, s.asks [0x39, 1, 1] →
    ((∀ i, ¬ (s.faultRec i).clearable) →
      exec (.faultClear .all) s = .next (State.settle (s.replied 0x39 .ok
        (wList (fun i => wFault i ++ w8 (s.faultRec i).state.ctorIdx) allFaults))))
    ∧ (s.le.held → (s.faultRec .thermalWarn).state ≠ .latched → ∃ v : State,
      exec (.faultClear .all) s = .next (State.settle (v.replied 0x39 .ok
        (wList (fun i => wFault i ++ w8 (v.faultRec i).state.ctorIdx) allFaults)))
      ∧ (∀ i, (s.faultRec i).clearable → v.faultRec i = (s.faultRec i).cleared
          ∧ (∃ e ∈ v.fs.history, e.uptime = s.uptime ∧ e.record = i ∧ e.transition = .cleared
              ∧ e.value = (s.faultRec i).value)
          ∧ ((s.faultRec i).state = .latched → v.lifted i)
          ∧ (s.fs.endReport = some i → v.fs.endReport = some i ∧ v.fs.endVoid = true))
      ∧ (∀ i, ¬ (s.faultRec i).clearable → v.faultRec i = s.faultRec i)
      ∧ v.settings = s.settings ∧ v.sts = s.sts ∧ v.uptime = s.uptime ∧ v.sup.mode = s.sup.mode
      ∧ v.plk.requests = s.plk.requests))
  ∧ (∀ (c src : Byte) (s : State), faultOf c.toNat src.toNat = none → s.asks [0x39, 1, 0, c, src] →
      exec (.faultClear (.one none)) s = .next (s.replied 0x39 .badArgument []).settle)
  ∧ ∀ (i : FaultId) (s : State),
    (s.fs.endVoid = true → s.endCarried i = { s with fs := { s.fs with endReport := none, endVoid := false } })
    ∧ (s.dormant = false → (s.faultRec i).state = .retryWait → (s.faultRec i).retry ≠ none →
      ∃ u : State, exec (.retryTimerExpiry i) s = .next u.settle ∧ (u.faultRec i).state = .recovered)

/-! ## Line training (chapter 1) -/

/-- QUIET_TIMER_EXPIRY, START_REPLY, BACK_OFF_EXPIRY (R4 to R6, R12): QUIET goes to HANDSHAKE with 2 s, HANDSHAKE to
PROBE with its sums cleared, RETRAIN_WAIT to QUIET with 200 ms and the LINK_LOSS retrain reported; outside those
states nothing changes. REFUSAL, HANDSHAKE_TIMEOUT, EXCHANGE_TIMEOUT (R5, R7, R9, R12): the attempt fails with its
cause, the attempt counter rises to 255 at most, the margin reduction stays, and RETRAIN_WAIT lasts what the LINK_LOSS
policy and the back-off step give; the eighth failure in a row reports TRAIN_FAIL. A command that finds no occasion
changes nothing: the model's choice (log 1). -/
def Obligations.TrainingAdvances : Prop :=
  (∀ s : State, s.dormant = false →
    (s.le.link = .quiet → s.le.phaseTimer ≠ none → exec .quietTimerExpiry s = .next (State.settle (State.raise
      { s with le := { s.le with
          link := .handshake, phaseTimer := some 2000, backoff := none, exchange := none } } .link)))
    ∧ (s.le.link = .handshake → exec .startReply s = .next (State.settle (State.raise
      { s with le := { s.le with
          link := .probe, phaseTimer := none, backoff := none, exchange := none, probeCount := 0, probeUnhit := 0
          probeDown := List.replicate 224 0, probeUp := List.replicate 26 0, probeUpReadings := 0 } } .link)))
    ∧ (s.le.link = .retrainWait → s.le.backoff ≠ none →
      ∃ u : State, exec .backOffExpiry s = .next u.settle
        ∧ u.le = { s.le with link := .quiet, phaseTimer := some 200, backoff := none, exchange := none }
        ∧ (s.fs.recs.linkLoss.state = .retryWait → u.fs.recs.linkLoss.state = .active)
        ∧ (s.fs.recs.linkLoss.state ≠ .retryWait → u.fs = s.fs)
        ∧ u.tt = s.tt ∧ u.ft = s.ft ∧ u.ss = s.ss ∧ u.ports = s.ports ∧ u.cc = s.cc ∧ u.mu = s.mu ∧ u.sup = s.sup
        ∧ u.tu = s.tu ∧ u.sts = s.sts ∧ u.settings = s.settings)
    ∧ (s.le.link ≠ .quiet → exec .quietTimerExpiry s = .next s.settle)
    ∧ (s.le.link ≠ .handshake → exec .startReply s = .next s.settle)
    ∧ (s.le.link ≠ .retrainWait → exec .backOffExpiry s = .next s.settle))
  ∧ (∀ (c : Instr) (cause : AttemptCause) (s : State), s.dormant = false →
    (c = .refusal ∧ cause = .refused ∧ (s.le.link = .handshake ∨ s.le.link = .exchange))
      ∨ (c = .handshakeTimeout ∧ cause = .timeout ∧ s.le.link = .handshake ∧ s.le.phaseTimer ≠ none)
      ∨ (c = .exchangeTimeout ∧ cause = .timeout ∧ s.le.link = .exchange ∧ s.le.phaseTimer ≠ none) →
    ∃ u : State, exec c s = .next u.settle
      ∧ u.le.lastFailure = cause ∧ u.le.attempts = min 255 (s.le.attempts + 1) ∧ u.le.reduction = s.le.reduction
      ∧ u.le.backoffStep = min 5 (s.le.backoffStep + 1)
      ∧ (s.le.link = .exchange → u.tt.maskInForce = s.settings.line.requestedMask)
      ∧ u.settings = s.settings ∧ u.sts = s.sts ∧ u.mu.accounts = s.mu.accounts ∧ u.sup = s.sup ∧ u.ports = s.ports
      ∧ u.plk.requests = s.plk.requests
      ∧ (s.le.attempts ≠ 7 → u.le.link = .retrainWait
          ∧ u.le.backoff = some (if s.settings.faults.records.linkLoss.policy = .retryFast
              then 1000 * min 8 (2 ^ s.le.backoffStep) else 1000 * min 64 (2 ^ (s.le.backoffStep + 1)))
          ∧ u.le.hold = s.le.hold ∧ u.ft = s.ft ∧ u.ss = s.ss ∧ u.cc = s.cc ∧ u.tu = s.tu ∧ u.mu = s.mu)
      ∧ (s.le.attempts = 7 → u.fs.recs.trainFail.condition = true))

/-- PROBE_END and UPSTREAM_TABLE (R7, R25, R26): after 4,000 probe symbols the means, half up, of the readings of the
unhit symbols give the downstream bits; with 30 bits or more EXCHANGE begins for 1 s and sends cap, bits, margin, need
and schedule, and otherwise the attempt fails with CAPACITY; the running tables stay. The far end's bits and smoothed
values are taken, or fail the attempt with CAP or CAPACITY. A far end's value above 240 taken as 240, and the phase of
EXCHANGE's schedule: log 31; that the marks of an empty running table follow the mask after a failure: log 47. The
eighth failure in a row (R11, R12, R157) reports TRAIN_FAIL: under LATCHED the line is held and the back-off stops,
under another policy it runs on; a LINK_LOSS record that was ACTIVE waits again. -/
def Obligations.ProbeAndExchange : Prop :=
  (∀ (dn un bits : List Nat) (s : State), s.dormant = false → s.le.link = .probe → 4000 ≤ s.le.probeCount →
    dn = (s.le.probeDown.map fun x => if s.le.probeUnhit = 0 then 0
      else min 240 ((2 * x + s.le.probeUnhit) / (2 * s.le.probeUnhit))) →
    un = (s.le.probeUp.map fun x => if s.le.probeUpReadings = 0 then 0
      else min 240 ((2 * x + s.le.probeUpReadings) / (2 * s.le.probeUpReadings))) →
    bits = s.loadDown dn s.tt.maskInForce s.effProfile →
    (30 ≤ bits.sum → ∃ (sched : Option Sched) (u : State), exec .probeEnd s = .next u.settle
        ∧ u.le = { s.le with
            link := .exchange, phaseTimer := some 1000, backoff := none
            exchange := some
              { snrDown := dn, snrUp := un, profile := s.effProfile
                margin := 4 * ((s.settings.line.marginTarget - s.le.reduction : Nat) : Int)
                cap := match s.effProfile with
                  | .full => 10
                  | .trim => 6
                  | .lifeline => 4
                down := bits, need := if s.effProfile = .lifeline then some s.need else none
                sched := sched, up := none, confirmed := false } }
        ∧ (s.ft.tracking = .searching → sched = none)
        ∧ (∀ p n, s.ft.tracking = .locked → s.ft.period = some p → s.ft.next = some n → ∃ c, sched = some c
            ∧ c.period = p ∧ c.width = s.settings.gate.windowWidth ∧ c.anchor = 8
            ∧ c.origin = firstWindowFrom (n - 1) p s.le.sym ∧ c.offset = (dist c.origin s.le.sym).toNat)
        ∧ u.tt = { s.tt with needSent := if s.effProfile = .lifeline then some s.need else none, needProgress := none }
        ∧ u.ft = s.ft ∧ u.ss = s.ss ∧ u.ports = s.ports ∧ u.cc = s.cc ∧ u.mu = s.mu ∧ u.sup = s.sup ∧ u.tu = s.tu
        ∧ u.fs = s.fs ∧ u.sts = s.sts ∧ u.settings = s.settings)
    ∧ (bits.sum < 30 → ∃ u : State, exec .probeEnd s = .next u.settle
        ∧ u.le.lastFailure = .capacity ∧ u.le.reduction = min 15 (s.le.reduction + 3)
        ∧ u.le.attempts = min 255 (s.le.attempts + 1)
        ∧ u.tt = { s.tt with
            maskInForce := s.settings.line.requestedMask
            down := List.zipWith (fun t k => { t with masked := k }) s.tt.down s.settings.line.requestedMask }
        ∧ u.settings = s.settings ∧ u.sts = s.sts ∧ u.mu.accounts = s.mu.accounts ∧ u.sup = s.sup
        ∧ u.ports = s.ports))
  ∧ (∀ (tones : List (Nat × Nat)) (bits : List Nat) (x : Exchange) (s : State), bits = tones.map (·.1) →
    s.dormant = false → s.le.link = .exchange → s.le.exchange = some x → x.up = none →
    ((∃ b ∈ bits, x.cap < b) ∨ Profile.upBudget x.profile < (bits.filter fun b => b ≠ 0).length →
      ∃ u : State, exec (.upstreamTable tones) s = .next u.settle ∧ u.le.lastFailure = .cap
        ∧ u.le.attempts = min 255 (s.le.attempts + 1) ∧ u.le.reduction = s.le.reduction ∧ u.settings = s.settings)
    ∧ ((∀ b ∈ bits, b ≤ x.cap) → (bits.filter fun b => b ≠ 0).length ≤ Profile.upBudget x.profile →
      (bits.sum < 30 →
        ∃ u : State, exec (.upstreamTable tones) s = .next u.settle ∧ u.le.lastFailure = .capacity
          ∧ u.le.attempts = min 255 (s.le.attempts + 1) ∧ u.le.reduction = min 15 (s.le.reduction + 3)
          ∧ u.settings = s.settings)
      ∧ (30 ≤ bits.sum → exec (.upstreamTable tones) s = .next (State.settle
          { s with le := { s.le with exchange := some { x with
            up := some (tones.map fun t => (t.1, min 240 t.2)), confirmed := true } } }))))
  ∧ (∀ (c : Instr) (s : State), s.dormant = false → s.le.attempts = 7 →
    (c = .refusal ∧ (s.le.link = .handshake ∨ s.le.link = .exchange))
      ∨ (c = .handshakeTimeout ∧ s.le.link = .handshake ∧ s.le.phaseTimer ≠ none)
      ∨ (c = .exchangeTimeout ∧ s.le.link = .exchange ∧ s.le.phaseTimer ≠ none) →
    s.fs.recs.trainFail.condition = false →
    s.fs.recs.trainFail.state = .clear ∨ s.fs.recs.trainFail.state = .recovered →
    ∃ u : State, exec c s = .next u.settle ∧ u.le.attempts = 8 ∧ u.fs.recs.trainFail.condition = true
      ∧ (s.fs.recs.linkLoss.state = .active → u.fs.recs.linkLoss.state = .retryWait)
      ∧ (s.fs.recs.linkLoss.state ≠ .active → u.fs.recs.linkLoss = s.fs.recs.linkLoss)
      ∧ (s.settings.faults.records.trainFail.policy = .latched → s.le.hold.isEmpty = true →
          u.fs.recs.trainFail.state = .latched ∧ u.le.hold = { s.le.hold with latched := true }
          ∧ u.le.link = .idle ∧ u.le.backoff = none)
      ∧ (s.settings.faults.records.trainFail.policy = .report →
          u.fs.recs.trainFail.state = .active ∧ u.fs.recs.trainFail.run = some .report)
      ∧ (s.settings.faults.records.trainFail.policy = .silent →
          u.fs.recs.trainFail = { s.fs.recs.trainFail with condition := true })
      ∧ (s.settings.faults.records.trainFail.policy = .report
            ∨ s.settings.faults.records.trainFail.policy = .silent →
          u.le.hold = s.le.hold ∧ u.le.link = .retrainWait
          ∧ u.le.backoff = some (if s.settings.faults.records.linkLoss.policy = .retryFast
              then 1000 * min 8 (2 ^ s.le.backoffStep) else 1000 * min 64 (2 ^ (s.le.backoffStep + 1)))))

/-- CONFIRMATION (R8): the link enters IN_SERVICE with the tables exchanged, each downstream tone with its bits, the
smoothed value of PROBE and the mark of the mask in force, each upstream tone with its bits and the smoothed value the
far end's table carries (R25); the superframe counter 0, the attempt counter and back-off step 0, the profile sent in
force, and the schedule sent, if accepted, as a pending agreement, else the 10 s retry; a LINK_LOSS record in ACTIVE or
RETRY_WAIT is RECOVERED with its entry (R157), which carries its last value (log 67), and the TRAIN_FAIL condition ends
(R11, R155). The counters kept and the schedule's place are the model's choice (log 7, log 31). AGREEMENT_IN_FORCE,
REPLACEMENT_IN_FORCE, AGREEMENT_END (R49 to R51) act at the superframe they name, and hand on P_min where the agreed
width changes, and only there; at another superframe, with none named, and out of service they do nothing;
GATE_RETRY_EXPIRY stops the retry timer (R49). WHAT A HAND-OVER DOES to the calls (R100 to R102) is
`State.capacityTaken`, with a need equal to P_min one that fits: in LIFELINE every call at FULL is asked down, otherwise
the newest ones while R exceeds P_min; then the newest calls are released with cause CAPACITY and a VOICE_CAPACITY
event; nothing is done to calls that fit; a waiting call that fits at REDUCED is admitted. Of these, which of two calls
of one connect time is newest (log 55), two waiting calls (log 20), that a record shows its transactions at once (log
56) and that CLEARING has no downgrade (log 62) are the model's choice. A command that finds no occasion changes
nothing: the model's choice (log 1). That a change is taken while the counter equals its superframe: log 8. -/
def Obligations.ServiceBeginsAndAgreementsMove : Prop :=
  (∀ (accepted : Bool) (x : Exchange) (up : List (Nat × Nat)) (s : State), s.dormant = false → s.le.link = .exchange →
    s.le.exchange = some x → x.up = some up → x.confirmed = true →
    ∃ u : State, exec (.confirmation accepted) s = .next u.settle
      ∧ u.le.link = .inService ∧ u.le.sf = 0 ∧ u.le.sfStart = s.le.sym ∧ u.le.sym = s.le.sym ∧ u.le.attempts = 0
      ∧ u.le.backoffStep = 0 ∧ u.le.lastFailure = .none ∧ u.le.inForce = x.profile ∧ u.le.pending = none
      ∧ u.le.level = Profile.level x.profile ∧ u.le.exchange = none
      ∧ u.tt.down = List.zipWith (fun (t : Nat × Nat) k => { s := t.2, b := t.1, masked := k })
          (x.down.zip x.snrDown) s.tt.maskInForce
      ∧ u.tt.up = (up.map fun t => { s := t.2, b := t.1, masked := false })
      ∧ u.tt.cap = x.cap ∧ u.tt.maskInForce = s.tt.maskInForce
      ∧ (∀ c, x.sched = some c → accepted = true →
          u.ft.agreement = some
            { cur := { c with offset :=
                (dist (firstWindowFrom c.origin c.period (s.le.sym + 40 * c.anchor)) s.le.sym).toNat % 40 }
              active := false, repl := none, endSf := none })
      ∧ (∀ c, x.sched = some c → accepted = false → u.ft.retry = some 10000 ∧ u.ft.agreement = s.ft.agreement)
      ∧ (x.sched = none → u.ft.agreement = s.ft.agreement ∧ u.ft.retry = s.ft.retry)
      ∧ u.cc.pDown = (u.tt.down.map (·.b)).sum * (39 - u.agreedWidth) / 8
      ∧ u.cc.pUp = (u.tt.up.map (·.b)).sum * (39 - u.agreedWidth) / 8 ∧ s.capacityTaken u
      ∧ s.trainFailEnded u
      ∧ (∀ r, r = s.faultRec .linkLoss →
        (r.state = .active ∨ r.state = .retryWait →
          u.faultRec .linkLoss = { r with state := .recovered, run := none, retry := none }
          ∧ ∃ e ∈ u.fs.history, e.record = .linkLoss ∧ e.uptime = s.uptime ∧ e.transition = .recovered
            ∧ e.value = r.value)
        ∧ (r.state = .clear ∨ r.state = .recovered ∨ r.state = .latched → u.faultRec .linkLoss = r))
      ∧ u.settings = s.settings ∧ u.sts = s.sts ∧ u.uptime = s.uptime ∧ u.sup.mode = s.sup.mode
      ∧ u.mu.accounts = s.mu.accounts ∧ u.plk.requests = s.plk.requests ∧ u.ss.upQueue = s.ss.upQueue)
  ∧ (∀ (a : Agreement) (s : State), s.dormant = false → s.ft.agreement = some a →
    (s.le.link = .inService → a.active = false → a.cur.anchor = s.le.sf →
        (∀ e, a.endSf = some e → ahead e a.cur.anchor = true) →
      ∃ u : State, exec .agreementInForce s = .next u.settle
        ∧ u.ft = { s.ft with agreement := some { a with active := true } } ∧ u.agreedWidth = a.cur.width
        ∧ (a.cur.width = 0 → u.cc = s.cc)
        ∧ (a.cur.width ≠ 0 → u.cc.pDown = (s.tt.down.map (·.b)).sum * (39 - a.cur.width) / 8
            ∧ u.cc.pUp = (s.tt.up.map (·.b)).sum * (39 - a.cur.width) / 8 ∧ s.capacityTaken u)
        ∧ u.tt = s.tt ∧ u.le = s.le ∧ u.mu = s.mu ∧ u.sup = s.sup ∧ u.settings = s.settings ∧ u.sts = s.sts)
    ∧ (∀ c, s.le.link = .inService → a.repl = some c → c.anchor = s.le.sf →
        (∀ e, a.endSf = some e → ahead e c.anchor = true) →
      ∃ u : State, exec .replacementInForce s = .next u.settle
        ∧ u.ft = { s.ft with agreement := some { a with cur := c, repl := none } }
        ∧ (a.active = false ∨ a.cur.width = c.width → u.cc = s.cc)
        ∧ (a.active = true → a.cur.width ≠ c.width → u.cc.pDown = (s.tt.down.map (·.b)).sum * (39 - c.width) / 8
            ∧ u.cc.pUp = (s.tt.up.map (·.b)).sum * (39 - c.width) / 8 ∧ s.capacityTaken u)
        ∧ u.tt = s.tt ∧ u.le = s.le ∧ u.mu = s.mu ∧ u.sup = s.sup ∧ u.settings = s.settings ∧ u.sts = s.sts)
    ∧ (s.le.link = .inService → a.endSf = some s.le.sf →
      ∃ u : State, exec .agreementEnd s = .next u.settle
        ∧ u.ft = { s.ft with agreement := none } ∧ u.agreedWidth = 0
        ∧ (a.active = false ∨ a.cur.width = 0 → u.cc = s.cc)
        ∧ (a.active = true → a.cur.width ≠ 0 → u.cc.pDown = (s.tt.down.map (·.b)).sum * 39 / 8
            ∧ u.cc.pUp = (s.tt.up.map (·.b)).sum * 39 / 8 ∧ s.capacityTaken u)
        ∧ u.tt = s.tt ∧ u.le = s.le ∧ u.mu = s.mu ∧ u.sup = s.sup ∧ u.settings = s.settings ∧ u.sts = s.sts)
    ∧ (s.le.link ≠ .inService ∨ a.active = true ∨ a.cur.anchor ≠ s.le.sf
        ∨ (∃ e, a.endSf = some e ∧ ahead e a.cur.anchor = false) → exec .agreementInForce s = .next s.settle)
    ∧ (s.le.link ≠ .inService ∨ a.repl = none
        ∨ (∃ c, a.repl = some c ∧ (c.anchor ≠ s.le.sf ∨ ∃ e, a.endSf = some e ∧ ahead e c.anchor = false)) →
      exec .replacementInForce s = .next s.settle)
    ∧ (s.le.link ≠ .inService ∨ a.endSf ≠ some s.le.sf → exec .agreementEnd s = .next s.settle))
  ∧ ∀ s : State, s.dormant = false →
    (s.ft.agreement = none → exec .agreementInForce s = .next s.settle ∧ exec .replacementInForce s = .next s.settle
        ∧ exec .agreementEnd s = .next s.settle)
    ∧ exec .gateRetryExpiry s = .next (State.settle { s with ft := { s.ft with retry := none } })

/-! ## The line in service and the fence tracker (chapters 1 to 3) -/

/-- SYMBOL_RECEIVED (R1, R6, R13, R41), while the driver runs: the symbol counter advances; while learning the floor
starts at E and then follows ungated symbols that are no hits; an ungated symbol in service moves the two loss counts;
PROBE counts its symbols and sums the readings of those that are no hits. Nothing outside the line engine, the tone
tables, the tracker, the scheduler's sending and the pending notices changes. With the driver off nothing changes. R24
and R25 at a sync symbol in service, neither gated nor a hit: every downstream tone's smoothed value moves by an
eighth of its distance to the instant value; bits and masks stay; at any other symbol the tables stay. The instant
value is computed exactly (log 37). A command that finds no occasion changes nothing: the model's choice (log 1).
Which symbol a sync symbol is: log 7. That a PROBE symbol counts for a direction where it carries its readings: log
31. BURSTS (R41, R42, R52): a hit more than 4 symbols after the open burst's latest opens a new one, which joins the
arrivals, the oldest of 8 going first, and counts as an ungated hit unless gated; in SEARCHING without an agreement the
newest five lock the tracker by their four intervals. WINDOWS (R43): the first burst in a window is caught and moves
period and next arrival, a later one does neither, one outside is stray. THE DRIFT CHECK (R50) follows a caught burst:
a schedule in force that is 2 symbols off, or of another width, is replaced by a GATE_SET. When a window opens: log
9. -/
def Obligations.SymbolIsTaken : Prop :=
  ∀ (i : SymbolIn) (s : State), s.dormant = false →
    (s.le.link = .idle ∨ s.le.link = .testHold → exec (.symbolReceived i) s = .next s.settle)
    ∧ (s.le.link ≠ .idle → s.le.link ≠ .testHold → ∃ (e : Int) (hit : Bool) (u : State),
      e = max 0 (min 255 i.energy)
      ∧ hit = decide (64 ≤ s.ft.learn ∧ (s.ft.floor : Int) + 4 * s.settings.gate.hitThreshold ≤ e)
      ∧ exec (.symbolReceived i) s = .next u.settle
      ∧ u.le = { s.le with
          sym := s.le.sym + 1, syncFails := u.le.syncFails, lowPower := u.le.lowPower, probeCount := u.le.probeCount
          probeUnhit := u.le.probeUnhit, probeDown := u.le.probeDown, probeUp := u.le.probeUp
          probeUpReadings := u.le.probeUpReadings }
      ∧ u.ft.learn = min 64 (s.ft.learn + 1)
      ∧ (s.ft.learn = 0 → u.ft.floor = e.toNat)
      ∧ (s.ft.learn ≠ 0 → hit = true ∨ s.gated s.le.sym = true → u.ft.floor = s.ft.floor)
      ∧ (s.ft.learn ≠ 0 → hit = false → s.gated s.le.sym = false →
          u.ft.floor = (max 0 (min 255 ((s.ft.floor : Int) + (e - s.ft.floor + 8) / 16))).toNat)
      ∧ (s.le.link = .inService → s.gated s.le.sym = false →
          u.le.lowPower = (if i.belowFloor then min 40 (s.le.lowPower + 1) else 0)
          ∧ ((s.le.sym - s.le.sfStart).toNat % 40 = 0 →
              u.le.syncFails = if i.syncPass then 0 else min 8 (s.le.syncFails + 1))
          ∧ ((s.le.sym - s.le.sfStart).toNat % 40 ≠ 0 → u.le.syncFails = s.le.syncFails))
      ∧ (s.le.link ≠ .inService ∨ s.gated s.le.sym = true →
          u.le.lowPower = s.le.lowPower ∧ u.le.syncFails = s.le.syncFails)
      ∧ (s.le.link = .probe → s.le.probeCount < 4000 → u.le.probeCount = s.le.probeCount + 1
          ∧ (hit = true → u.le = { s.le with sym := u.le.sym, probeCount := u.le.probeCount })
          ∧ (hit = false →
            u.le.probeUnhit = (if i.tones = [] then s.le.probeUnhit else s.le.probeUnhit + 1)
            ∧ u.le.probeUpReadings
              = (if i.upstream = [] then s.le.probeUpReadings else s.le.probeUpReadings + 1)
            ∧ u.le.probeDown = (s.le.probeDown.zipIdx.map fun x =>
                x.1 + ((i.tones.map fun t => instantSnr t.1 t.2)[x.2]?).getD 0)
            ∧ u.le.probeUp = s.le.probeUp.zipIdx.map fun x => x.1 + (i.upstream[x.2]?).getD 0))
      ∧ (s.le.link ≠ .probe ∨ 4000 ≤ s.le.probeCount →
          u.le = { s.le with sym := u.le.sym, syncFails := u.le.syncFails, lowPower := u.le.lowPower })
      ∧ (s.le.link = .inService → (s.le.sym - s.le.sfStart).toNat % 40 = 0 → s.gated s.le.sym = false → hit = false →
          i.tones.length = s.tt.down.length →
          u.tt = { s.tt with
            down := List.zipWith (fun (r : ToneRec) (x : Nat) =>
              { r with s := (max 0 (min 240 ((r.s : Int) + ((x : Int) - r.s + 4) / 8))).toNat })
              s.tt.down (i.tones.map fun t => instantSnr t.1 t.2) })
      ∧ (s.le.link ≠ .inService ∨ (s.le.sym - s.le.sfStart).toNat % 40 ≠ 0 ∨ s.gated s.le.sym = true ∨ hit = true →
          u.tt = s.tt)
      ∧ (∀ (c : Sym) (opens : Bool), c = s.le.sym →
          opens = (hit && (s.ft.burst.map fun b => decide (4 < dist c b.latest)).getD true) →
        u.ft.burst = (if opens then some ⟨c, c⟩ else if hit then s.ft.burst.map fun b => { b with latest := c }
            else s.ft.burst.filter fun b => decide (dist c b.latest < 4))
        ∧ u.ft.impulse = s.ft.impulse ∧ u.ft.highRun = s.ft.highRun ∧ u.ft.lowRun = s.ft.lowRun
        ∧ u.ft.retry = s.ft.retry
        ∧ u.ft.agreement = s.ft.agreement.map (fun a => { a with
            cur := { a.cur with
              origin := if (a.cur.period : Int) ≤ dist (c + 1) a.cur.origin then
                  a.cur.origin + BitVec.ofNat 32 a.cur.period
                else a.cur.origin } })
        ∧ (opens = false → u.ft.arrivals = s.ft.arrivals ∧ u.ft.tracking = s.ft.tracking ∧ u.ft.period = s.ft.period
          ∧ u.ft.next = s.ft.next ∧ u.ft.misses = s.ft.misses ∧ u.ft.hits = s.ft.hits ∧ u.ft.stats = s.ft.stats
          ∧ u.ft.request = s.ft.request ∧ u.ss = s.ss)
        ∧ (opens = true →
          u.ft.arrivals = (if 8 ≤ s.ft.arrivals.length then s.ft.arrivals.drop 1 else s.ft.arrivals) ++ [c]
          ∧ u.ft.hits = (if s.gated c then s.ft.hits else min 65535 (s.ft.hits + 1))
          ∧ u.ft.stats.total = (if s.gated c then s.ft.stats.total else inc32 s.ft.stats.total)
          ∧ u.ft.stats.missed = s.ft.stats.missed ∧ u.ft.stats.peak = s.ft.stats.peak
          ∧ (s.ft.tracking = .searching →
            u.ft.stats.caught = s.ft.stats.caught ∧ u.ft.stats.stray = s.ft.stats.stray ∧ u.ft.request = s.ft.request
            ∧ (s.ft.agreement ≠ none ∨ s.ft.arrivals.length < 4 → u.ft.tracking = .searching
              ∧ u.ft.period = s.ft.period ∧ u.ft.next = s.ft.next)
            ∧ (∀ (l : List Sym) (t₁ t₂ t₃ t₄ : Sym) (is : List Nat), s.ft.agreement = none →
              s.ft.arrivals = l ++ [t₁, t₂, t₃, t₄] →
              is = [(t₂ - t₁).toNat, (t₃ - t₂).toNat, (t₄ - t₃).toNat, (c - t₄).toNat] →
              ((∀ x ∈ is, 3200 ≤ x ∧ x ≤ 8000 ∧ ∀ y ∈ is, x ≤ y + 4) → u.ft.tracking = .locked
                ∧ u.ft.period = some ((is.sum + 2) / 4) ∧ u.ft.next = some (c + BitVec.ofNat 32 ((is.sum + 2) / 4))
                ∧ u.ft.misses = 0)
              ∧ ((∃ x ∈ is, x < 3200 ∨ 8000 < x ∨ ∃ y ∈ is, y + 4 < x) → u.ft.tracking = .searching
                ∧ u.ft.period = s.ft.period ∧ u.ft.next = s.ft.next)))
          ∧ (∀ (w : Window) (p : Nat) (n : Sym) (p' : Nat), s.ft.tracking = .locked → s.ft.window = some w →
            s.ft.period = some p → s.ft.next = some n →
            p' = (max 3200 (min 8000 ((4 * (p : Int) + dist c n + 2) / 4))).toNat →
            u.ft.tracking = .locked
            ∧ (w.covers c = true → w.caught = false →
              u.ft.period = some p' ∧ u.ft.next = some (c + BitVec.ofNat 32 p') ∧ u.ft.misses = 0
              ∧ u.ft.stats.caught = inc32 s.ft.stats.caught ∧ u.ft.stats.stray = s.ft.stats.stray
              ∧ u.ft.window = (if (w.width : Int) ≤ dist c w.start + 1 then none else some { w with caught := true })
              ∧ (∀ (a : Agreement) (k : Nat), s.ft.agreement = some a →
                k = (dist (c + BitVec.ofNat 32 p' - 1) a.cur.origin % (a.cur.period : Int)).toNat →
                (s.le.link ≠ .inService ∨ a.active = false ∨ a.endSf ≠ none ∨ a.repl ≠ none ∨ s.ft.request ≠ .none
                    ∨ s.ft.retry ≠ none
                    ∨ (min k (a.cur.period - k) < 2 ∧ s.settings.gate.windowWidth = a.cur.width) →
                  u.ft.request = s.ft.request ∧ u.ss = s.ss)
                ∧ (s.le.link = .inService → a.active = true → a.endSf = none → a.repl = none →
                  s.ft.request = .none → s.ft.retry = none → s.ss.waiting = [] → s.ss.txs.length < 8 →
                  2 ≤ min k (a.cur.period - k) ∨ s.settings.gate.windowWidth ≠ a.cur.width →
                  ∃ r : Sched, r.period = p' ∧ r.width = s.settings.gate.windowWidth
                    ∧ r.origin = firstWindowFrom (c + BitVec.ofNat 32 p' - 1) p' (s.le.sfStart + 2560)
                    ∧ r.anchor = s.le.sf + BitVec.ofNat 32 ((dist r.origin s.le.sfStart).toNat / 40)
                    ∧ r.offset = (dist r.origin s.le.sfStart).toNat % 40
                    ∧ u.ft.request = .set r
                    ∧ u.ss.txs.map (·.req) = s.ss.txs.map (·.req) ++
                        [⟨.gateSet, none, w16 r.period ++ w8 r.width ++ wBV r.anchor ++ w8 r.offset, 0⟩])))
            ∧ (w.covers c = false ∨ w.caught = true →
              u.ft.period = some p ∧ u.ft.next = some n ∧ u.ft.misses = s.ft.misses
              ∧ u.ft.stats.caught = s.ft.stats.caught ∧ u.ft.request = s.ft.request
              ∧ u.ft.stats.stray = (if w.covers c then s.ft.stats.stray else inc32 s.ft.stats.stray)))
          ∧ (∀ n, s.ft.tracking = .locked → s.ft.window = none → s.ft.next = some n → dist c (n - 1) < 0 →
            u.ft.tracking = .locked ∧ u.ft.period = s.ft.period ∧ u.ft.next = some n ∧ u.ft.misses = s.ft.misses
            ∧ u.ft.stats.caught = s.ft.stats.caught ∧ u.ft.stats.stray = inc32 s.ft.stats.stray
            ∧ u.ft.request = s.ft.request)))
      ∧ u.ss = { s.ss with
          outQueue := u.ss.outQueue, mgmtSeq := u.ss.mgmtSeq, txs := u.ss.txs, nextNumber := u.ss.nextNumber
          waiting := u.ss.waiting }
      ∧ u.plk = { s.plk with notices := u.plk.notices, noticeSeq := u.plk.noticeSeq }
      ∧ u.ports = s.ports ∧ u.cc = s.cc ∧ u.mu = s.mu ∧ u.sup = s.sup ∧ u.tu = s.tu ∧ u.fs = s.fs ∧ u.sts = s.sts
      ∧ u.settings = s.settings ∧ u.uptime = s.uptime)

/-- WINDOW_MISSED (R44): the window goes; the next arrival moves on by the period; the third miss in a row loses lock
and clears the arrivals. A window that was caught, or whose last symbol has not passed, is not missed.
IMPULSE_SECOND_CLOSE (R52) while the driver runs: ten seconds in a row at or above the threshold raise the condition,
sixty below it end it; the hits start again from 0 and the peak keeps the highest. A command that finds no occasion
changes nothing: the model's choice (log 1). Where a window opens and closes: log 9. -/
def Obligations.TrackerEventsCount : Prop :=
  (∀ (w : Window) (p : Nat) (n : Sym) (s : State), s.dormant = false → s.le.link.driverOn = true →
    s.ft.tracking = .locked → s.ft.window = some w → s.ft.period = some p → s.ft.next = some n →
    (w.caught = false → (w.width : Int) ≤ dist s.le.sym w.start →
      ∃ u : State, exec .windowMissed s = .next u.settle
        ∧ (s.ft.misses < 2 → u.ft = { s.ft with
            window := none, next := some (n + BitVec.ofNat 32 p), misses := s.ft.misses + 1
            stats := { s.ft.stats with missed := inc32 s.ft.stats.missed } })
        ∧ (2 ≤ s.ft.misses → u.ft = { s.ft with
            window := none, tracking := .searching, arrivals := [], period := none, next := none, misses := 0
            stats := { s.ft.stats with missed := inc32 s.ft.stats.missed } })
        ∧ u.le = s.le ∧ u.tt = s.tt ∧ u.ss = s.ss ∧ u.ports = s.ports ∧ u.cc = s.cc ∧ u.mu = s.mu ∧ u.sup = s.sup
        ∧ u.tu = s.tu ∧ u.fs = s.fs ∧ u.sts = s.sts ∧ u.settings = s.settings)
    ∧ (w.caught = true ∨ dist s.le.sym w.start < (w.width : Int) → exec .windowMissed s = .next s.settle))
  ∧ (∀ s : State, s.dormant = false →
    (s.le.link.driverOn = false → exec .impulseSecondClose s = .next s.settle)
    ∧ (s.le.link.driverOn = true →
      ∃ (high : Bool) (u : State), high = decide (s.settings.gate.impulseThreshold ≤ s.ft.hits)
        ∧ exec .impulseSecondClose s = .next u.settle
        ∧ u.ft = { s.ft with
            hits := 0, highRun := if high then min 10 (s.ft.highRun + 1) else 0
            lowRun := if high then 0 else min 60 (s.ft.lowRun + 1)
            stats := { s.ft.stats with peak := max s.ft.stats.peak s.ft.hits }
            impulse := u.ft.impulse }
        ∧ (s.ft.impulse = false → (u.ft.impulse = true ↔ 10 ≤ u.ft.highRun))
        ∧ (s.ft.impulse = true → (u.ft.impulse = true ↔ u.ft.lowRun < 60))
        ∧ (u.ft.impulse ≠ s.ft.impulse → u.fs.recs.impulseNoise.condition = u.ft.impulse)
        ∧ (u.ft.impulse = s.ft.impulse → u.fs = s.fs)
        ∧ u.le = s.le ∧ u.tt = s.tt ∧ u.ss = s.ss ∧ u.ports = s.ports ∧ u.cc = s.cc ∧ u.mu = s.mu ∧ u.sup = s.sup
        ∧ u.tu = s.tu ∧ u.sts = s.sts ∧ u.settings = s.settings))

/-- SYNC_FAILURE_LOSS, LOW_POWER_LOSS, RETRAIN_TIMEOUT, and PROFILE_TIMER_EXPIRY with the upstream table above the
pending profile's cap or budget (R13 to R16, R18, R74): the link leaves service with the loss's cause; the
transactions, the outbound queue, the pending profile, the downstream change and the agreement go; the retrain waits
under a retry policy with an empty hold set, starts at once under REPORT, and a held line takes its held state. The
LINK_LOSS record (R157), from CLEAR or RECOVERED: the occurrence is counted, the cause, as R168 numbers it, is the last
value, and the record enters RETRY_WAIT, LATCHED with LATCHED in the line hold set, or RECOVERED by its policy, with
its entry. A test in ARMING enters RUNNING (R145), also where LATCHED joins (log 74). The 2 s of a pending profile: log
32. The value of an entry: log 28. -/
def Obligations.LossesLeaveService : Prop :=
  ∀ (c : Instr) (cause : LossCause) (s : State), s.dormant = false → s.le.link = .inService →
    (c = .syncFailureLoss ∧ cause = .sync ∧ 8 ≤ s.le.syncFails)
      ∨ (c = .lowPowerLoss ∧ cause = .signal ∧ 40 ≤ s.le.lowPower)
      ∨ (c = .retrainTimeout ∧ cause = .farEnd ∧ s.le.farEnd ≠ none)
      ∨ (c = .profileTimerExpiry ∧ cause = .protocol ∧ ∃ p t, s.le.pending = some ⟨p, some t⟩
          ∧ overCap (Profile.cap p) (Profile.upBudget p) (s.tt.up.map (·.b)) = true) →
    ∃ u : State, exec c s = .next u.settle
      ∧ u.le.lastLoss = cause ∧ u.le.link ≠ .inService
      ∧ u.le.syncFails = 0 ∧ u.le.lowPower = 0 ∧ u.le.farEnd = none ∧ u.le.pending = none
      ∧ u.tt.inFlight = .none ∧ u.tt.waitingRate = none ∧ u.tt.upWaiting = none
      ∧ u.tt.maskInForce = s.settings.line.requestedMask
      ∧ u.ft.agreement = none ∧ u.ft.request = .none
      ∧ u.ss.txs = [] ∧ u.ss.outQueue = [] ∧ u.ss.repeats = Reset.repeats
      ∧ u.ss.dataPartial = none ∧ u.ss.mgmtPartial = none
      ∧ (∀ p, (u.call p).lineCall = false)
      ∧ (u.le.hold.isEmpty = true → s.settings.faults.records.linkLoss.policy = .retryFast
          ∨ s.settings.faults.records.linkLoss.policy = .retrySlow →
          u.le.link = .retrainWait ∧ u.le.backoff = some
            (backoffMs s.settings.faults.records.linkLoss.policy s.le.backoffStep))
      ∧ (u.le.hold.isEmpty = true → s.settings.faults.records.linkLoss.policy = .report →
          u.le.link = .quiet ∧ u.le.phaseTimer = some 200)
      ∧ (u.le.hold.isEmpty = false → u.le.link = u.le.hold.state)
      ∧ (∀ (r : FaultRec) (p : Policy), r = s.faultRec .linkLoss → p = s.settings.faults.records.linkLoss.policy →
        p ≠ .silent → r.state = .clear ∨ r.state = .recovered →
        u.faultRec .linkLoss = { r with
          state := if p = .latched then .latched else if p = .report then .recovered else .retryWait
          run := if p = .report then none else some p, retry := none
          count := min 255 (r.count + 1), firstSeen := r.firstSeen <|> some s.uptime, lastSeen := some s.uptime
          value := some (cause.ctorIdx : Int) }
        ∧ (∃ e ∈ u.fs.history, e = ⟨s.fs.nextSeq, s.uptime, .linkLoss, if p = .latched then .latched else .raised,
            some (cause.ctorIdx : Int)⟩)
        ∧ (p = .latched → u.le.hold.latched = true) ∧ (p ≠ .latched → u.le.hold.latched = s.le.hold.latched))
      ∧ (∀ t : CurrentTest, s.tu.current = some t → t.phase = .arming → u.tu.current = some { t with
          phase := .running, start := some s.uptime, timeLeft := some (TestKind.ms t.kind), arm := none }
        ∧ u.le.hold.test = true)
      ∧ u.settings = s.settings ∧ u.sts = s.sts ∧ u.uptime = s.uptime ∧ u.sup.mode = s.sup.mode
      ∧ u.mu.accounts = s.mu.accounts ∧ u.plk.requests = s.plk.requests ∧ u.ss.upQueue = s.ss.upQueue

/-- SWAP_APPLY, RATE_APPLY, UP_TABLE_APPLY, CODING_APPLY (R30, R33, R34, R36, R102) at the superframe they name: the
swap moves one bit from donor to receiver; the RATE's bits, mask and level are taken; the accepted UP_TABLE becomes the
upstream table, with its cap and a pending profile of that cap; the downgraded call goes to REDUCED. The new P_min is
handed on, and the calls go by R100 to R102, as O36 says it (log 20, log 55, log 56, log 62). Before that superframe
nothing applies. PROFILE_TIMER_EXPIRY (R18) with the upstream table within the pending profile's cap and budget: the
profile comes into force. A command that finds no occasion changes nothing: the model's choice (log 1). That a change is
taken while the counter equals its superframe: log 8. -/
def Obligations.ChangesApply : Prop :=
  (∀ s : State, s.dormant = false → s.le.link = .inService →
    (∀ d r n, s.tt.inFlight = .swap d r n (some s.le.sf) → s.tt.waitingRate = none →
      ∃ u : State, exec .swapApply s = .next u.settle
        ∧ u.tt.down = (s.tt.down.zipIdx.map fun x =>
            if x.2 + 32 = d then { x.1 with b := x.1.b - 1 }
            else if x.2 + 32 = r then { x.1 with b := x.1.b + 1 } else x.1)
        ∧ u.tt.lastSwap = some s.le.sf ∧ u.tt.inFlight = .none ∧ u.tt.lastResult = .applied
        ∧ u.tt.up = s.tt.up ∧ u.tt.maskInForce = s.tt.maskInForce
        ∧ u.cc.pDown = (u.tt.down.map (·.b)).sum * (39 - s.agreedWidth) / 8
        ∧ u.cc.pUp = (s.tt.up.map (·.b)).sum * (39 - s.agreedWidth) / 8 ∧ s.capacityTaken u
        ∧ u.settings = s.settings ∧ u.sts = s.sts ∧ u.sup.mode = s.sup.mode ∧ u.mu.accounts = s.mu.accounts)
    ∧ (∀ m n, s.tt.inFlight = .rate m n (some s.le.sf) → s.tt.waitingRate = none →
      ∃ u : State, exec .rateApply s = .next u.settle
        ∧ u.tt.down = List.zipWith (fun (t : ToneRec) k => { t with masked := k })
            (List.zipWith (fun (t : ToneRec) b => { t with b := b }) s.tt.down m.bits) m.mask
        ∧ u.tt.maskInForce = m.mask ∧ u.le.level = m.level ∧ u.tt.inFlight = .none ∧ u.tt.lastResult = .applied
        ∧ u.tt.upshift = 0 ∧ u.tt.lowCounts = List.replicate 224 0 ∧ u.tt.up = s.tt.up
        ∧ u.cc.pDown = (u.tt.down.map (·.b)).sum * (39 - s.agreedWidth) / 8
        ∧ u.cc.pUp = (s.tt.up.map (·.b)).sum * (39 - s.agreedWidth) / 8 ∧ s.capacityTaken u
        ∧ u.settings = s.settings ∧ u.sts = s.sts ∧ u.sup.mode = s.sup.mode ∧ u.mu.accounts = s.mu.accounts)
    ∧ (∀ t cap, s.tt.upWaiting = some ⟨t, s.le.sf, cap⟩ →
      ∃ u : State, exec .upTableApply s = .next u.settle
        ∧ u.tt.up = t ∧ u.tt.cap = cap ∧ u.tt.upWaiting = none ∧ u.tt.down = s.tt.down
        ∧ (∀ p timer, s.le.pending = some ⟨p, timer⟩ → Profile.cap p = cap →
            u.le.pending = none ∧ u.le.inForce = p)
        ∧ (s.le.pending = none → u.le.inForce = s.le.inForce)
        ∧ u.cc.pUp = (t.map (·.b)).sum * (39 - s.agreedWidth) / 8
        ∧ u.cc.pDown = (s.tt.down.map (·.b)).sum * (39 - s.agreedWidth) / 8 ∧ s.capacityTaken u
        ∧ u.settings = s.settings ∧ u.sts = s.sts ∧ u.sup.mode = s.sup.mode ∧ u.mu.accounts = s.mu.accounts)
    ∧ (∀ p, (s.call p).downgrade = some ⟨some s.le.sf⟩ →
      ∃ u : State, exec (.codingApply p) s = .next u.settle
        ∧ u.call p = { s.call p with coding := some .reduced, downgrade := none }
        ∧ u.call p.other = s.call p.other
        ∧ u.le = s.le ∧ u.tt = s.tt ∧ u.ft = s.ft ∧ u.ss = s.ss ∧ u.ports = s.ports ∧ u.mu = s.mu ∧ u.sup = s.sup
        ∧ u.tu = s.tu ∧ u.fs = s.fs ∧ u.sts = s.sts ∧ u.settings = s.settings)
    ∧ (∀ d r n e, s.tt.inFlight = .swap d r n (some e) → e ≠ s.le.sf → exec .swapApply s = .next s.settle)
    ∧ (∀ m n e, s.tt.inFlight = .rate m n (some e) → e ≠ s.le.sf → exec .rateApply s = .next s.settle)
    ∧ (∀ u, s.tt.upWaiting = some u → u.seff ≠ s.le.sf → exec .upTableApply s = .next s.settle)
    ∧ (∀ p, (s.call p).downgrade = none → exec (.codingApply p) s = .next s.settle))
  ∧ (∀ (p : Profile) (t : Nat) (s : State), s.dormant = false → s.le.link = .inService →
    s.le.pending = some ⟨p, some t⟩ → overCap (Profile.cap p) (Profile.upBudget p) (s.tt.up.map (·.b)) = false →
    ∃ u : State, exec .profileTimerExpiry s = .next u.settle
      ∧ u.le = { s.le with pending := none, inForce := p }
      ∧ (s.le.inForce ≠ .lifeline ∨ p = .lifeline → u.tt = s.tt)
      ∧ (s.le.inForce = .lifeline → p ≠ .lifeline → u.tt = { s.tt with needSent := none, needProgress := none })
      ∧ u.ft = s.ft ∧ u.ss = s.ss ∧ u.ports = s.ports ∧ u.cc = s.cc ∧ u.mu = s.mu ∧ u.sup = s.sup ∧ u.tu = s.tu
      ∧ u.fs = s.fs ∧ u.sts = s.sts ∧ u.settings = s.settings)

/-- EVALUATION (R31): the candidate table is the computed one; the due mark (log 8) goes; with a change in flight or
waiting nothing else changes; otherwise the low counts follow R31 and, while the link stays in service, the running
tables stay. The computed table (R27 to R29), tone by tone, under the budget of the profile and the lifeline need. The
action chosen (R32) where no profile is pending: a RATE of reason MASK, PROFILE, DOWNSHIFT or UPSHIFT, held back by the
floor of 30 bits; a SWAP of donor and receiver; or none. A RATE that waits behind a swap is computed and sent when the
swap ends, applied or refused (R34); that the hand-over of P_min comes before it is the model's choice (log 75). THE
BEACON (R162): the command, which comes at each hundredth superframe (log 8), places one FAULT_BEACON marked ACTIVE
behind all that waits and behind the evaluation's own message (log 93), for the eligible record of the highest level, of
equal levels the one first seen earlier, then the earlier of the table, with its body field by field; none where no
record is eligible, where 24 answers and unanswered messages wait (R69), and where the link left service. The BATT_V
average of a part that was handed none is a free value (log 35). With no evaluation due, and out of service, nothing is
done: the model's choice (log 1). -/
def Obligations.EvaluationComputes : Prop :=
  (∀ (s : State) (seen : FaultRec → Nat), s.dormant = false → s.le.link = .inService → s.le.evalDue = true →
    (∀ r : FaultRec, seen r = (r.firstSeen.map BitVec.toNat).getD (2 ^ 32)) →
    ∃ u : State, exec .evaluation s = .next u.settle
      ∧ u.le.evalDue = false
      ∧ u.tt.cand = List.zipWith (fun r b => { r with b := b }) s.tt.down
          (s.computeDown s.settings.line.requestedMask s.effProfile)
      ∧ (s.tt.inFlight ≠ .none ∨ s.tt.waitingRate ≠ none →
          u.tt = { s.tt with cand := u.tt.cand } ∧ u.le = { s.le with evalDue := false })
      ∧ (s.tt.inFlight = .none → s.tt.waitingRate = none →
          u.tt.lowCounts = List.zipWith (lowCount s.margin) s.tt.down s.tt.lowCounts)
      ∧ (s.tt.inFlight = .none → s.tt.waitingRate = none → u.le.link = .inService →
          u.tt.down = s.tt.down ∧ u.tt.up = s.tt.up)
      ∧ (u.le.link = .inService →
        ((∀ i, s.eligible i = false) ∨ 24 ≤ (s.ss.outQueue.filter fun m => !m.isSend).length →
          (u.ss.outQueue.filter fun m => m.who == .beacon) = s.ss.outQueue.filter fun m => m.who == .beacon)
        ∧ (∀ i, s.eligible i = true →
            (∀ j, s.eligible j = true → j ≠ i → (s.faultSetting j).level < (s.faultSetting i).level
              ∨ ((s.faultSetting j).level = (s.faultSetting i).level
                ∧ (seen (s.faultRec i) < seen (s.faultRec j)
                  ∨ (seen (s.faultRec i) = seen (s.faultRec j) ∧ i.ctorIdx < j.ctorIdx)))) →
          ((s.ss.outQueue.filter fun m => !m.isSend).length < 24 → ∃ k,
            u.ss.outQueue.getLast? = some { who := .beacon, cells := cellsOf k (message 0x38 0 (
                [0] ++ wFault i ++ w8 (s.faultSetting i).level ++ w8 (s.faultRec i).state.ctorIdx
                ++ wBV ((s.faultRec i).firstSeen.getD 0) ++ w8 (s.faultRec i).count
                ++ w8 (allFaults.filter fun j => s.eligible j && j != i).length
                ++ i16 (s.sup.battV.getD Config.unstatedAverage))), started := false }
            ∧ (u.ss.outQueue.dropLast.filter fun m => m.who == .beacon)
              = (s.ss.outQueue.filter fun m => m.who == .beacon)
            ∧ u.ss.mgmtSeq = (k + 1) % 256)
          ∧ (24 ≤ (s.ss.outQueue.filter fun m => !m.isSend).length →
            u.ss.counts.unansweredDropped = inc32 s.ss.counts.unansweredDropped)))
      ∧ (u.le.link ≠ .inService → ∀ m ∈ u.ss.outQueue, m.who ≠ .beacon)
      ∧ u.settings = s.settings ∧ u.sts = s.sts ∧ u.uptime = s.uptime ∧ u.sup.mode = s.sup.mode
      ∧ u.cc.custody = s.cc.custody ∧ u.mu.accounts = s.mu.accounts ∧ u.plk.requests = s.plk.requests)
  ∧ (∀ s : State, s.dormant = false → s.le.link ≠ .inService ∨ s.le.evalDue = false →
    exec .evaluation s = .next s.settle)
  ∧ (∀ (s : State) (i : FaultId), s.eligible i =
    (((s.faultRec i).state == .active || (s.faultRec i).state == .retryWait || (s.faultRec i).state == .latched)
      && decide (s.settings.faults.beaconThreshold ≤ (s.faultSetting i).level) && !(s.faultRec i).silenced))
  ∧ (∀ (snr r27 : List Nat) (mask : List Bool) (p : Profile) (m : Int) (before : Nat → Nat → List Nat) (s : State),
    m = 4 * ((s.settings.line.marginTarget - s.le.reduction : Nat) : Int) →
    r27 = List.zipWith (fun (x : Nat) k => if k = true ∨ ((x : Int) - 38 - m) / 12 < 2 then 0
      else min 12 (((x : Int) - 38 - m) / 12).toNat) snr mask →
    (∀ i b, before i b = (r27.zipIdx.filter fun y => decide (y.1 ≠ 0 ∧ (b < y.1 ∨ (y.1 = b ∧ y.2 < i)))).map (·.1)) →
    s.loadDown snr mask p = (r27.zipIdx.map fun y =>
      if (match p with
          | .full => decide ((before y.2 y.1).length < 224)
          | .trim => decide ((before y.2 y.1).length < 160)
          | .lifeline => decide ((before y.2 y.1).sum < s.need)) = true then y.1 else 0)
    ∧ s.computeDown mask p = s.loadDown (s.tt.down.map (·.s)) mask p
    ∧ s.need = max 16 ((8 * (40 * s.cc.nReported + 64) + (39 - s.agreedWidth) - 1) / (39 - s.agreedWidth)))
  ∧ (∀ (s : State) (bits low : List Nat) (up : Nat) (tt : Tables) (m : Int) (margin : ToneRec → Int)
      (masked excess : Prop), s.dormant = false → s.le.link = .inService → s.le.evalDue = true →
    s.tt.inFlight = .none → s.tt.waitingRate = none → s.le.pending = none →
    m = 4 * ((s.settings.line.marginTarget - s.le.reduction : Nat) : Int) →
    (∀ t : ToneRec, margin t = (t.s : Int) - 38 - 12 * t.b) →
    bits = s.computeDown s.settings.line.requestedMask s.effProfile →
    low = List.zipWith (fun (t : ToneRec) c =>
      if t.b = 0 then 0 else if margin t < m - 12 then min 4 (c + 1) else 0) s.tt.down s.tt.lowCounts →
    up = (if s.settings.line.upshiftEnable = true ∧ 11 * (s.tt.down.map (·.b)).sum ≤ 10 * bits.sum
      then min 60 (s.tt.upshift + 1) else 0) →
    tt = { s.tt with
      cand := List.zipWith (fun r b => { r with b := b }) s.tt.down bits, lowCounts := low, upshift := up } →
    (masked ↔ ∃ (i : Nat) (t : ToneRec), s.tt.down[i]? = some t ∧ t.b ≠ 0
      ∧ s.settings.line.requestedMask[i]? = some true) →
    (excess ↔ (match s.effProfile with
        | .full => 224
        | .trim => 160
        | .lifeline => (bits.filter fun b => b ≠ 0).length)
      < ((s.tt.down.map (·.b)).filter fun b => b ≠ 0).length) →
    ∃ u : State, exec .evaluation s = .next u.settle ∧ u.le = { s.le with evalDue := false }
      ∧ (∀ x : RateReason, (x = .mask ∧ masked) ∨ (x = .profile ∧ ¬ masked ∧ excess)
          ∨ (x = .upshift ∧ ¬ masked ∧ ¬ excess ∧ 4 ∉ low ∧ 60 ≤ up)
          ∨ (x = .downshift ∧ ¬ masked ∧ ¬ excess ∧ 4 ∈ low ∧
            ((∀ t ∈ s.tt.down, t.b ≠ 0 → margin t < m + 12 ∨ 12 ≤ t.b)
              ∨ (∃ t ∈ s.tt.down, t.b ≠ 0 ∧ margin t < m - 24)
              ∨ (∃ (i : Nat) (t : ToneRec), s.tt.down[i]? = some t ∧ t.b = 2
                  ∧ ∀ (k : Nat) (y : ToneRec), s.tt.down[k]? = some y → y.b ≠ 0 →
                    margin t ≤ margin y ∧ (k < i → margin t < margin y)))) →
          (30 ≤ bits.sum → ∃ n, u.tt = { tt with
            inFlight := .rate ⟨bits, s.settings.line.requestedMask, Profile.level s.le.inForce, x⟩ n none
            upshift := if x = .upshift then 0 else up })
          ∧ (bits.sum < 30 → u.tt = { tt with
            lastResult := .floor, upshift := if x = .upshift then 0 else up }))
      ∧ (∀ (i j : Nat) (d r : ToneRec), ¬ masked → ¬ excess → 4 ∈ low →
          s.tt.down[i]? = some d → 2 < d.b → m - 24 ≤ margin d →
          (∀ (k : Nat) (y : ToneRec), s.tt.down[k]? = some y → y.b ≠ 0 →
            margin d ≤ margin y ∧ (k < i → margin d < margin y)) →
          s.tt.down[j]? = some r → r.b ≠ 0 → r.b < 12 → m + 12 ≤ margin r →
          (∀ (k : Nat) (y : ToneRec), s.tt.down[k]? = some y → y.b ≠ 0 → y.b < 12 → m + 12 ≤ margin y →
            margin y ≤ margin r ∧ (k < j → margin y < margin r)) →
          (∀ e, s.tt.lastSwap = some e → (s.le.sf - e).toNat < 4 → u.tt = tt)
          ∧ ((∀ e, s.tt.lastSwap = some e → 4 ≤ (s.le.sf - e).toNat) →
              ∃ n, u.tt = { tt with inFlight := .swap (i + 32) (j + 32) n none }))
      ∧ (¬ masked → ¬ excess → 4 ∉ low → up < 60 → u.tt = tt))
  ∧ ∀ (d r n : Nat) (x : RateReason) (bits : List Nat) (s : State), s.dormant = false → s.le.link = .inService →
    s.tt.waitingRate = some x → s.le.pending = none →
    bits = s.computeDown s.settings.line.requestedMask s.effProfile →
    ∀ (c : Instr) (y : ChangeResult),
      (c = .swapApply ∧ y = .applied ∧ s.tt.inFlight = .swap d r (some n) (some s.le.sf))
        ∨ (∃ cause, c = .nak (BitVec.ofNat 8 n) 1 [cause] ∧ y = .refused ∧ n < 16
            ∧ s.tt.inFlight = .swap d r (some n) none
            ∧ (s.ss.txs.find? fun t => t.number == n).map (·.req.kind) = some .swap ∧ s.ss.waiting = []) →
      ∃ u : State, exec c s = .next u.settle ∧ u.tt.waitingRate = none ∧ u.le = s.le
        ∧ (30 ≤ bits.sum → u.tt.lastResult = y ∧ ∃ k, u.tt.inFlight
            = .rate ⟨bits, s.settings.line.requestedMask, Profile.level s.le.inForce, x⟩ k none)
        ∧ (bits.sum < 30 → u.tt.inFlight = .none ∧ u.tt.lastResult = .floor)

/-! ## Superframes and management messages (chapter 4) -/

/-- A cell of a unit survives its 64 bytes (R59): kind, flags, index, sequence and data are read as they were written,
and the check byte is the CRC-8 of the rest. Cutting a unit into cells loses no byte (R60): its cells' data in order
are the unit; there are ceil(n / 60) of them, the first alone has START, the last alone END, and all but the last are
full. The unit sequence each kind carries rises by 1 with each unit. -/
def Obligations.CellsRoundTrip : Prop :=
  (∀ (mgmt : Bool) (c : Cell), c.index < 16 → c.seq < 256 → c.data.length ≤ 60 →
    (cellBytes mgmt c).length = 64
    ∧ readCell (cellBytes mgmt c) = (if mgmt then 2 else 1, c)
    ∧ crc8 ((cellBytes mgmt c).take 63) = ((cellBytes mgmt c)[63]?).getD 0)
  ∧ (∀ (seq : Nat) (l : List Byte), l ≠ [] →
    (cellsOf seq l).flatMap (·.data) = l
    ∧ (cellsOf seq l).length = (l.length + 59) / 60
    ∧ (∀ i c, (cellsOf seq l)[i]? = some c → c.seq = seq ∧ c.index = i % 16 ∧ c.start = (i == 0)
        ∧ c.fin = (i + 1 == (l.length + 59) / 60) ∧ (c.fin = false → c.data.length = 60))
    ∧ (∀ (x : SS) (who : Sender), (x.enqueue who l).outQueue
          = x.outQueue ++ [{ who := who, cells := cellsOf x.mgmtSeq l, started := false }]
        ∧ (x.enqueue who l).mgmtSeq = (x.mgmtSeq + 1) % 256)
    ∧ (∀ s : State, (l.length + 59) / 60 ≤ s.ss.free →
        (s.takeData l).ss.upQueue = s.ss.upQueue ++ cellsOf s.ss.dataSeq l
        ∧ (s.takeData l).ss.dataSeq = (s.ss.dataSeq + 1) % 256))

/-- UPSTREAM_SUPERFRAME (R57, R58): in service it lays out exactly the superframe's bytes: the voice slots that fit
first, in rising channel id, the omitted ones counted; then the cell positions in turn, each by the arbiter's choice
with its p; then zeros; the flow state follows (R62). A message carried with its last cell does what its carriage is
for. Out of service nothing changes. The slots named (R99) are those of the calls that carry voice, 80 bytes at FULL and
40 at REDUCED, and the first that does not fit and all after it are omitted; a port's own audio goes into its slot while
its source is LINE (R91). That the arbiter makes no choice once the link has left service, and that a command that finds
no occasion changes nothing, is the model's choice (log 1, log 7). Latched slots and cut or padded audio are the model's
choice (log 10). A send carried late: log 46. What an ENDED beacon's carriage clears is judged at the carriage alone
(log 91). -/
def Obligations.UpstreamIsLaidOut : Prop :=
  (∀ (a b : List Byte) (s : State), s.dormant = false →
    (s.le.link ≠ .inService → exec (.upstreamSuperframe a b) s = .next s.settle)
    ∧ (s.le.link = .inService → ∃ (n : Nat) (voice : List Byte) (v w u : State),
        n = (s.tt.up.map (·.b)).sum * (39 - s.emptied) / 8
        ∧ voice = (fitSlots n s.namedSlots).flatMap (s.slotAudio a b)
        ∧ v = { s with ss := { s.ss with counts := { s.ss.counts with
            slotsOmitted :=
              add32 s.ss.counts.slotsOmitted (s.namedSlots.length - (fitSlots n s.namedSlots).length) } } }
        ∧ w = (State.placeCells true ((n - voice.length) / 64) v).1
        ∧ u = { w with ss := { w.ss with
            slots := if w.le.link = .inService then s.namedSlots else []
            lastUp := (voice ++ (State.placeCells true ((n - voice.length) / 64) v).2 ++ List.replicate n 0).take n } }
        ∧ (u.ss.xon = true → 96 < u.ss.upQueue.length → exec (.upstreamSuperframe a b) s = .next (State.settle
            (State.raise { u with ss := { u.ss with xon := false } } .flow)))
        ∧ (u.ss.xon = false → u.ss.upQueue.length ≤ 32 → exec (.upstreamSuperframe a b) s = .next (State.settle
            (State.raise { u with ss := { u.ss with xon := true } } .flow)))
        ∧ (u.ss.xon = true → u.ss.upQueue.length ≤ 96 → exec (.upstreamSuperframe a b) s = .next u.settle)
        ∧ (u.ss.xon = false → 32 < u.ss.upQueue.length → exec (.upstreamSuperframe a b) s = .next u.settle)))
  ∧ (∀ (first : Bool) (k : Nat) (s : State),
    State.placeCells first 0 s = (s, [])
    ∧ (s.le.link ≠ .inService → State.placeCells first k s = (s, []))
    ∧ (s.le.link = .inService → ∀ v w cell rest, s.cellPosition first = (v, cell) →
        State.placeCells false k v = (w, rest) → State.placeCells first (k + 1) s = (w, cell ++ rest)))
  ∧ (∀ (first : Bool) (n : Nat) (s : State),
    n = (match s.settings.ratio with | .one => 1 | .two => 2 | .four => 4 | .eight => 8) →
    (s.ss.outQueue = [] → s.ss.upQueue = [] → s.cellPosition first =
      ({ s with ss := { s.ss with counts := { s.ss.counts with idleCells := inc32 s.ss.counts.idleCells } } },
        List.replicate 63 0 ++ [crc8 (List.replicate 63 0)]))
    ∧ (∀ c rest, s.ss.upQueue = c :: rest → s.ss.outQueue = [] ∨ (first = false ∧ s.ss.p < n) →
      s.cellPosition first =
        ({ s with ss := { s.ss with
            p := if s.ss.outQueue = [] then min n (s.ss.p + 1) else s.ss.p + 1, upQueue := rest
            counts := { s.ss.counts with dataCells := inc32 s.ss.counts.dataCells } } }, cellBytes false c))
    ∧ (∀ m rest, s.ss.outQueue = m :: rest → s.ss.upQueue = [] ∨ first = true ∨ n ≤ s.ss.p →
      (∀ c d more, m.cells = c :: d :: more → s.cellPosition first =
        ({ s with ss := { s.ss with
            p := 0, outQueue := { m with cells := d :: more, started := true } :: rest
            counts := { s.ss.counts with mgmtCells := inc32 s.ss.counts.mgmtCells } } }, cellBytes true c))
      ∧ (∀ c, m.cells = [c] → s.cellPosition first =
        (State.carried { s with ss := { s.ss with
            p := 0, outQueue := rest
            counts := { s.ss.counts with mgmtCells := inc32 s.ss.counts.mgmtCells } } } m.who, cellBytes true c))))
  ∧ (∀ s : State,
    (∀ n, (∀ m ∈ s.ss.outQueue, m.who ≠ .send n) → s.carried (.send n) = { s with ss := { s.ss with
        txs := s.ss.txs.map fun x => if x.number = n then { x with timeLeft := some 200 } else x } })
    ∧ (∀ n, (∃ m ∈ s.ss.outQueue, m.who = .send n) → s.carried (.send n) = s)
    ∧ (∀ n f, s.le.farEnd = some f → f.number = n → s.dormant = false → s.le.link = .inService →
        exec .retrainTimeout s = .next (s.carried (.answer (some .retrain) n true)).settle)
    ∧ (∀ n, (∀ f, s.le.farEnd = some f → f.number ≠ n) → s.carried (.answer (some .retrain) n true) = s)
    ∧ (∀ n c, s.tu.current = some c → c.phase = .arming → c.reqNumber = some n → c.arm ≠ none → s.dormant = false →
        exec .armingTimeout s = .next (s.carried (.answer (some .testReq) n true)).settle)
    ∧ (∀ n, (∀ c, s.tu.current = some c → c.phase = .running ∨ c.reqNumber ≠ some n) →
        s.carried (.answer (some .testReq) n true) = s)
    ∧ (∀ t n positive, positive = false ∨ (t ≠ some .retrain ∧ t ≠ some .testReq) →
        s.carried (.answer t n positive) = s)
    ∧ s.carried .beacon = s
    ∧ (∀ i, s.fs.endVoid = true ∨ s.eligible i = true → s.carried (.ended i) = { s with fs := { s.fs with
        endReport := none, endVoid := false } })
    ∧ (∀ i, s.fs.endVoid = false → s.eligible i = false → s.carried (.ended i) = { s with fs := { s.fs with
        recs := s.fs.recs.set i { s.faultRec i with owed := false }, endReport := none, endVoid := false } })
    ∧ s.carried .powerLoss = { s with sup := { s.sup with loss := .ended } })
  ∧ (∀ s : State,
    (∀ x : Slot, x ∈ s.namedSlots ↔ (s.call x.port).channel = some x.channel
        ∧ x.coding = (s.call x.port).coding.getD .reduced
        ∧ ((s.call x.port).state = .dialling ∨ (s.call x.port).state = .connected
          ∨ ((s.call x.port).state = .alertingIn ∧ (s.call x.port).admission = none)))
    ∧ s.namedSlots.length ≤ 2
    ∧ (∀ x y, s.namedSlots = [x, y] → x.channel ≤ y.channel ∧ x.port ≠ y.port)
    ∧ (∀ (a b : List Byte) (x : Slot) (k : Nat), k = (match x.coding with | .full => 80 | .reduced => 40) →
      ((s.port x.port).audio ≠ .line → s.slotAudio a b x = List.replicate k 0)
      ∧ ((s.port x.port).audio = .line → s.slotAudio a b x
          = ((match x.port with | .a => a | .b => b) ++ List.replicate k 0).take k)))
  ∧ (∀ n, fitSlots n [] = [] ∧ ∀ (x : Slot) (l : List Slot) (k : Nat),
      k = (match x.coding with | .full => 80 | .reduced => 40) →
      (k ≤ n → fitSlots n (x :: l) = x :: fitSlots (n - k) l) ∧ (n < k → fitSlots n (x :: l) = []))

/-- DOWNSTREAM_SUPERFRAME (R1, R63): each named slot's bytes go to its port while its audio source is LINE, a port
without one plays silence, the whole cells that follow are judged in turn, and in service the superframe counter
advances, an evaluation falling due at a multiple of 100. Out of service nothing changes. One cell (R63 to R66, R68): a
failed check or a format fault counts and drops both partial units; an IDLE cell does nothing; a START cell begins a
unit, whatever partial unit it finds being dropped; a cell out of order, without a START, or past the limit of its kind
(1,600 or 120 bytes) drops and counts; the END cell completes the unit, which waits for DATA_DOWN or is taken as a
message, as the command of its type takes it. A DATA cell that finds the pool of 64 cells full drops its unit, and while
host power is off DATA cells are not kept. A command that finds no occasion changes nothing: the model's choice (log 1).
A slot takes 80 bytes at FULL and 40 at REDUCED, and the first that does not fit and all after it are omitted. The
start of a superframe, and that a payload is cut or padded to its length: log 7, log 10, as are latched slots. That a
cell taken with the link out of service changes nothing, so the rest of a superframe in which a message has ended the
service is ignored, is the model's choice too (log 69). -/
def Obligations.DownstreamIsTaken : Prop :=
  (∀ (payload : List Byte) (s : State), s.dormant = false →
    (s.le.link ≠ .inService → exec (.downstreamSuperframe payload) s = .next s.settle)
    ∧ (s.le.link = .inService → ∃ (n used : Nat) (l : List Byte) (slots : List Slot) (cells : List (List Byte))
        (v w : State),
      n = (s.tt.down.map (·.b)).sum * (39 - s.emptied) / 8 ∧ l = (payload ++ List.replicate n 0).take n
      ∧ slots = fitSlots n s.ss.slots ∧ used = (slots.map fun x => codingBytes x.coding).sum
      ∧ cells.length = (n - used) / 64
      ∧ (∀ k, k < cells.length → cells[k]? = some ((l.drop (used + 64 * k)).take 64))
      ∧ v = { s with ports := v.ports }
      ∧ (∀ p, v.port p = { s.port p with voice := (v.port p).voice })
      ∧ (∀ p, (s.port p).audio ≠ .line ∨ (∀ x ∈ slots, x.port ≠ p) → (v.port p).voice = none)
      ∧ (∀ before x after, slots = before ++ x :: after → (∀ y ∈ after, y.port ≠ x.port) →
          (s.port x.port).audio = .line → (v.port x.port).voice
            = some ((l.drop (before.map fun y => codingBytes y.coding).sum).take (codingBytes x.coding)))
      ∧ w = cells.foldl State.takeCell v
      ∧ (w.le.link = .inService → exec (.downstreamSuperframe payload) s = .next (State.settle
          { w with le := { w.le with
              sf := w.le.sf + 1, sfStart := w.le.sfStart + 40
              evalDue := w.le.evalDue || (w.le.sf + 1).toNat % 100 == 0 } }))
      ∧ (w.le.link ≠ .inService → exec (.downstreamSuperframe payload) s = .next w.settle)))
  ∧ (codingBytes .full = 80 ∧ codingBytes .reduced = 40 ∧ ∀ n, fitSlots n [] = [] ∧ ∀ (x : Slot) (l : List Slot),
      (codingBytes x.coding ≤ n → fitSlots n (x :: l) = x :: fitSlots (n - codingBytes x.coding) l)
      ∧ (n < codingBytes x.coding → fitSlots n (x :: l) = []))
  ∧ (∀ (l : List Byte) (head used : Nat) (s : State), head = ((l[0]?).getD 0).toNat → used = ((l[2]?).getD 0).toNat →
    (s.le.link ≠ .inService → s.takeCell l = s)
    ∧ (s.le.link = .inService → crc8 (l.take 63) ≠ (l[63]?).getD 0 → s.takeCell l =
      { s with ss := { s.ss with
          dataPartial := none, mgmtPartial := none
          counts := { s.ss.counts with
            checkFails := inc32 s.ss.counts.checkFails
            unitsCheck := add32 s.ss.counts.unitsCheck
              ((if s.ss.dataPartial = none then 0 else 1) + (if s.ss.mgmtPartial = none then 0 else 1)) } } })
    ∧ (s.le.link = .inService → crc8 (l.take 63) = (l[63]?).getD 0 →
        192 ≤ head ∨ (64 ≤ head ∧ (used = 0 ∨ 60 < used ∨ (used < 60 ∧ head % 32 < 16))) → s.takeCell l =
      { s with ss := { s.ss with
          dataPartial := none, mgmtPartial := none
          counts := { s.ss.counts with
            formatFaults := inc32 s.ss.counts.formatFaults
            unitsCheck := add32 s.ss.counts.unitsCheck
              ((if s.ss.dataPartial = none then 0 else 1) + (if s.ss.mgmtPartial = none then 0 else 1)) } } })
    ∧ (crc8 (l.take 63) = (l[63]?).getD 0 → head < 64 → s.takeCell l = s)
    ∧ s.takeCell idleCell = s)
  ∧ (∀ (c : Cell) (waits : Nat) (s : State), s.le.link = .inService → c.index < 16 → c.seq < 256 → c.data ≠ [] →
    c.data.length ≤ 60 → (c.fin = false → c.data.length = 60) →
    waits = (s.plk.dataDown.map fun u => (u.length + 59) / 60).sum →
    (s.sup.procPwr = false → s.takeCell (cellBytes false c) = if c.start then
      { s with ss := { s.ss with counts := { s.ss.counts with unitsPower := inc32 s.ss.counts.unitsPower } } } else s)
    ∧ (s.sup.procPwr = true → c.start = true → c.index = 0 → waits < 64 → s.takeCell (cellBytes false c) =
      { s with
        ss := { s.ss with
          dataPartial := if c.fin then none else some { seq := c.seq, nextIndex := 1, cells := 1, bytes := c.data }
          counts := { s.ss.counts with
            unitsSequence := add32 s.ss.counts.unitsSequence (if s.ss.dataPartial = none then 0 else 1)
            cellsSequence := add32 s.ss.counts.cellsSequence 0 } }
        plk := { s.plk with dataDown := s.plk.dataDown ++ if c.fin then [c.data] else [] } })
    ∧ (s.sup.procPwr = true → c.start = true → c.index = 0 → 64 ≤ waits → s.takeCell (cellBytes false c) =
      { s with ss := { s.ss with
          dataPartial := none
          counts := { s.ss.counts with
            unitsSequence := add32 s.ss.counts.unitsSequence (if s.ss.dataPartial = none then 0 else 1)
            cellsSequence := add32 s.ss.counts.cellsSequence 0, unitsRoom := inc32 s.ss.counts.unitsRoom } } })
    ∧ (s.sup.procPwr = true → c.start = true → c.index ≠ 0 → s.takeCell (cellBytes false c) =
      { s with ss := { s.ss with
          dataPartial := none
          counts := { s.ss.counts with
            unitsSequence := add32 s.ss.counts.unitsSequence (if s.ss.dataPartial = none then 0 else 1)
            cellsSequence := add32 s.ss.counts.cellsSequence 1 } } })
    ∧ (s.sup.procPwr = true → c.start = false → s.ss.dataPartial = none → s.takeCell (cellBytes false c) =
      { s with ss := { s.ss with counts := { s.ss.counts with orphans := inc32 s.ss.counts.orphans } } })
    ∧ (∀ p : Partial, s.sup.procPwr = true → c.start = false → s.ss.dataPartial = some p →
      (c.seq ≠ p.seq ∨ c.index ≠ p.nextIndex → s.takeCell (cellBytes false c) =
        { s with ss := { s.ss with
            dataPartial := none
            counts := { s.ss.counts with
              unitsSequence := add32 s.ss.counts.unitsSequence 1
              cellsSequence := add32 s.ss.counts.cellsSequence 1 } } })
      ∧ (c.seq = p.seq → c.index = p.nextIndex → 1600 < p.bytes.length + c.data.length →
        s.takeCell (cellBytes false c) =
          { s with ss := { s.ss with
              dataPartial := none
              counts := { s.ss.counts with unitsLong := inc32 s.ss.counts.unitsLong } } })
      ∧ (c.seq = p.seq → c.index = p.nextIndex → p.bytes.length + c.data.length ≤ 1600 → 64 ≤ p.cells + waits →
        s.takeCell (cellBytes false c) =
          { s with ss := { s.ss with
              dataPartial := none
              counts := { s.ss.counts with unitsRoom := inc32 s.ss.counts.unitsRoom } } })
      ∧ (c.seq = p.seq → c.index = p.nextIndex → p.bytes.length + c.data.length ≤ 1600 → p.cells + waits < 64 →
        s.takeCell (cellBytes false c) =
          { s with
            ss := { s.ss with
              dataPartial := if c.fin then none else some { p with
                nextIndex := (p.nextIndex + 1) % 16, cells := p.cells + 1, bytes := p.bytes ++ c.data } }
            plk := { s.plk with dataDown := s.plk.dataDown ++ if c.fin then [p.bytes ++ c.data] else [] } })))
  ∧ (∀ (c : Cell) (s v : State), s.le.link = .inService → c.index < 16 → c.seq < 256 → c.data ≠ [] →
    c.data.length ≤ 60 → (c.fin = false → c.data.length = 60) → v = { s with ss := { s.ss with mgmtPartial := none } } →
    (c.start = true → ∀ w : State, w = { v with ss := { v.ss with counts := { v.ss.counts with
          unitsSequence := add32 v.ss.counts.unitsSequence (if s.ss.mgmtPartial = none then 0 else 1)
          cellsSequence := add32 v.ss.counts.cellsSequence (if c.index = 0 then 0 else 1) } } } →
      (c.index ≠ 0 → s.takeCell (cellBytes true c) = w)
      ∧ (c.index = 0 → c.fin = true → s.takeCell (cellBytes true c) = w.takeMessage c.data)
      ∧ (c.index = 0 → c.fin = false → s.takeCell (cellBytes true c) = { w with ss := { w.ss with
          mgmtPartial := some { seq := c.seq, nextIndex := 1, cells := 1, bytes := c.data } } }))
    ∧ (c.start = false → s.ss.mgmtPartial = none → s.takeCell (cellBytes true c) =
      { s with ss := { s.ss with counts := { s.ss.counts with orphans := inc32 s.ss.counts.orphans } } })
    ∧ (∀ p : Partial, c.start = false → s.ss.mgmtPartial = some p →
      (c.seq ≠ p.seq ∨ c.index ≠ p.nextIndex → s.takeCell (cellBytes true c) =
        { v with ss := { v.ss with counts := { v.ss.counts with
            unitsSequence := add32 v.ss.counts.unitsSequence 1
            cellsSequence := add32 v.ss.counts.cellsSequence 1 } } })
      ∧ (c.seq = p.seq → c.index = p.nextIndex → 120 < p.bytes.length + c.data.length →
        s.takeCell (cellBytes true c) = { v with ss := { v.ss with counts := { v.ss.counts with
          unitsLong := inc32 v.ss.counts.unitsLong } } })
      ∧ (c.seq = p.seq → c.index = p.nextIndex → p.bytes.length + c.data.length ≤ 120 → c.fin = true →
        s.takeCell (cellBytes true c) = v.takeMessage (p.bytes ++ c.data))
      ∧ (c.seq = p.seq → c.index = p.nextIndex → p.bytes.length + c.data.length ≤ 120 → c.fin = false →
        s.takeCell (cellBytes true c) = { s with ss := { s.ss with mgmtPartial := some { p with
          nextIndex := (p.nextIndex + 1) % 16, cells := p.cells + 1, bytes := p.bytes ++ c.data } } })))
  ∧ ∀ (t n l : Byte) (body : List Byte) (c : Instr) (s : State), s.dormant = false →
    (t = 0x7E ∧ c = .ack n l body) ∨ (t = 0x7F ∧ c = .nak n l body) ∨ (t = 0x50 ∧ c = .alert n l body)
      ∨ (t = 0x51 ∧ c = .clear n l body) ∨ (t = 0x52 ∧ c = .answered n l body) ∨ (t = 0x60 ∧ c = .upTable n l body)
      ∨ (t = 0x61 ∧ c = .retrain n l body) ∨ (t = 0x70 ∧ c = .testReq n l body)
      ∨ (t = 0x78 ∧ c = .beaconClear n l body) ∨ (knownType t = false ∧ c = .unknownTypeMessage t n l body) →
    exec c s = .next (s.takeMessage (t :: n :: l :: body)).settle

/-- R68: out of service no message is taken; in service a unit whose length byte does not give its length, or exceeds
117, is counted as received and as malformed and goes no further, whatever its type. ACK and NAK (R72, R104),
TRANSACTION_TIMEOUT (R71), whose first and second place the same message again under the same number, and
UNKNOWN_TYPE_MESSAGE (R68). An answer whose number names no transaction is counted. A SEIZE accepted with a free
channel and a coding that fits brings its call to DIALLING; one refused brings it to BLOCKED with cause REFUSED, and
its entry is free. An unknown type is answered NAK with cause UNKNOWN. A command that finds no occasion changes
nothing: the model's choice (log 1). Each message is a command (log 5); its result fields have exactly the layout of
log 26; the fields that a BLOCKED record keeps are those of log 46 and log 62. -/
def Obligations.AnswersAreJudged : Prop :=
  (∀ (c : Instr) (t n l : Byte) (body : List Byte) (s : State), s.dormant = false →
    c = .ack n l body ∨ c = .nak n l body ∨ c = .upTable n l body ∨ c = .alert n l body ∨ c = .clear n l body
      ∨ c = .answered n l body ∨ c = .testReq n l body ∨ c = .beaconClear n l body ∨ c = .retrain n l body
      ∨ (c = .unknownTypeMessage t n l body ∧ knownType t = false) →
    (s.le.link ≠ .inService → exec c s = .next s.settle)
    ∧ (s.le.link = .inService → body.length ≠ l.toNat ∨ 117 < l.toNat → exec c s = .next (State.settle
        { s with ss := { s.ss with counts := { s.ss.counts with
          messages := inc32 s.ss.counts.messages, malformed := inc32 s.ss.counts.malformed } } })))
  ∧ (∀ (n : Nat) (t : Tx) (s : State), s.dormant = false → s.le.link = .inService →
    (s.ss.txs.find? fun x => x.number == n) = some t → t.timeLeft ≠ none → t.sends < 3 →
    exec (.transactionTimeout n) s = .next (State.settle
      { s with ss := { s.ss with
          txs := s.ss.txs.map fun x => if x.number = n then { x with sends := x.sends + 1, timeLeft := none } else x
          outQueue := s.ss.outQueue ++
            [{ who := .send n, cells := cellsOf s.ss.mgmtSeq (message t.req.kind.code n t.req.body)
               started := false }]
          mgmtSeq := (s.ss.mgmtSeq + 1) % 256 } }))
  ∧ ((∀ (n l : Byte) (body : List Byte) (s : State), s.dormant = false → s.le.link = .inService →
    body.length = l.toNat → l.toNat ≤ 117 → (∀ t ∈ s.ss.txs, t.number ≠ n.toNat) →
    ∃ u : State, u = { s with ss := { s.ss with counts := { s.ss.counts with
          messages := inc32 s.ss.counts.messages, unmatched := inc32 s.ss.counts.unmatched } } }
      ∧ exec (.ack n l body) s = .next u.settle ∧ exec (.nak n l body) s = .next u.settle)
  ∧ (∀ (n : Byte) (t : Tx) (p : Port) (s : State), s.dormant = false → s.le.link = .inService →
    (s.ss.txs.find? fun t => t.number == n.toNat) = some t → t.req.kind = .seize → t.req.port = some p →
    t.req.tag = (s.call p).serial → (s.call p).state = .seizing →
    (∀ (ch cod : Byte) (c : Coding), ch.toNat < 4 → cod.toNat = c.ctorIdx →
      s.channelTaken p ch.toNat = false → (s.call p).downgrade = none →
      ((s.call p).coding = some c ∨ ((s.call p).coding = some .full ∧ c = .reduced)) →
      s.effProfile ≠ .lifeline → s.passes s.voiceRequirement = true →
      ∃ u : State, exec (.ack n 2 [ch, cod]) s = .next u.settle
        ∧ (u.call p).state = .dialling ∧ (u.call p).channel = some ch.toNat ∧ (u.call p).coding = some c
        ∧ (u.call p).txs.seize = false
        ∧ u.settings = s.settings ∧ u.sts = s.sts ∧ u.uptime = s.uptime ∧ u.sup.mode = s.sup.mode
        ∧ u.mu.accounts = s.mu.accounts ∧ u.plk.requests = s.plk.requests)
    ∧ ∀ cause : Byte, ∃ u : State, exec (.nak n 1 [cause]) s = .next u.settle
        ∧ u.call p = { s.call p with
            state := .blocked, cause := .refused, coding := none
            txs := { (s.call p).txs with seize := false } }
        ∧ u.call p.other = s.call p.other
        ∧ (s.ss.waiting = [] → u.ss.txs = s.ss.txs.filter fun x => x.number != n.toNat)
        ∧ u.settings = s.settings ∧ u.sts = s.sts ∧ u.uptime = s.uptime ∧ u.sup = s.sup
        ∧ u.mu = s.mu ∧ u.plk.requests = s.plk.requests)
  ∧ ∀ (t n l : Byte) (body : List Byte) (s : State), s.dormant = false → s.le.link = .inService →
    knownType t = false → body.length = l.toNat → l.toNat ≤ 117 →
    (s.ss.outQueue.filter fun m => !m.isSend).length < 24 →
    exec (.unknownTypeMessage t n l body) s = .next (State.settle
      { s with ss := { s.ss with
          outQueue := s.ss.outQueue ++
            [{ who := .answer none n false, cells := cellsOf s.ss.mgmtSeq [0x7F, n, 1, 1], started := false }]
          mgmtSeq := (s.ss.mgmtSeq + 1) % 256
          counts := { s.ss.counts with
            messages := inc32 s.ss.counts.messages, unknownType := inc32 s.ss.counts.unknownType } } }))

/-- THE ENDS OF TRANSACTIONS (R71, R72). The third timeout, and an ACK whose result fields have another layout, end the
transaction as failed: its entry leaves the list, the failure counts and LINK_PROTOCOL is reported, whose record is
CLEAR or RECOVERED since R154 allows it REPORT and SILENT only. What an ACK, a NAK and a failure do for each kind, with
no other request waiting: SWAP and RATE (R33, R34), PROFILE of a change and of a need (R18, R38), GATE_SET and
GATE_CLEAR (R49 to R51), TEST_RESULT (R150), DIGIT (R105), ANSWER (R110), RELEASE (R106), CODING (R102), and SEIZE
refused or failed (R104). That an outcome is told to the call that asked, so that one whose tag is not the serial of
its port's record changes no call, is the model's (log 33; R106 says so of DIGIT, ANSWER and CODING alone), and so are
the marks serial and digitsUpTo themselves (log 16). The layouts: log 26; the fields a BLOCKED record keeps: log 46, log
62; the cause a SEIZE without a channel leaves in CLEARING: log 21; a failed PROFILE of a
change: log 32. -/
def Obligations.TransactionsEnd : Prop :=
  ∀ (n : Byte) (t : Tx) (s w v : State) (refused failed : Instr → Prop), s.dormant = false → s.le.link = .inService →
    (s.ss.txs.find? fun x => x.number == n.toNat) = some t →
    w = { s with ss := { s.ss with
        txs := s.ss.txs.filter fun x => x.number != n.toNat
        outQueue := s.ss.outQueue.filter fun m => !(m.who == .send n.toNat && !m.started) } } →
    v = { w with ss := { w.ss with counts := { s.ss.counts with messages := inc32 s.ss.counts.messages } } } →
    (∀ c, refused c ↔ ∃ cause, c = .nak n 1 [cause]) →
    (∀ c, failed c ↔ (c = .transactionTimeout n.toNat ∧ t.timeLeft ≠ none ∧ 3 ≤ t.sends)
      ∨ ∃ l body, c = .ack n l body ∧ body.length = l.toNat ∧ l.toNat ≤ 117 ∧ (match t.req.kind with
          | .seize => body.length ≠ 2
          | .coding | .swap | .rate => body.length ≠ 4
          | _ => body ≠ [])) →
    (∀ c, failed c → ∃ u : State, exec c s = .next u.settle
      ∧ u.ss.counts.failed = inc32 s.ss.counts.failed ∧ (3 ≤ t.sends → t ∉ u.ss.txs)
      ∧ (s.fs.recs.linkProtocol.state = .clear ∨ s.fs.recs.linkProtocol.state = .recovered →
          (s.settings.faults.records.linkProtocol.policy = .report →
            u.fs.recs.linkProtocol.state = .recovered
            ∧ u.fs.recs.linkProtocol.count = min 255 (s.fs.recs.linkProtocol.count + 1))
          ∧ (s.settings.faults.records.linkProtocol.policy = .silent →
            u.fs.recs.linkProtocol = s.fs.recs.linkProtocol))
      ∧ u.settings = s.settings ∧ u.sts = s.sts ∧ u.uptime = s.uptime ∧ u.mu = s.mu ∧ u.sup.mode = s.sup.mode)
    ∧ (s.ss.waiting = [] →
      (∀ d r, t.req.kind = .swap → s.tt.inFlight = .swap d r (some n.toNat) none → s.tt.waitingRate = none →
        (∀ e, ahead e s.le.sf = true → exec (.ack n 4 (wBV e)) s = .next (State.settle
          { v with tt := { s.tt with inFlight := .swap d r (some n.toNat) (some e) } }))
        ∧ (∀ e, ahead e s.le.sf = false → ∃ u : State, exec (.ack n 4 (wBV e)) s = .next u.settle
            ∧ u.le.lastLoss = .protocol ∧ u.le.link ≠ .inService ∧ u.ss.txs = [])
        ∧ (∀ c x, (refused c ∧ x = ChangeResult.refused) ∨ (failed c ∧ x = ChangeResult.failed) →
            ∃ u : State, exec c s = .next u.settle
              ∧ u.tt = { s.tt with
                  inFlight := .none, lastResult := x
                  lowCounts := s.tt.lowCounts.zipIdx.map fun y => if y.2 + 32 = d then 0 else y.1 }
              ∧ u.le = s.le ∧ u.ss.txs = w.ss.txs ∧ u.cc = s.cc ∧ u.ports = s.ports))
      ∧ (∀ m, t.req.kind = .rate → s.tt.inFlight = .rate m (some n.toNat) none → s.tt.waitingRate = none →
        (∀ e, ahead e s.le.sf = true → exec (.ack n 4 (wBV e)) s = .next (State.settle
          { v with tt := { s.tt with inFlight := .rate m (some n.toNat) (some e) } }))
        ∧ (∀ e, ahead e s.le.sf = false → ∃ u : State, exec (.ack n 4 (wBV e)) s = .next u.settle
            ∧ u.le.lastLoss = .protocol ∧ u.le.link ≠ .inService ∧ u.ss.txs = [])
        ∧ (∀ c x, (refused c ∧ x = ChangeResult.refused) ∨ (failed c ∧ x = ChangeResult.failed) →
            ∃ u : State, exec c s = .next u.settle
              ∧ u.tt = { s.tt with inFlight := .none, lastResult := x }
              ∧ u.le = s.le ∧ u.ss.txs = w.ss.txs ∧ u.cc = s.cc ∧ u.ports = s.ports))
      ∧ (t.req.kind = .profile → t.req.tag = 1 →
        exec (.ack n 0 []) s = .next (State.settle { v with le := { s.le with changeInFlight := false } })
        ∧ (∀ c, refused c ∨ failed c → ∃ u : State, exec c s = .next u.settle
            ∧ u.le.lastLoss = .protocol ∧ u.le.link ≠ .inService ∧ u.ss.txs = []))
      ∧ (t.req.kind = .profile → t.req.tag ≠ 1 →
        exec (.ack n 0 []) s = .next (State.settle { v with le := { s.le with needInFlight := false } })
        ∧ (∀ c, refused c ∨ failed c → ∃ u : State, exec c s = .next u.settle
            ∧ u.le = { s.le with needInFlight := false } ∧ u.tt = s.tt ∧ u.ss.txs = w.ss.txs ∧ u.cc = s.cc))
      ∧ (∀ g, t.req.kind = .gateSet → s.ft.request = .set g →
        (ahead g.anchor s.le.sf = true → ∃ u : State, exec (.ack n 0 []) s = .next u.settle
            ∧ u.ft = { s.ft with
                request := .none
                agreement := match s.ft.agreement with
                  | none => some { cur := g, active := false, repl := none, endSf := none }
                  | some a => some { a with repl := some g } }
            ∧ u.le = s.le ∧ u.tt = s.tt ∧ u.ss = v.ss)
        ∧ (∀ c, refused c → exec c s = .next (State.settle (State.raise
            { v with ft := { s.ft with request := .none, retry := some 10000 } } .gate)))
        ∧ (∀ c, (c = .ack n 0 [] ∧ ahead g.anchor s.le.sf = false) ∨ failed c → ∃ u : State,
            exec c s = .next u.settle ∧ u.le.lastLoss = .protocol ∧ u.le.link ≠ .inService ∧ u.ss.txs = []
            ∧ u.ft.agreement = none ∧ u.ft.request = .none))
      ∧ (∀ e, t.req.kind = .gateClear → s.ft.request = .clear e →
        (ahead e s.le.sf = true →
          exec (.ack n 0 []) s = .next (State.settle { v with ft := { s.ft with request := .none } }))
        ∧ (∀ c, (c = .ack n 0 [] ∧ ahead e s.le.sf = false) ∨ refused c ∨ failed c → ∃ u : State,
            exec c s = .next u.settle ∧ u.le.lastLoss = .protocol ∧ u.le.link ≠ .inService ∧ u.ss.txs = []
            ∧ u.ft.agreement = none ∧ u.ft.request = .none))
      ∧ (∀ i, t.req.kind = .testResult →
        (allResults.find? fun j => (s.tu.results.get j).serial == t.req.tag) = some i →
        (s.tu.results.get i).report = .inFlight →
        ∀ c x, (c = .ack n 0 [] ∧ x = Report.delivered) ∨ ((refused c ∨ failed c) ∧ x = Report.undelivered) →
          ∃ u : State, exec c s = .next u.settle
            ∧ u.tu = { s.tu with results := s.tu.results.set i { s.tu.results.get i with report := x } }
            ∧ u.le = s.le ∧ u.ss.txs = w.ss.txs ∧ u.cc = s.cc)
      ∧ (∀ p, t.req.port = some p → t.req.tag ≠ (s.call p).serial →
        t.req.kind = .seize ∨ t.req.kind = .digit ∨ t.req.kind = .release ∨ t.req.kind = .answer
          ∨ t.req.kind = .coding →
        ∀ c, refused c ∨ failed c ∨ (c = .ack n 0 [] ∧ t.req.kind ≠ .seize ∧ t.req.kind ≠ .coding) →
          ∃ u : State, exec c s = .next u.settle ∧ u.cc = s.cc ∧ u.ports = s.ports ∧ u.le = s.le
            ∧ u.ss.txs = w.ss.txs)
      ∧ ∀ p, t.req.port = some p → t.req.tag = (s.call p).serial →
        (t.req.kind = .digit → (s.call p).state = .dialling ∨ (s.call p).state = .connected →
          (∃ u : State, exec (.ack n 0 []) s = .next u.settle
            ∧ u.call p = { s.call p with txs := { (s.call p).txs with digit := false } }
            ∧ u.call p.other = s.call p.other
            ∧ u.port p = { s.port p with digits := (s.port p).digits.zipIdx.map fun x =>
                if x.2 < (s.call p).digitsUpTo ∧ x.1.mark = .pending then { x.1 with mark := .forwarded } else x.1 }
            ∧ u.port p.other = s.port p.other ∧ u.le = s.le ∧ u.ss = v.ss)
          ∧ (∀ c, refused c ∨ failed c → ∃ u : State, exec c s = .next u.settle
            ∧ (u.call p).state = .clearing ∧ (u.call p).cause = .protocol
            ∧ (u.call p).channel = (s.call p).channel
            ∧ (u.call p).txs = { (s.call p).txs with digit := false, release := true }
            ∧ u.call p.other = s.call p.other ∧ u.le = s.le))
        ∧ (t.req.kind = .answer →
          (∃ u : State, exec (.ack n 0 []) s = .next u.settle
            ∧ u.call p = { s.call p with txs := { (s.call p).txs with answer := false } }
            ∧ u.call p.other = s.call p.other ∧ u.ports = s.ports ∧ u.le = s.le ∧ u.ss = v.ss)
          ∧ ((s.call p).state = .connected → ∀ c, refused c ∨ failed c → ∃ u : State, exec c s = .next u.settle
            ∧ (u.call p).state = .clearing ∧ (u.call p).cause = .protocol
            ∧ (u.call p).txs = { (s.call p).txs with answer := false, release := true }
            ∧ u.call p.other = s.call p.other ∧ u.le = s.le))
        ∧ (t.req.kind = .release → (s.call p).state = .clearing →
          ∀ c, c = .ack n 0 [] ∨ refused c ∨ failed c → ∃ u : State, exec c s = .next u.settle ∧ u.le = s.le
            ∧ ((s.port p).hook = .onHook → u.call p = { Reset.call with cause := (s.call p).cause }
                ∧ u.call p.other = s.call p.other)
            ∧ ((s.port p).hook ≠ .onHook → (s.call p).cause = .normal → (u.call p).dir = some .out)
            ∧ ((s.port p).hook ≠ .onHook → (s.call p).cause = .intercom → (u.call p).dir = some .intercom)
            ∧ ((s.port p).hook ≠ .onHook → (s.call p).cause ≠ .normal → (s.call p).cause ≠ .intercom →
                u.call p = { s.call p with
                  state := .blocked, channel := none, coding := none, downgrade := none
                  txs := { (s.call p).txs with release := false } }
                ∧ u.call p.other = s.call p.other ∧ (u.port p).tone = .congestion))
        ∧ (t.req.kind = .coding → (s.call p).carries = true → (s.call p).downgrade ≠ none →
          (∀ e, ahead e s.le.sf = true → ∃ u : State, exec (.ack n 4 (wBV e)) s = .next u.settle
            ∧ u.call p = { s.call p with
                downgrade := some ⟨some e⟩, txs := { (s.call p).txs with coding := false } }
            ∧ u.call p.other = s.call p.other ∧ u.ports = s.ports ∧ u.le = s.le ∧ u.ss = v.ss)
          ∧ (∀ e, ahead e s.le.sf = false → ∃ u : State, exec (.ack n 4 (wBV e)) s = .next u.settle
              ∧ u.le.lastLoss = .protocol ∧ u.le.link ≠ .inService ∧ u.ss.txs = [])
          ∧ (∀ c, refused c ∨ failed c → ∃ u : State, exec c s = .next u.settle
            ∧ (u.call p).state = .clearing ∧ (u.call p).cause = .capacity ∧ (u.call p).downgrade = none
            ∧ (u.call p).txs = { (s.call p).txs with coding := false, release := true }
            ∧ ((s.faultSetting (FaultId.voiceCapacity p)).policy = .report →
                (s.faultRec (FaultId.voiceCapacity p)).state = .clear
                  ∨ (s.faultRec (FaultId.voiceCapacity p)).state = .recovered →
                (u.faultRec (FaultId.voiceCapacity p)).count
                  = min 255 ((s.faultRec (FaultId.voiceCapacity p)).count + 1))
            ∧ u.call p.other = s.call p.other ∧ u.le = s.le))
        ∧ (t.req.kind = .seize → ∀ c, refused c ∨ failed c → ∃ u : State, exec c s = .next u.settle ∧ u.le = s.le
            ∧ ((s.call p).state = .seizing → u.call p = { s.call p with
                state := .blocked, coding := none, cause := (u.call p).cause
                txs := { (s.call p).txs with seize := false } }
              ∧ (refused c → (u.call p).cause = .refused) ∧ (failed c → (u.call p).cause = .protocol)
              ∧ u.call p.other = s.call p.other ∧ (u.port p).tone = .congestion)
            ∧ ((s.call p).state = .clearing → (s.port p).hook = .onHook →
              (refused c → u.call p = { Reset.call with cause := (s.call p).cause })
              ∧ (failed c → u.call p = { Reset.call with cause := .protocol })
              ∧ u.call p.other = s.call p.other)
            ∧ ((s.call p).state = .clearing → (s.port p).hook ≠ .onHook → failed c →
              u.call p = { s.call p with
                state := .blocked, cause := .protocol, channel := none, coding := none, downgrade := none
                txs := { (s.call p).txs with seize := false } }
              ∧ u.call p.other = s.call p.other ∧ (u.port p).tone = .congestion)))

/-- RETRAIN (R14, R73): a fresh one is acknowledged, recorded, and starts the 100 ms of a FAR_END loss, which a second
does not restart; a repeat is answered from the record; one with a body is answered NAK with cause INVALID. UP_TABLE
(R36): refused with CAP, TABLE or LATE, by the pending profile or else the one in force, with nothing waiting changed;
otherwise acknowledged and waiting for its S_eff. The body's layout, the clamp of its values, and a second RETRAIN:
log 26, log 39; the cause where several cases hold: log 59. -/
def Obligations.RetrainAndTableAnswered : Prop :=
  (∀ (n : Byte) (s : State), s.dormant = false → s.le.link = .inService →
    (s.ss.outQueue.filter fun m => !m.isSend).length < 24 →
    (s.ss.repeats.retrain.last ≠ some n →
      ∃ u : State, exec (.retrain n 0 []) s = .next u.settle
        ∧ u.le = { s.le with farEnd := s.le.farEnd <|> some { number := n, timer := 100 } }
        ∧ u.ss = { s.ss with
            outQueue := s.ss.outQueue ++
              [{ who := .answer (some .retrain) n true, cells := cellsOf s.ss.mgmtSeq [0x7E, n, 0], started := false }]
            mgmtSeq := (s.ss.mgmtSeq + 1) % 256
            repeats := { s.ss.repeats with retrain := ⟨some n, .held true [0x7E, n, 0]⟩ }
            counts := { s.ss.counts with messages := inc32 s.ss.counts.messages } }
        ∧ u.tt = s.tt ∧ u.ft = s.ft ∧ u.ports = s.ports ∧ u.cc = s.cc ∧ u.mu = s.mu ∧ u.sup = s.sup ∧ u.tu = s.tu
        ∧ u.fs = s.fs ∧ u.plk = s.plk ∧ u.sts = s.sts ∧ u.settings = s.settings)
    ∧ (∀ positive msg, s.ss.repeats.retrain = ⟨some n, .held positive msg⟩ →
      exec (.retrain n 0 []) s = .next (State.settle
        { s with ss := { s.ss with
            outQueue := s.ss.outQueue ++
              [{ who := .answer (some .retrain) n positive, cells := cellsOf s.ss.mgmtSeq msg, started := false }]
            mgmtSeq := (s.ss.mgmtSeq + 1) % 256
            counts := { s.ss.counts with
              messages := inc32 s.ss.counts.messages, repeats := inc32 s.ss.counts.repeats } } }))
    ∧ (∀ b : Byte, ∃ u : State, exec (.retrain n 1 [b]) s = .next u.settle ∧ u.le = s.le
        ∧ u.ss = { s.ss with
            outQueue := s.ss.outQueue ++
              [{ who := .answer none n false, cells := cellsOf s.ss.mgmtSeq [0x7F, n, 1, 2], started := false }]
            mgmtSeq := (s.ss.mgmtSeq + 1) % 256
            counts := { s.ss.counts with
              messages := inc32 s.ss.counts.messages, malformed := inc32 s.ss.counts.malformed } }
        ∧ u.settings = s.settings ∧ u.ports = s.ports ∧ u.cc = s.cc ∧ u.sts = s.sts))
  ∧ (∀ (n : Byte) (body : List Byte) (e : Sf) (p : Profile) (bits : List Nat) (s : State), s.dormant = false →
    s.le.link = .inService → body.length = 43 → rSf (body.drop 39) = some (e, []) →
    bits = unpackCodes (body.take 13) → p = ((s.le.pending.map (·.profile)).getD s.le.inForce) →
    s.ss.repeats.upTable.last ≠ some n → (s.ss.outQueue.filter fun m => !m.isSend).length < 24 →
    ((∃ b ∈ bits, Profile.cap p < b) ∨ Profile.upBudget p < (bits.filter fun b => b ≠ 0).length →
      ∃ u : State, exec (.upTable n 43 body) s = .next u.settle ∧ u.tt = s.tt
        ∧ u.ss.repeats.upTable = ⟨some n, .held false [0x7F, n, 1, 6]⟩ ∧ u.settings = s.settings ∧ u.le = s.le)
    ∧ ((∀ b ∈ bits, b ≤ Profile.cap p) → (bits.filter fun b => b ≠ 0).length ≤ Profile.upBudget p →
      (1 ∈ bits → ∃ u : State, exec (.upTable n 43 body) s = .next u.settle ∧ u.tt = s.tt
        ∧ u.ss.repeats.upTable = ⟨some n, .held false [0x7F, n, 1, 7]⟩ ∧ u.settings = s.settings ∧ u.le = s.le)
      ∧ (1 ∉ bits → ahead e s.le.sf = false →
        ∃ u : State, exec (.upTable n 43 body) s = .next u.settle ∧ u.tt = s.tt
          ∧ u.ss.repeats.upTable = ⟨some n, .held false [0x7F, n, 1, 8]⟩ ∧ u.settings = s.settings ∧ u.le = s.le)
      ∧ (1 ∉ bits → ahead e s.le.sf = true →
        ∃ u : State, exec (.upTable n 43 body) s = .next u.settle
          ∧ u.tt = { s.tt with upWaiting := u.tt.upWaiting }
          ∧ u.tt.upWaiting = some
              { table := List.zipWith (fun b (x : Byte) => { s := min 240 x.toNat, b := b, masked := false }) bits
                  ((body.drop 13).take 26)
                seff := e, cap := Profile.cap p }
          ∧ u.ss.repeats.upTable = ⟨some n, .held true [0x7E, n, 0]⟩
          ∧ u.le = s.le ∧ u.ft = s.ft ∧ u.ports = s.ports ∧ u.cc = s.cc ∧ u.mu = s.mu ∧ u.sup = s.sup
          ∧ u.tu = s.tu ∧ u.fs = s.fs ∧ u.sts = s.sts ∧ u.settings = s.settings)))

/-- TEST_REQ (R149, R150) and BEACON_CLEAR (R164). An operator's LINE_FOREIGN with none running and supply starts at
once; a START of any kind and target that fit meets BUSY while an operator's runs; ABORT with none running meets
NONE_RUNNING. A beacon cleared silences a record that is not CLEAR and forgets what it owed. The layout of the body is
the model's choice (log 26, log 41). -/
def Obligations.OperatorCommands : Prop :=
  (∀ (n : Byte) (s : State), s.dormant = false → s.le.link = .inService → s.ss.repeats.testReq.last ≠ some n →
    (s.ss.outQueue.filter fun m => !m.isSend).length < 24 →
    (∀ prio : Bool, s.tu.current = none → s.sup.mode = .mains ∨ s.sup.mode = .battery ∨ s.sup.mode = .reserve →
      ∃ u : State, exec (.testReq n 4 [0, 0, 0, if prio then 1 else 0]) s = .next u.settle
        ∧ u.tu.current = some
            { kind := .lineForeign, target := .line, requester := .operator, priority := prio, reqNumber := some n
              phase := .running, start := some s.uptime, timeLeft := some 1000, arm := none
              r0 := ⟨0, 0, 0⟩, r1 := ⟨0, 0, 0⟩, r2 := ⟨0, 0, 0⟩ }
        ∧ u.ss.repeats.testReq = ⟨some n, .held true ([0x7E, n, 4, 0, 0] ++ w16 1000)⟩
        ∧ (∀ ch ∈ [Chan.lineTipE, Chan.lineRingE, Chan.lineTR], (u.mu.chans.get ch).owned = true)
        ∧ u.le = s.le ∧ u.tt = s.tt ∧ u.ports = s.ports ∧ u.cc = s.cc ∧ u.settings = s.settings ∧ u.fs = s.fs)
    ∧ (∀ (c : CurrentTest) (k : TestKind) (t : Target) (prio : Bool), s.tu.current = some c →
      c.requester = .operator → TestKind.fits k t = true →
      ∃ u : State, exec (.testReq n 4
          [0, BitVec.ofNat 8 k.ctorIdx, BitVec.ofNat 8 t.ctorIdx, if prio then 1 else 0]) s = .next u.settle
        ∧ u.tu = s.tu
        ∧ u.ss.repeats.testReq = ⟨some n, .held false [0x7F, n, 1, 3]⟩ ∧ u.mu = s.mu ∧ u.le = s.le)
    ∧ (s.tu.current = none → ∃ u : State, exec (.testReq n 1 [1]) s = .next u.settle ∧ u.tu = s.tu
        ∧ u.ss.repeats.testReq = ⟨some n, .held false [0x7F, n, 1, 12]⟩ ∧ u.mu = s.mu ∧ u.le = s.le))
  ∧ ∀ (n : Byte) (i : FaultId) (s : State), s.dormant = false → s.le.link = .inService →
    s.ss.repeats.beaconClear.last ≠ some n → (s.ss.outQueue.filter fun m => !m.isSend).length < 24 →
    ∃ u : State, exec (.beaconClear n 2 (wFault i)) s = .next u.settle
      ∧ ((s.faultRec i).state ≠ .clear → u.faultRec i = { s.faultRec i with silenced := true, owed := false })
      ∧ ((s.faultRec i).state = .clear → u.fs = s.fs)
      ∧ (∀ j, j ≠ i → u.faultRec j = s.faultRec j)
      ∧ u.ss.repeats.beaconClear = ⟨some n, .held true [0x7E, n, 0]⟩
      ∧ u.le = s.le ∧ u.tt = s.tt ∧ u.ft = s.ft ∧ u.ports = s.ports ∧ u.cc = s.cc ∧ u.mu = s.mu ∧ u.sup = s.sup
      ∧ u.tu = s.tu ∧ u.sts = s.sts ∧ u.settings = s.settings

/-! ## Calls (chapter 6) -/

/-- ALERT (R108), with a caller number of 1 to 16 digits or none: for a free on-hook port in service and a free channel,
with room for the coding admitted, the call is ALERTING_IN for 120 s and waits for its ring decision unless custody is
PART; another port, or a channel above 3 or held, is INVALID; a port in use or held is BUSY, but for one that only the
host's PORT_LOOP holds, which is ended ABORTED with cause ALERT first (R148); admission that fails is CAPACITY; an
admission wait of 2 s leaves the answer pending. A channel kept by an admission wait counts as held, and a waiting
record has its caller number and the coding REDUCED (log 22); its serial and order are the model's marks (log 16). The
record most recently written: log 66. -/
def Obligations.AlertsArrive : Prop :=
  ∀ (n ch : Byte) (p : Port) (caller : Option (List Digit)) (body : List Byte) (s : State) (alone : Prop)
    (ended : State → Prop), s.dormant = false → s.le.link = .inService →
    s.ss.repeats.alert.last ≠ some n → (s.ss.outQueue.filter fun m => !m.isSend).length < 24 →
    (∀ ds, caller = some ds → 1 ≤ ds.length ∧ ds.length ≤ 16) → body = wPort p ++ [ch] ++ wOpt (wList wDigit) caller →
    (alone ↔ (s.port p).hold = ⟨false, false, false, true, false⟩
      ∧ ∃ t, s.tu.current = some t ∧ t.kind = .portLoop ∧ t.requester = .box ∧ Target.port t.target = p) →
    (∀ u, ended u ↔ ((s.port p).hold.isEmpty = true → u.tu = s.tu)
      ∧ ((s.port p).hold.isEmpty = false → ∀ t id, s.tu.current = some t → id = TestKind.result t.kind t.target →
        u.tu.current = none ∧ (u.port p).hold.isEmpty = true
        ∧ (∀ x ∈ TestKind.channels t.kind t.target, (u.mu.chans.get x).owned = false)
        ∧ u.tu.lastWritten = some id ∧ (u.tu.results.get id).latest
          = some { outcome := .aborted, cause := some .alert, requester := .box, endTime := s.uptime }
        ∧ (u.tu.results.get id).completed = (s.tu.results.get id).completed)) →
    (4 ≤ ch.toNat ∨ s.channelTaken p ch.toNat = true →
      ∃ u : State, exec (.alert n (BitVec.ofNat 8 body.length) body) s = .next u.settle
        ∧ u.cc = s.cc ∧ u.ports = s.ports
        ∧ u.ss.repeats.alert = ⟨some n, .held false [0x7F, n, 1, 2]⟩ ∧ u.le = s.le ∧ u.settings = s.settings)
    ∧ (∀ b : Byte, b ≠ 1 → b ≠ 2 →
      ∃ u : State, exec (.alert n 3 [b, ch, 0]) s = .next u.settle ∧ u.cc = s.cc ∧ u.ports = s.ports
        ∧ u.ss.repeats.alert = ⟨some n, .held false [0x7F, n, 1, 2]⟩ ∧ u.le = s.le ∧ u.settings = s.settings)
    ∧ (ch.toNat < 4 → s.channelTaken p ch.toNat = false →
        (s.call p).state ≠ .free ∨ (s.port p).hook ≠ .onHook ∨ ((s.port p).hold.isEmpty = false ∧ ¬ alone) →
      ∃ u : State, exec (.alert n (BitVec.ofNat 8 body.length) body) s = .next u.settle
        ∧ u.cc = s.cc ∧ u.ports = s.ports ∧ u.tu = s.tu
        ∧ u.ss.repeats.alert = ⟨some n, .held false [0x7F, n, 1, 3]⟩ ∧ u.le = s.le ∧ u.settings = s.settings)
    ∧ (ch.toNat < 4 → s.channelTaken p ch.toNat = false → (s.call p).state = .free →
        (s.port p).hook = .onHook → (s.port p).hold.isEmpty = true ∨ alone →
      (s.admission = .fail → ∃ u : State, exec (.alert n (BitVec.ofNat 8 body.length) body) s = .next u.settle
        ∧ ended u ∧ u.cc = s.cc ∧ ((s.port p).hold.isEmpty = true → u.ports = s.ports)
        ∧ u.ss.repeats.alert = ⟨some n, .held false [0x7F, n, 1, 4]⟩ ∧ u.le = s.le ∧ u.settings = s.settings)
      ∧ (s.admission = .wait → ∃ u : State, exec (.alert n (BitVec.ofNat 8 body.length) body) s = .next u.settle
        ∧ ended u
        ∧ u.call p = { Reset.call with
            state := .alertingIn, dir := some .incoming, coding := some .reduced, caller := caller
            admission := some 2000, serial := s.cc.nextSerial, order := s.cc.nextSerial
            alertNumber := some n, alertChannel := some ch.toNat }
        ∧ u.call p.other = s.call p.other ∧ (u.port p).ringRequest = (s.port p).ringRequest
        ∧ u.port p.other = s.port p.other
        ∧ u.ss.repeats.alert = ⟨some n, .pending⟩ ∧ u.ss.outQueue = s.ss.outQueue ∧ u.ss.txs = s.ss.txs
        ∧ u.le = s.le ∧ u.fs = s.fs ∧ u.settings = s.settings ∧ u.sup = s.sup)
      ∧ ∀ c : Coding, s.admission = .at c →
        ∃ u : State, exec (.alert n (BitVec.ofNat 8 body.length) body) s = .next u.settle
        ∧ ended u
        ∧ (u.call p).state = .alertingIn ∧ (u.call p).dir = some .incoming ∧ (u.call p).channel = some ch.toNat
        ∧ (u.call p).coding = some c ∧ (u.call p).alert = some 120000 ∧ (u.call p).caller = caller
        ∧ (s.cc.custody = .part → (u.call p).sub = some .ringingPlan)
        ∧ (s.cc.custody ≠ .part → (u.call p).sub = some .decisionWanted ∧ (u.call p).decision = some 2000
            ∧ (u.port p).ringRequest = (s.port p).ringRequest)
        ∧ ((s.call p.other).alertNumber ≠ some n →
            u.ss.repeats.alert = ⟨some n, .held true [0x7E, n, 1, BitVec.ofNat 8 c.ctorIdx]⟩)
        ∧ u.settings = s.settings ∧ u.sts = s.sts ∧ u.uptime = s.uptime ∧ u.sup.mode = s.sup.mode
        ∧ u.mu.accounts = s.mu.accounts ∧ u.plk.requests = s.plk.requests)

/-- CLEAR and ANSWERED (R104, R110), each acknowledged: the far end's clear of a call's channel ends an outgoing call
in FAR_CLEARED and frees an alerting one; an answer connects the call at the present superframe; another channel
changes no call. Each message is a command (log 5); the fields that a FAR_CLEARED record keeps are those of log 46 and
log 62. -/
def Obligations.FarEndClearsAndAnswers : Prop :=
  ∀ (n ch : Byte) (p : Port) (s : State), s.dormant = false → s.le.link = .inService →
    (s.ss.outQueue.filter fun m => !m.isSend).length < 24 →
    (s.ss.repeats.clear.last ≠ some n →
      ((s.call p).state = .dialling ∨ (s.call p).state = .connected → (s.call p).channel = some ch.toNat →
        ∃ u : State, exec (.clear n 2 (wPort p ++ [ch])) s = .next u.settle
          ∧ u.call p = { s.call p with
              state := .farCleared, channel := none, coding := none, downgrade := none, cause := .farEnd }
          ∧ u.call p.other = s.call p.other ∧ (u.port p).tone = .busy ∧ (u.port p).audio = .none
          ∧ u.ss.repeats.clear = ⟨some n, .held true [0x7E, n, 0]⟩
          ∧ u.le = s.le ∧ u.tt = s.tt ∧ u.settings = s.settings ∧ u.fs = s.fs ∧ u.sup = s.sup)
      ∧ ((s.call p).state = .alertingIn → (s.call p).admission = none → (s.call p).channel = some ch.toNat →
        ∃ u : State, exec (.clear n 2 (wPort p ++ [ch])) s = .next u.settle
          ∧ u.call p = { Reset.call with cause := .farEnd } ∧ (u.port p).ringRequest = none
          ∧ u.call p.other = s.call p.other
          ∧ u.ss.repeats.clear = ⟨some n, .held true [0x7E, n, 0]⟩ ∧ u.le = s.le ∧ u.settings = s.settings)
      ∧ ((s.call p).channel ≠ some ch.toNat → (s.call p).alertChannel ≠ some ch.toNat →
        ∃ u : State, exec (.clear n 2 (wPort p ++ [ch])) s = .next u.settle ∧ u.cc = s.cc ∧ u.ports = s.ports
          ∧ u.ss.repeats.clear = ⟨some n, .held true [0x7E, n, 0]⟩ ∧ u.le = s.le ∧ u.settings = s.settings))
    ∧ (s.ss.repeats.answered.last ≠ some n →
      ((s.call p).state = .dialling → (s.call p).channel = some ch.toNat →
        ∃ u : State, exec (.answered n 2 (wPort p ++ [ch])) s = .next u.settle
          ∧ u.call p = { s.call p with state := .connected, connect := some s.le.sf }
          ∧ u.call p.other = s.call p.other
          ∧ ((s.settings.ports.get p).reverseOnAnswer = true → (s.port p).feed = .active →
              (u.port p).feed = .polaritySwap ∧ (u.port p).wanted = .reversed)
          ∧ ((s.settings.ports.get p).reverseOnAnswer = false → (u.port p).feed = (s.port p).feed)
          ∧ u.ss.repeats.answered = ⟨some n, .held true [0x7E, n, 0]⟩ ∧ u.le = s.le ∧ u.settings = s.settings)
      ∧ ((s.call p).state ≠ .dialling ∨ (s.call p).channel ≠ some ch.toNat →
        ∃ u : State, exec (.answered n 2 (wPort p ++ [ch])) s = .next u.settle ∧ u.cc = s.cc ∧ u.ports = s.ports
          ∧ u.ss.repeats.answered = ⟨some n, .held true [0x7E, n, 0]⟩ ∧ u.le = s.le ∧ u.settings = s.settings))

/-- The call controller's timers (R101, R109, R110, R112 to R114): an admission wait that ends blocks an outgoing call
for CAPACITY; the hold-off ends with n reported at the count of calls; a decision that was not made is the default
plan; an alert that nobody answers ends for NO_ANSWER; the grace ends with custody PART and no decision waiting. A
timer that does not run has no effect. A command that finds no occasion changes nothing: the model's choice (log 1).
What an unanswered intercom leaves: log 42; the fields that a BLOCKED record keeps: log 46, log 62; that a RELEASE
shows while it waits for an entry: log 56. -/
def Obligations.CallTimersExpire : Prop :=
  ∀ (p : Port) (s : State), s.dormant = false →
    ((s.call p).admission ≠ none → (s.call p).state = .seizing →
      ∃ u : State, exec (.admissionWaitExpiry p) s = .next u.settle
        ∧ u.call p = { s.call p with state := .blocked, cause := .capacity, coding := none, admission := none }
        ∧ (u.port p).tone = .congestion ∧ u.call p.other = s.call p.other ∧ u.le = s.le ∧ u.ss = s.ss
        ∧ u.settings = s.settings)
    ∧ ((s.call p).admission ≠ none → (s.call p).state = .alertingIn →
      ∃ u : State, exec (.admissionWaitExpiry p) s = .next u.settle
        ∧ u.call p = { Reset.call with cause := .capacity } ∧ u.call p.other = s.call p.other ∧ u.le = s.le
        ∧ u.settings = s.settings)
    ∧ (s.cc.holdOff ≠ none → exec .holdOffExpiry s = .next (State.settle
        { s with cc := { s.cc with nReported := s.callCount, holdOff := none } }))
    ∧ ((s.call p).sub = some .decisionWanted → (s.call p).decision ≠ none →
      ∃ u : State, exec (.decisionTimerExpiry p) s = .next u.settle
        ∧ u.call p = { s.call p with
            sub := some .ringingPlan, plan := some (.ring (if s.sup.mode = .reserve then 2 else 0)), decision := none }
        ∧ u.call p.other = s.call p.other ∧ u.le = s.le ∧ u.ss = s.ss ∧ u.settings = s.settings)
    ∧ ((s.call p).alert ≠ none → (s.call p).state = .alertingIn →
      ∃ u : State, exec (.alertTimerExpiry p) s = .next u.settle
        ∧ (u.call p).state = .clearing ∧ (u.call p).cause = .noAnswer ∧ (u.call p).txs.release = true
        ∧ (u.port p).ringRequest = none ∧ u.call p.other = s.call p.other ∧ u.settings = s.settings)
    ∧ ((s.call p).alert ≠ none → (s.call p).state = .intercomRinging → (s.call p.other).state = .intercomCalling →
      ∃ u : State, exec (.alertTimerExpiry p) s = .next u.settle
        ∧ u.call p = { Reset.call with cause := .noAnswer } ∧ (u.call p.other).state = .intercomEnded
        ∧ (u.port p).ringRequest = none ∧ u.ss = s.ss ∧ u.le = s.le ∧ u.settings = s.settings)
    ∧ (s.cc.grace ≠ none → ∃ u : State, exec .graceTimerExpiry s = .next u.settle
        ∧ u.cc.custody = .part ∧ (s.cc.custody ≠ .part → u.cc.grace = none)
        ∧ (∀ q, (u.call q).sub ≠ some .decisionWanted)
        ∧ u.settings = s.settings ∧ u.le = s.le ∧ u.ss = s.ss ∧ u.sup = s.sup)
    ∧ ((s.call p).admission = none → exec (.admissionWaitExpiry p) s = .next s.settle)
    ∧ (s.cc.holdOff = none → exec .holdOffExpiry s = .next s.settle)
    ∧ ((s.call p).decision = none → exec (.decisionTimerExpiry p) s = .next s.settle)
    ∧ ((s.call p).alert = none → exec (.alertTimerExpiry p) s = .next s.settle)
    ∧ (s.cc.grace = none → exec .graceTimerExpiry s = .next s.settle)

/-! ## Phone ports (chapter 5) -/

/-- HOOK_SAMPLE (R84 to R86, R89, R90): at an unblanked sample on-hook the off-hook run counts samples at or above T,
and in RINGING the trip run those above 15 mA; off-hook goes to BREAK below T - 2; a break that ends at T is a glitch
below 20 ms, discards the train below 25 ms, is a pulse below 96 ms, and from 96 ms on ends the train in its digit.
Blanked samples and POLARITY_SWAP leave hook and runs; the overcurrent and ring overload runs count by their own
rules. A command that finds no occasion changes nothing: the model's choice (log 1). One command is one millisecond's
samples (log 15). -/
def Obligations.HookSamplesCount : Prop :=
  ∀ (p : Port) (loop ring t : Nat) (x : PP) (s : State), s.dormant = false → x = s.port p →
    t = (s.settings.ports.get p).offHookThreshold →
    (x.feed = .disconnected ∨ x.feed = .protect → exec (.hookSample p loop ring) s = .next s.settle)
    ∧ (x.feed ≠ .disconnected → x.feed ≠ .protect → ∃ (blanked : Bool) (y : PP) (u : State),
      blanked = (decide (0 < x.detect.blank) || ((s.settings.ports.get p).fenceExposed && s.gatedNow)
        || x.feed == .polaritySwap)
      ∧ exec (.hookSample p loop ring) s = .next u.settle ∧ y = u.port p
      ∧ (blanked = true ∨ x.hook ≠ .brk ∨ loop < t ∨ x.detect.breakMs < 95 →
          u = (s.modPort p fun x =>
                { x with hook := y.hook, pulses := y.pulses, counts := y.counts, detect := y.detect })
          ∧ y.detect.blank = x.detect.blank - 1
          ∧ (x.feed = .standby ∨ x.feed = .active ∨ x.feed = .reversed →
              (0 < x.detect.ocBlank → y.detect.ocBlank = x.detect.ocBlank - 1 ∧ y.detect.ocRun = x.detect.ocRun)
              ∧ (x.detect.ocBlank = 0 → 60 < loop → x.detect.ocArmed = true →
                  y.detect.ocRun = min 10 (x.detect.ocRun + 1))
              ∧ (x.detect.ocBlank = 0 → loop ≤ 60 → y.detect.ocRun = 0 ∧ y.detect.ocArmed = true))
          ∧ (x.feed = .ringing →
              y.detect.roMs = x.detect.roMs + 1
              ∧ ((x.detect.roMs + 1) % 10 ≠ 0 ∨ x.detect.roMs < 30 → y.detect.roRun = x.detect.roRun)
              ∧ ((x.detect.roMs + 1) % 10 = 0 → 30 ≤ x.detect.roMs → x.detect.roArmed = true →
                  y.detect.roRun = if 90 < max x.detect.roPeak ring then min 5 (x.detect.roRun + 1) else 0)))
      ∧ (blanked = true → y.hook = x.hook ∧ y.pulses = x.pulses ∧ y.counts = x.counts
          ∧ y.detect.offRun = x.detect.offRun ∧ y.detect.tripRun = x.detect.tripRun)
      ∧ (blanked = false → x.hook = .onHook →
          x.feed = .standby ∨ x.feed = .ringPause ∨ x.feed = .testing →
          y.hook = .onHook ∧ y.detect.offRun = if t ≤ loop then min 20 (x.detect.offRun + 1) else 0)
      ∧ (blanked = false → x.hook = .onHook → x.feed = .ringing →
          y.hook = .onHook ∧ y.detect.tripRun = if 15 < loop then min 30 (x.detect.tripRun + 1) else 0)
      ∧ (blanked = false → x.hook = .offHook →
          (loop + 2 < t → y.hook = .brk ∧ y.detect.breakMs = 0 ∧ y.detect.toneArmed = true)
          ∧ (t ≤ loop + 2 → y.hook = .offHook))
      ∧ (blanked = false → x.hook = .brk →
          (loop < t → y.hook = .brk ∧ y.detect.breakMs = x.detect.breakMs + 1
            ∧ (loop + 2 < t → 299 ≤ x.detect.breakMs → y.detect.onHookDue = true))
          ∧ (t ≤ loop → y.hook = .offHook
            ∧ (x.detect.breakMs < 19 → y.pulses = x.pulses
                ∧ y.counts = { x.counts with glitches := inc32 x.counts.glitches })
            ∧ (19 ≤ x.detect.breakMs → x.detect.breakMs < 24 → y.pulses = 0 ∧ y.detect.make = none
                ∧ y.counts = if x.pulses = 0 then x.counts
                    else { x.counts with trainsDiscarded := inc32 x.counts.trainsDiscarded })
            ∧ (24 ≤ x.detect.breakMs → x.detect.breakMs < 95 → y.pulses = min 255 (x.pulses + 1)
                ∧ y.detect.make = some 150 ∧ y.counts = x.counts)
            ∧ (95 ≤ x.detect.breakMs → y.pulses = 0 ∧ y.detect.make = none
                ∧ (∀ n : Fin 10, x.pulses = (if n.val = 0 then 10 else n.val) → x.digits.length < 32 →
                    y.counts = { x.counts with pulseDigits := inc32 x.counts.pulseDigits }
                    ∧ y.digits.map (·.digit) = x.digits.map (·.digit) ++ [.num n])))))

/-- OFF_HOOK, RING_TRIP, ON_HOOK (R80, R83, R85, R103, R106, R110): a completed run lifts the port to ACTIVE with its
digit list empty and its ringing over, seizes, blocks or keeps local a FREE call, and connects an alerting one; a
completed break puts the port on-hook in STANDBY and releases its call. In another hook state nothing changes.
OFF_HOOK_ON_TEST (R85, R148): a completed off-hook watch in TESTING ends the port's PORT_LOOP, ABORTED with cause
OFF_HOOK, and the port returns to STANDBY where nothing else holds it; with no test running only the run is cleared. A
command that finds no occasion changes nothing: the model's choice (log 1). That a SEIZE, an ANSWER or a RELEASE shows
in the record while it waits for an entry: log 56. -/
def Obligations.HookChanges : Prop :=
  (∀ (p : Port) (s : State), s.dormant = false →
    (∀ c : Instr, (c = .offHook p ∧ (s.port p).hook = .onHook ∧ 20 ≤ (s.port p).detect.offRun
          ∧ ((s.port p).feed = .standby ∨ (s.port p).feed = .ringPause))
        ∨ (c = .ringTrip p ∧ (s.port p).hook = .onHook ∧ 30 ≤ (s.port p).detect.tripRun
          ∧ (s.port p).feed = .ringing) →
      ∃ u : State, exec c s = .next u.settle
        ∧ (u.port p).hook = .offHook ∧ (u.port p).digits = [] ∧ (u.port p).overflow = false
        ∧ (u.port p).ringRequest = none ∧ (u.port p).cadence = none
        ∧ (u.port p).counts.offHooks = inc32 (s.port p).counts.offHooks
        ∧ (u.port p).counts.ringTrips
          = (if c = .ringTrip p then inc32 (s.port p).counts.ringTrips else (s.port p).counts.ringTrips)
        ∧ (u.port p).feed = (if (s.call p).state = .alertingIn ∧ (s.call p).admission = none
            ∧ (s.settings.ports.get p).reverseOnAnswer = true then .polaritySwap else .active)
        ∧ ((s.call p).state = .free → s.le.link ≠ .inService →
            (u.call p).state = .localOnly ∧ (u.call p).dir = some .out ∧ (u.port p).tone = .noService)
        ∧ ((s.call p).state = .free → s.le.link = .inService →
            (∀ k, s.admission = .at k → (u.call p).state = .seizing ∧ (u.call p).coding = some k
              ∧ (u.call p).txs.seize = true ∧ (u.call p).admission = none)
            ∧ (s.admission = .wait → (u.call p).state = .seizing ∧ (u.call p).coding = some .reduced
              ∧ (u.call p).txs.seize = false ∧ (u.call p).admission = some 2000)
            ∧ (s.admission = .fail → (u.call p).state = .blocked ∧ (u.call p).cause = .capacity
              ∧ (u.port p).tone = .congestion))
        ∧ ((s.call p).state = .alertingIn → (s.call p).admission = none →
            (u.call p).state = .connected ∧ (u.call p).connect = some s.le.sf ∧ (u.call p).txs.answer = true
            ∧ (u.port p).audio = .line)
        ∧ ((s.call p).state = .intercomRinging → (u.call p).state = .intercomConnected
            ∧ (u.call p.other).state = .intercomConnected)
        ∧ u.le = s.le ∧ u.tt = s.tt ∧ u.ft = s.ft ∧ u.mu = s.mu ∧ u.sup = s.sup ∧ u.tu = s.tu ∧ u.fs = s.fs
        ∧ u.sts = s.sts ∧ u.settings = s.settings)
    ∧ ((s.port p).hook = .brk → (s.port p).detect.onHookDue = true →
        (s.port p).feed = .active ∨ (s.port p).feed = .reversed →
      ∃ u : State, exec (.onHook p) s = .next u.settle
        ∧ (u.port p).hook = .onHook ∧ (u.port p).feed = .standby ∧ (u.port p).wanted = .normal
        ∧ (u.port p).tone = .none ∧ (u.port p).audio = .none ∧ (u.port p).pulses = 0
        ∧ (u.port p).digits = (s.port p).digits
        ∧ ((s.call p).state = .dialling ∨ (s.call p).state = .connected →
            (u.call p).state = .clearing ∧ (u.call p).cause = .normal ∧ (u.call p).txs.release = true)
        ∧ ((s.call p).state = .localOnly ∨ (s.call p).state = .blocked ∨ (s.call p).state = .farCleared →
            u.call p = { Reset.call with cause := (s.call p).cause } ∧ u.call p.other = s.call p.other)
        ∧ u.le = s.le ∧ u.tt = s.tt ∧ u.ft = s.ft ∧ u.mu = s.mu ∧ u.sup = s.sup ∧ u.tu = s.tu ∧ u.fs = s.fs
        ∧ u.sts = s.sts ∧ u.settings = s.settings)
    ∧ ((s.port p).hook ≠ .onHook → exec (.offHook p) s = .next s.settle ∧ exec (.ringTrip p) s = .next s.settle)
    ∧ ((s.port p).hook ≠ .brk → exec (.onHook p) s = .next s.settle))
  ∧ (∀ (p : Port) (s : State), s.dormant = false →
    ((s.port p).feed = .testing → 20 ≤ (s.port p).detect.offRun →
      (∀ c, s.tu.current = some c → c.kind = .portLoop → Target.port c.target = p → c.phase = .running →
        ∃ u : State, exec (.offHookOnTest p) s = .next u.settle ∧ u.tu.current = none
          ∧ u.tu.lastWritten = some (TestKind.result c.kind c.target)
          ∧ (u.tu.results.get (TestKind.result c.kind c.target)).latest
              = some { outcome := .aborted, cause := some .offHook, requester := c.requester, endTime := s.uptime }
          ∧ (u.tu.results.get (TestKind.result c.kind c.target)).completed
              = (s.tu.results.get (TestKind.result c.kind c.target)).completed
          ∧ (u.port p).hold = { (s.port p).hold with test := false }
          ∧ ((u.port p).hold.isEmpty = true → (u.port p).feed = .standby ∧ (u.port p).hook = .onHook)
          ∧ (∀ ch ∈ TestKind.channels c.kind c.target, (u.mu.chans.get ch).owned = false)
          ∧ u.cc = s.cc ∧ u.sup = s.sup ∧ u.settings = s.settings ∧ u.mu.accounts = s.mu.accounts)
      ∧ (s.tu.current = none → exec (.offHookOnTest p) s = .next (State.settle
          (s.modPort p fun x => { x with detect := { x.detect with offRun := 0 } }))))
    ∧ ((s.port p).feed ≠ .testing → exec (.offHookOnTest p) s = .next s.settle))

/-- PULSE_TRAIN_END, TONE_DIGIT, TONE_ABSENCE_END (R86 to R88): 1 to 10 pulses are a digit, ten of them 0, but not while
POLARITY_SWAP holds the train (R81); a tone pair is a digit once until it has been absent; a digit joins the list, which
holds 32, and is counted. A call in DIALLING or CONNECTED on a port without intercom keeps it PENDING, and nothing else
changes. WHAT THE CALL TAKES (R105): in LOCAL_ONLY, BLOCKED, FAR_CLEARED, CLEARING and the intercom states a digit is
LOCAL at once, but for a leading star in LOCAL_ONLY and BLOCKED, which waits for the next digit and then goes the same
way; in SEIZING it stays PENDING. A dialled "**" with intercom ON makes both LOCAL and starts intercom (R111): at once
from LOCAL_ONLY, BLOCKED and a SEIZE not sent, nothing of an earlier call staying in the record (the model's choice, log
86), else through CLEARING with cause INTERCOM. A command that finds no occasion changes nothing: the model's choice
(log 1). Presence and absence times are the commands' own (log 17). -/
def Obligations.DigitsAreTaken : Prop :=
  ∀ (p : Port) (s : State), s.dormant = false →
    ((s.port p).detect.make ≠ none → (s.port p).hook = .offHook → (s.port p).feed ≠ .polaritySwap →
      (∀ n : Fin 10, (s.port p).pulses = (if n.val = 0 then 10 else n.val) →
        ∃ u : State, exec (.pulseTrainEnd p) s = .next u.settle
          ∧ (u.port p).pulses = 0 ∧ (u.port p).detect.make = none
          ∧ (u.port p).counts = { (s.port p).counts with pulseDigits := inc32 (s.port p).counts.pulseDigits }
          ∧ ((s.port p).digits.length < 32 →
              (u.port p).digits.map (·.digit) = (s.port p).digits.map (·.digit) ++ [.num n])
          ∧ (32 ≤ (s.port p).digits.length → (u.port p).digits = (s.port p).digits ∧ (u.port p).overflow = true)
          ∧ (∀ star : Prop, (star ↔ ((s.call p).state = .localOnly ∨ (s.call p).state = .blocked)
              ∧ ∃ m, (s.port p).digits = [⟨.star, m, .pending⟩]) → (s.port p).digits.length < 32 →
            (star → (u.port p).digits = (s.port p).digits.map (fun e => { e with mark := .localDigit })
              ++ [⟨.num n, .pulse, .localDigit⟩])
            ∧ (¬ star → (s.call p).state ∈ [.localOnly, .blocked, .farCleared, .clearing, .intercomCalling,
                .intercomRinging, .intercomConnected, .intercomEnded] →
              (u.port p).digits = (s.port p).digits ++ [⟨.num n, .pulse, .localDigit⟩])
            ∧ ((s.call p).state ∈ [.free, .seizing, .dialling, .connected, .alertingIn] →
              (u.port p).digits = (s.port p).digits ++ [⟨.num n, .pulse, .pending⟩]))
          ∧ u.cc = s.cc ∧ u.ss = s.ss
          ∧ u.settings = s.settings ∧ u.sts = s.sts ∧ u.uptime = s.uptime ∧ u.sup = s.sup ∧ u.mu = s.mu)
      ∧ ((s.port p).pulses = 0 ∨ 10 < (s.port p).pulses →
        exec (.pulseTrainEnd p) s = .next (State.settle (s.modPort p fun x =>
          { x with
            pulses := 0, detect := { x.detect with make := none }
            counts := if x.pulses = 0 then x.counts
              else { x.counts with trainsDiscarded := inc32 x.counts.trainsDiscarded } }))))
    ∧ ((s.port p).detect.make = none ∨ (s.port p).hook ≠ .offHook ∨ (s.port p).feed = .polaritySwap →
        exec (.pulseTrainEnd p) s = .next s.settle)
    ∧ (∀ d : Digit, (s.port p).feed = .active ∨ (s.port p).feed = .reversed → (s.port p).hook = .offHook →
        (s.port p).detect.toneArmed = true →
      ∃ u : State, exec (.toneDigit p d) s = .next u.settle
        ∧ (u.port p).counts = { (s.port p).counts with toneDigits := inc32 (s.port p).counts.toneDigits }
        ∧ ((s.port p).digits.length < 32 →
            (u.port p).digits.map (·.digit) = (s.port p).digits.map (·.digit) ++ [d])
        ∧ ((s.port p).digits.length < 32 → (s.settings.ports.get p).intercomEnable = false →
            (s.call p).state = .dialling ∨ (s.call p).state = .connected →
            u.port p = { s.port p with
              digits := (s.port p).digits ++ [{ digit := d, method := .tone, mark := .pending }]
              detect := { (s.port p).detect with toneArmed := false }, counts := (u.port p).counts }
            ∧ u.port p.other = s.port p.other ∧ u.cc = s.cc ∧ u.ss = s.ss)
        ∧ (∀ (l : List DigitEntry) (st : CallState) (on held twin : Prop), l = (s.port p).digits → l.length < 32 →
            st = (s.call p).state → (on ↔ (s.settings.ports.get p).intercomEnable = true) →
            (held ↔ l = [] ∧ d = .star) → (twin ↔ ∃ m, l = [⟨.star, m, .pending⟩]) →
          (st ∈ [.farCleared, .clearing, .intercomCalling, .intercomRinging, .intercomConnected, .intercomEnded]
              ∨ (st ∈ [.localOnly, .blocked] ∧ ¬ held ∧ ¬ twin) →
            u.port p = { s.port p with
              digits := l ++ [⟨d, .tone, .localDigit⟩], detect := { (s.port p).detect with toneArmed := false }
              counts := (u.port p).counts }
            ∧ u.port p.other = s.port p.other ∧ u.cc = s.cc ∧ u.ss = s.ss)
          ∧ (st ∈ [.localOnly, .blocked] → twin → d ≠ .star ∨ ¬ on →
            (u.port p).digits = l.map (fun e => { e with mark := .localDigit }) ++ [⟨d, .tone, .localDigit⟩]
            ∧ u.port p.other = s.port p.other ∧ u.cc = s.cc ∧ u.ss = s.ss)
          ∧ ((st ∈ [.seizing, .dialling, .localOnly, .blocked] ∧ held)
              ∨ (st ∈ [.seizing, .dialling] ∧ (¬ twin ∨ d ≠ .star ∨ ¬ on)) ∨ st ∈ [.free, .connected, .alertingIn] →
            u.port p = { s.port p with
              digits := l ++ [⟨d, .tone, .pending⟩], detect := { (s.port p).detect with toneArmed := false }
              counts := (u.port p).counts }
            ∧ u.port p.other = s.port p.other ∧ u.cc = s.cc ∧ u.ss = s.ss)
          ∧ (st ∈ [.seizing, .dialling, .localOnly, .blocked] → twin → d = .star → on →
            (u.port p).digits = l.map (fun e => { e with mark := .localDigit }) ++ [⟨.star, .tone, .localDigit⟩]
            ∧ (u.port p.other).digits = (s.port p.other).digits
            ∧ (st = .localOnly ∨ st = .blocked ∨ (st = .seizing
                ∧ ((s.call p).txs.seize = false ∨ ∃ r ∈ s.ss.waiting, r.kind = .seize ∧ r.port = some p)) →
              (u.call p).dir = some .intercom ∧ (u.call p).cause = .none ∧ (u.call p).admission = none
              ∧ (u.call p).txs.seize = false
              ∧ ((s.call p.other).state = .free → (s.port p.other).hold.isEmpty = true →
                  (s.port p.other).hook = .onHook →
                (u.call p).state = .intercomCalling ∧ (u.call p.other).state = .intercomRinging
                ∧ (u.call p.other).alert = some 120000
                ∧ ((s.port p.other).feed = .standby → (u.port p.other).ringRequest = some 3))
              ∧ ((s.call p.other).state ≠ .free ∨ (s.port p.other).hook ≠ .onHook
                    ∨ (s.port p.other).hold.isEmpty = false →
                (u.call p).state = .intercomEnded ∧ u.call p.other = s.call p.other)
              ∧ (st ≠ .seizing → u.ss = s.ss)
              ∧ (st = .seizing → u.ss = { s.ss with
                  waiting := s.ss.waiting.filter fun r => !(r.kind == .seize && r.port == some p) }))
            ∧ (st = .dialling ∨ (st = .seizing ∧ s.seizeSent p = true) →
              (u.call p).state = .clearing ∧ (u.call p).cause = .intercom
              ∧ (st = .dialling → (u.call p).channel = (s.call p).channel ∧ (u.call p).txs.release = true)
              ∧ u.call p.other = s.call p.other)))
        ∧ (32 ≤ (s.port p).digits.length →
            u.port p = { s.port p with
              overflow := true, detect := { (s.port p).detect with toneArmed := false }
              counts := (u.port p).counts }
            ∧ u.cc = s.cc ∧ u.ss = s.ss)
        ∧ u.le = s.le ∧ u.tt = s.tt ∧ u.ft = s.ft ∧ u.mu = s.mu ∧ u.sup = s.sup ∧ u.tu = s.tu ∧ u.fs = s.fs
        ∧ u.sts = s.sts ∧ u.settings = s.settings)
    ∧ (∀ d : Digit, (s.port p).hook ≠ .offHook ∨ (s.port p).detect.toneArmed = false →
        exec (.toneDigit p d) s = .next s.settle)
    ∧ exec (.toneAbsenceEnd p) s = .next (State.settle (s.modPort p fun x =>
        { x with detect := { x.detect with toneArmed := true } }))

/-- POLARITY_SWAP_END and CADENCE_PHASE_END (R81, R82, R94): the feed takes the wanted polarity with its detectors
fresh; an on-phase is followed by its pair's pause, or by pair 0's of a cadence newly requested; a pause by the next
pair's burst, after the last pair the first's, at 60 Vrms, in RESERVE 50, and the port's ringing frequency. A command
that finds no occasion changes nothing: the model's choice (log 1). -/
def Obligations.PortTimersExpire : Prop :=
  ∀ (p : Port) (x : PP) (s : State), s.dormant = false → x = s.port p →
    (x.feed = .polaritySwap → exec (.polaritySwapEnd p) s = .next (State.settle
      (s.modPort p fun x =>
        { x with
          feed := if x.wanted = .normal then .active else .reversed
          toneMs := 0, swapTimer := none
          detect := { x.detect with
            blank := 30, offRun := 0, tripRun := 0, ocBlank := 20, ocRun := 0, ocMax := 0, ocArmed := true
            roMs := 0, roPeak := 0, roRun := 0, roMax := 0, roArmed := true } })))
    ∧ (x.feed ≠ .polaritySwap → exec (.polaritySwapEnd p) s = .next s.settle)
    ∧ (∀ k, x.cadence = some k → x.feed = .ringing ∨ x.feed = .ringPause →
      ∃ (y : PP) (u : State), exec (.cadencePhaseEnd p) s = .next u.settle ∧ y = u.port p
        ∧ u = (s.modPort p fun x =>
            { x with feed := y.feed, cadence := y.cadence, toneMs := 0, swapTimer := none, detect := y.detect })
        ∧ y.detect.blank = 30 ∧ y.detect.offRun = 0 ∧ y.detect.tripRun = 0
        ∧ (x.feed = .ringing → y.feed = .ringPause
            ∧ (k.restart = false → y.cadence = some
                { k with on := false, timeLeft := ((k.pairs[k.pair]?).getD (0, 0)).2 })
            ∧ (∀ n, k.restart = true → x.ringRequest = some n → y.cadence = some
                { k with
                  pairs := Cadences.get s.settings.cadences n, pair := 0, on := false, restart := false
                  timeLeft := (((Cadences.get s.settings.cadences n)[0]?).getD (0, 0)).2 }))
        ∧ (x.feed = .ringPause → y.feed = .ringing
            ∧ (k.restart = false → ∃ j, j = (if k.pair + 1 < k.pairs.length then k.pair + 1 else 0)
                ∧ y.cadence = some
                  { pairs := k.pairs, pair := j, on := true, timeLeft := ((k.pairs[j]?).getD (0, 0)).1
                    restart := false, volts := if s.sup.mode = .reserve then 50 else 60
                    freq := (s.settings.ports.get p).frequency })
            ∧ (∀ n, k.restart = true → x.ringRequest = some n → y.cadence = some
                { pairs := Cadences.get s.settings.cadences n, pair := 0, on := true
                  timeLeft := (((Cadences.get s.settings.cadences n)[0]?).getD (0, 0)).1
                  restart := false, volts := if s.sup.mode = .reserve then 50 else 60
                  freq := (s.settings.ports.get p).frequency })))
    ∧ (x.cadence = none ∨ x.feed = .standby → exec (.cadencePhaseEnd p) s = .next s.settle)

/-- FEED_OVERCURRENT and RING_OVERLOAD (R89, R90, R156, R158): ten samples or five periods are one event with its
highest value, counted by the port and reported; REPORT recovers the record and leaves the port, a retry policy waits
500 ms or 5 s and LATCHED stays, and both take the action: FAULT joins the hold set and the feed goes to PROTECT, or
ringing is inhibited in STANDBY with its request kept. -/
def Obligations.OverloadsAreReported : Prop :=
  ∀ (p : Port) (c : Instr) (i : FaultId) (v : Nat) (s : State), s.dormant = false →
    (c = .feedOvercurrent p ∧ i = FaultId.feedOvercurrent p ∧ v = (s.port p).detect.ocMax
        ∧ ((s.port p).feed = .standby ∨ (s.port p).feed = .active ∨ (s.port p).feed = .reversed)
        ∧ (s.port p).detect.ocArmed = true ∧ 10 ≤ (s.port p).detect.ocRun)
      ∨ (c = .ringOverload p ∧ i = FaultId.ringOverload p ∧ v = (s.port p).detect.roMax
        ∧ (s.port p).feed = .ringing ∧ (s.port p).detect.roArmed = true ∧ 5 ≤ (s.port p).detect.roRun) →
    (s.faultRec i).state = .clear ∨ (s.faultRec i).state = .recovered →
    (s.port p).hold.isEmpty = true → (s.faultSetting i).policy ≠ .silent →
    ∃ u : State, exec c s = .next u.settle
      ∧ (u.port p).counts.overcurrents = (if c = .feedOvercurrent p then inc32 (s.port p).counts.overcurrents
          else (s.port p).counts.overcurrents)
      ∧ (u.port p).counts.ringOverloads = (if c = .ringOverload p then inc32 (s.port p).counts.ringOverloads
          else (s.port p).counts.ringOverloads)
      ∧ (u.faultRec i).count = min 255 ((s.faultRec i).count + 1) ∧ (u.faultRec i).value = some (v : Int)
      ∧ (u.faultRec i).lastSeen = some s.uptime
      ∧ ((s.faultSetting i).policy = .report → (u.faultRec i).state = .recovered ∧ (u.port p).feed = (s.port p).feed
          ∧ u.cc = s.cc)
      ∧ ((s.faultSetting i).policy = .retryFast → (u.faultRec i).state = .retryWait
          ∧ (u.faultRec i).retry = some 500 ∧ (u.faultRec i).run = some .retryFast)
      ∧ ((s.faultSetting i).policy = .retrySlow → (u.faultRec i).state = .retryWait
          ∧ (u.faultRec i).retry = some 5000 ∧ (u.faultRec i).run = some .retrySlow)
      ∧ ((s.faultSetting i).policy = .latched → (u.faultRec i).state = .latched ∧ (u.faultRec i).retry = none)
      ∧ ((s.faultSetting i).policy ≠ .report → c = .feedOvercurrent p →
          (u.port p).hold = { (s.port p).hold with fault := true } ∧ (u.port p).feed = .protect
          ∧ (u.port p).hook = .onHook ∧ (u.port p).ringRequest = none)
      ∧ ((s.faultSetting i).policy ≠ .report → c = .ringOverload p →
          (u.port p).ringInhibit = true ∧ (u.port p).feed = .standby
          ∧ (u.port p).ringRequest = (s.port p).ringRequest ∧ (u.port p).cadence = none ∧ u.cc = s.cc)
      ∧ ((s.faultSetting i).policy = .report ∨ c = .ringOverload p → u.port p.other = s.port p.other)
      ∧ u.le = s.le ∧ u.tt = s.tt ∧ u.ft = s.ft ∧ u.mu = s.mu ∧ u.sup = s.sup ∧ u.tu = s.tu ∧ u.sts = s.sts
      ∧ u.settings = s.settings

/-! ## Measurement and supply (chapters 7 and 8) -/

/-- SWEEP_PERIOD_START (R118 to R121): the sweep count advances and the period's rate is taken; a channel that is a
supervision channel or enabled, not owned, and not gated while exposed, keeps its converted sample, fresh in this sweep;
every other keeps what it had and has no fresh sample; no account changes; a running test takes the sample of each
channel it owns, but a gated exposed one, one in ARMING none (R146). Before the start, or with a sweep under way,
nothing changes. SWEEP_END (R118, R122 to R124, R126, R131 to R136, R139): each consumer whose two channels have fresh
samples is credited, and the overflow flag is set at a clamp or the last count; the averages are stored, decide START,
move MAINS and BATTERY, and in the mode reached start and cancel the debounce timers. An entry to a mode brings its
profile, the shedding, the forced rate and the host's power; RESERVE the 30 s of grace (R114), the end of active tests
(R148), a bell silenced by its REN (R109) and the calls under LIFELINE (R102); the line is freed of SUPPLY and trains,
but in DEPLETED, which START alone reaches here and where the part goes dormant. The thermal conditions and the foreign
voltage move their records with entries and actions (R151, R155, R159); a snapshot is taken with the accounts as
credited, which RESET then clears; where dormancy follows, nothing more is done (log 43). With no sweep under way
nothing changes. The model's choices: the gate at the start for every channel (log 51), the pairs of readings (log 24),
the order of the readers (log 77), profile and tests before the shedding (log 64, log 38), the forced rate off in
DEPLETED (log 34), the active rate of a readout (log 63), the calls' logs (20, 55, 56, 62), and a command without
occasion (log 1). -/
def Obligations.SweepsMeasure : Prop :=
  (∀ (samples : PerChan Sample) (s : State), s.dormant = false →
    (s.mu.started = true → s.mu.sweeping = false →
      ∃ u : State, exec (.sweepPeriodStart samples) s = .next u.settle
        ∧ u.mu = { s.mu with
            chans := u.mu.chans, sweep := s.mu.sweep + 1, sweeping := true
            periodRate := if s.mu.forced then .r10 else s.mu.active.rate }
        ∧ (∀ ch : Chan, ∀ m, m = s.mu.chans.get ch →
            (m.owned = true ∨ (Chan.supervision ch = false ∧ s.mu.active.enables.get ch = false)
                ∨ (s.exposed ch = true ∧ s.gatedNow = true) →
              u.mu.chans.get ch = { m with fresh := false })
            ∧ (m.owned = false → Chan.supervision ch = true ∨ s.mu.active.enables.get ch = true →
                s.exposed ch = false ∨ s.gatedNow = false →
              ∃ v : Int, v = max (Chan.limits ch).1 (min (Chan.limits ch).2
                  (roundHalfAway ((samples.get ch).raw * (s.sts.region.calib.get ch).gain) 16384
                    + (s.sts.region.calib.get ch).offset))
                ∧ u.mu.chans.get ch = { m with
                    latest := some v, lastKept := some (s.mu.sweep + 1), fresh := true
                    window := (if m.window.length < 8 then m.window else m.window.drop 1) ++ [v] }))
        ∧ (s.tu.current = none ∨ s.testing (fun t => t.phase == .arming) = true → u.tu = s.tu)
        ∧ (∀ t : CurrentTest, s.tu.current = some t → t.phase = .running → ∃ t' : CurrentTest,
            u.tu = { s.tu with current := some t' } ∧ t' = { t with r0 := t'.r0, r1 := t'.r1, r2 := t'.r2 }
            ∧ (∀ (k : Nat) (ch : Chan) (r : Reading), (TestKind.channels t.kind t.target)[k]? = some ch →
                [t.r0, t.r1, t.r2][k]? = some r → [t'.r0, t'.r1, t'.r2][k]? = some
                  (if (s.mu.chans.get ch).owned = true ∧ (s.exposed ch = false ∨ s.gatedNow = false) then
                    ⟨r.n + 1, r.sum1 + (samples.get ch).first, r.sum2 + (samples.get ch).second⟩ else r))
            ∧ (t.kind = .portLoop → t'.r2 = t.r2))
        ∧ u.le = s.le ∧ u.tt = s.tt ∧ u.ft = s.ft ∧ u.ss = s.ss ∧ u.ports = s.ports ∧ u.cc = s.cc ∧ u.sup = s.sup
        ∧ u.fs = s.fs ∧ u.plk = s.plk ∧ u.sts = s.sts ∧ u.settings = s.settings)
    ∧ (s.mu.started = false ∨ s.mu.sweeping = true → exec (.sweepPeriodStart samples) s = .next s.settle))
  ∧ (∀ s : State, s.dormant = false →
    (∀ ch, s.mu.fresh ch = if (s.mu.chans.get ch).fresh then (s.mu.chans.get ch).latest else none)
    ∧ (∀ ch l, l = (s.mu.chans.get ch).window →
        s.mu.averageOf ch = if l = [] then none else some (roundHalfAway l.sum l.length))
    ∧ (s.mu.sweeping = false → exec .sweepEnd s = .next s.settle)
    ∧ (s.mu.sweeping = true → ∃ (a : Accounts) (ms : Int) (o : Bool) (u : State),
      exec .sweepEnd s = .next u.settle
      ∧ ms = (match s.mu.periodRate with | .r1000 => 1 | .r250 => 4 | .r50 => 20 | .r10 => 100)
      ∧ (∀ v i, s.mu.fresh .battV = some v → s.mu.fresh .battI = some i →
          a.total = ⟨max (-Config.accLimit) (min Config.accLimit (s.mu.accounts.total.acc + (10 * v * i).tdiv 1000 * ms)),
            min Config.countLimit (s.mu.accounts.total.count + 1)⟩)
      ∧ (s.mu.fresh .battV = none ∨ s.mu.fresh .battI = none → a.total = s.mu.accounts.total)
      ∧ (∀ v i, s.mu.fresh .battV = some v → s.mu.fresh .ldI = some i →
          a.line = ⟨max (-Config.accLimit) (min Config.accLimit (s.mu.accounts.line.acc + (10 * v * i).tdiv 1000 * ms)),
            min Config.countLimit (s.mu.accounts.line.count + 1)⟩)
      ∧ (s.mu.fresh .battV = none ∨ s.mu.fresh .ldI = none → a.line = s.mu.accounts.line)
      ∧ (∀ v i, s.mu.fresh .paV = some v → s.mu.fresh .paI = some i →
          a.portA = ⟨max (-Config.accLimit) (min Config.accLimit
              (s.mu.accounts.portA.acc + ((v * i).natAbs / 100 : Nat) * ms)),
            min Config.countLimit (s.mu.accounts.portA.count + 1)⟩)
      ∧ (s.mu.fresh .paV = none ∨ s.mu.fresh .paI = none → a.portA = s.mu.accounts.portA)
      ∧ (∀ v i, s.mu.fresh .pbV = some v → s.mu.fresh .pbI = some i →
          a.portB = ⟨max (-Config.accLimit) (min Config.accLimit
              (s.mu.accounts.portB.acc + ((v * i).natAbs / 100 : Nat) * ms)),
            min Config.countLimit (s.mu.accounts.portB.count + 1)⟩)
      ∧ (s.mu.fresh .pbV = none ∨ s.mu.fresh .pbI = none → a.portB = s.mu.accounts.portB)
      ∧ (o = true ↔ s.mu.overflow = true
          ∨ (∃ v i, s.mu.fresh .battV = some v ∧ s.mu.fresh .battI = some i ∧ (a.total.count = Config.countLimit
            ∨ a.total.acc ≠ s.mu.accounts.total.acc + (10 * v * i).tdiv 1000 * ms))
          ∨ (∃ v i, s.mu.fresh .battV = some v ∧ s.mu.fresh .ldI = some i ∧ (a.line.count = Config.countLimit
            ∨ a.line.acc ≠ s.mu.accounts.line.acc + (10 * v * i).tdiv 1000 * ms))
          ∨ (∃ v i, s.mu.fresh .paV = some v ∧ s.mu.fresh .paI = some i ∧ (a.portA.count = Config.countLimit
            ∨ a.portA.acc ≠ s.mu.accounts.portA.acc + ((v * i).natAbs / 100 : Nat) * ms))
          ∨ (∃ v i, s.mu.fresh .pbV = some v ∧ s.mu.fresh .pbI = some i ∧ (a.portB.count = Config.countLimit
            ∨ a.portB.acc ≠ s.mu.accounts.portB.acc + ((v * i).natAbs / 100 : Nat) * ms)))
      ∧ (u.sup.loss = .ended → u.mu.accounts = a ∧ u.mu.overflow = o)
      ∧ (u.sup.loss ≠ .ended → s.mu.pending = none → u.sup.mode = s.sup.mode →
          u.mu.accounts = a ∧ u.mu.overflow = o ∧ u.mu.readout = s.mu.readout ∧ u.mu.snapNumber = s.mu.snapNumber)
      ∧ (∀ k, k = s.mu.pending.getD ⟨.supplyChange, s.mu.active.kind⟩ → u.sup.loss ≠ .ended →
          s.mu.pending ≠ none ∨ u.sup.mode ≠ s.sup.mode →
        ∃ r, u.mu.readout = some r ∧ r.number = (s.mu.snapNumber + 1) % 65536 ∧ u.mu.snapNumber = r.number
          ∧ r.cause = k.cause ∧ r.kind = k.kind ∧ r.uptime = s.uptime ∧ r.sweep = s.mu.sweep ∧ r.mode = u.sup.mode
          ∧ r.rate = s.mu.periodRate ∧ r.activeRate = s.mu.active.rate ∧ r.accounts = a ∧ r.overflow = o
          ∧ u.mu.pending = none
          ∧ (k.kind = .reset → u.mu.accounts = ⟨⟨0, 0⟩, ⟨0, 0⟩, ⟨0, 0⟩, ⟨0, 0⟩⟩ ∧ u.mu.overflow = false)
          ∧ (k.kind = .keep → u.mu.accounts = a ∧ u.mu.overflow = o)
          ∧ u.mu.active = if k.cause = .requested then s.settings.measure else s.mu.active)
      ∧ (s.sup.mode = .start → s.mu.chans.battV.window.length = 8 → ∀ b, s.mu.averageOf .battV = some b →
          u.sup.mode = if (s.mu.averageOf .adapterV).any (fun v => decide (Config.adapterPresent ≤ v)) then .mains
            else if (s.settings.supply.reserveThreshold : Int) ≤ b then .battery
            else if (s.settings.supply.cutoff : Int) ≤ b then .reserve else .depleted)
      ∧ (s.sup.mode = .start → s.mu.chans.battV.window.length ≠ 8 → u.sup.mode = .start)
      ∧ (∀ b v, s.sup.mode = .mains → s.mu.averageOf .battV = some b → s.mu.averageOf .adapterV = some v →
          v < Config.adapterAbsent →
          u.sup.adapter = .absent
          ∧ u.sup.mode = if b < (s.settings.supply.reserveThreshold : Int) then .reserve else .battery)
      ∧ (∀ b, s.sup.mode = .battery → s.mu.averageOf .battV = some b →
          u.sup.mode = if b < (s.settings.supply.reserveThreshold : Int) then .reserve else .battery)
      ∧ (s.sup.mode = .reserve ∨ s.sup.mode = .depleted → u.sup.mode = s.sup.mode)
      ∧ (u.sup.mode = .depleted → s.sup.mode = .start ∨ s.sup.mode = .depleted)
      ∧ (u.sup.mode = s.sup.mode →
        u.sup.enteredAt = s.sup.enteredAt ∧ u.sup.profile = s.sup.profile ∧ u.sup.procPwr = s.sup.procPwr
        ∧ u.le.hold.supply = s.le.hold.supply ∧ (∀ y, (u.port y).hold.shed = (s.port y).hold.shed)
        ∧ u.mu.forced = s.mu.forced ∧ u.cc.custody = s.cc.custody ∧ u.cc.grace = s.cc.grace)
      ∧ (u.sup.mode ≠ s.sup.mode →
        u.sup.enteredAt = s.uptime
        ∧ (u.plk.isOpen = true → .supply ∈ u.plk.notices)
        ∧ u.sup.profile = (match u.sup.mode with
          | .start | .mains => .full
          | .battery => .trim
          | .reserve => .lifeline
          | .depleted => s.sup.profile)
        ∧ u.le.hold.supply = (s.le.hold.supply && u.sup.mode == .depleted)
        ∧ (s.le.hold = ⟨false, false, false, false, false, true⟩ → s.le.link = .idle → u.le.hold.isEmpty = true →
          u.le.link = .quiet ∧ u.le.phaseTimer = some 200)
        ∧ (u.port .a).hold.shed = (match u.sup.mode with
          | .reserve => !s.settings.ports.a.lifelineMarked && s.settings.ports.b.lifelineMarked
          | .depleted => (s.port .a).hold.shed
          | _ => false)
        ∧ (u.port .b).hold.shed = (match u.sup.mode with
          | .reserve => !s.settings.ports.b.lifelineMarked
          | .depleted => (s.port .b).hold.shed
          | _ => false)
        ∧ (u.mu.forced = true ↔ u.sup.mode = .reserve)
        ∧ (u.sup.mode = .mains ∨ u.sup.mode = .battery → u.sup.procPwr = true)
        ∧ (u.sup.mode = .reserve → u.sup.procPwr =
            (s.cc.custody != .part && (s.sup.mode == .mains || s.sup.procPwr)))
        ∧ (u.sup.mode = .depleted → u.sup.procPwr = false ∧ u.cc.custody = .part ∧ u.sup.loss = .ended)
        ∧ (u.sup.mode ≠ .depleted → u.cc.custody = s.cc.custody ∧ u.sup.loss = s.sup.loss)
        ∧ u.cc.grace = (if u.sup.mode = .reserve then
              if s.cc.custody = .box then some 30000 else if s.sup.mode = .mains then none else s.cc.grace
            else none)
        ∧ (∀ t : CurrentTest, s.tu.current = some t →
          (u.sup.mode = .depleted ∨ (u.sup.mode = .reserve ∧ t.kind ≠ .lineForeign) →
            u.tu.current = none ∧ u.measuringSource = none
            ∧ (u.tu.results.get (TestKind.result t.kind t.target)).latest
                = some { outcome := .aborted, cause := some .supply, requester := t.requester, endTime := s.uptime }
            ∧ (u.tu.results.get (TestKind.result t.kind t.target)).completed
                = (s.tu.results.get (TestKind.result t.kind t.target)).completed
            ∧ ∀ ch ∈ TestKind.channels t.kind t.target, (u.mu.chans.get ch).owned = false)
          ∧ (u.sup.mode = .reserve → t.kind = .lineForeign → u.tu.current = some t))
        ∧ (s.sup.mode = .battery → s.tu.current = none → s.mu.averageOf .dieT = none →
            s.mu.averageOf .lineTipE = none → s.mu.averageOf .lineRingE = none →
            (∀ y, (u.port y).hold.shed = (s.port y).hold.shed) →
          (u.le.link = s.le.link → u.effProfile ≠ s.effProfile → s.callsEvaluated u
            ∧ ∀ y, s.askedDown u y = true → s.capacityRequest .coding y ∈ u.requested)
          ∧ (u.effProfile = s.effProfile → s.le.hold.supply = false → u.cc.recs = s.cc.recs))
        ∧ (u.sup.mode = .reserve → ∀ (y : Port) (cad : Nat), (u.call y).state = .alertingIn →
            (u.call y).plan = some (.ring cad) →
          (∀ v : Int, u.lastRen y = some v → (s.settings.supply.renLimit : Int) < v →
            (u.port y).ringRequest = none)
          ∧ ((∀ v : Int, s.lastRen y = some v → v ≤ (s.settings.supply.renLimit : Int)) →
            (s.call y).admission = none → (u.port y).hold.isEmpty = true →
            (u.port y).ringRequest = (s.port y).ringRequest)))
      ∧ (∀ y, s.lastRen y = ((s.tu.results.get (match y with | .a => .portLoopA | .b => .portLoopB)).completed.bind
          fun x => (x.values[1]?).map (·.value)))
      ∧ u.sup.battV = s.mu.averageOf .battV ∧ u.sup.battI = s.mu.averageOf .battI
      ∧ u.sup.adapterV = s.mu.averageOf .adapterV ∧ u.sup.batteryFault = s.sup.batteryFault
      ∧ (s.sup.mode = .depleted → u.sup.adapter = s.sup.adapter ∧ u.sup.lowBattery = s.sup.lowBattery
          ∧ u.sup.batteryGood = s.sup.batteryGood ∧ u.sup.mains = s.sup.mains ∧ u.sup.cutoff = s.sup.cutoff
          ∧ u.sup.recovery = s.sup.recovery)
      ∧ (s.sup.mode ≠ .depleted → (s.mu.averageOf .adapterV = none → u.sup.adapter = s.sup.adapter)
          ∧ ∀ v, s.mu.averageOf .adapterV = some v →
            u.sup.adapter = if 1080 ≤ v then .present else if v < 1000 then .absent else s.sup.adapter)
      ∧ (u.sup.mode = .mains → s.sup.mode = .mains →
          u.sup.mains = s.sup.mains ∧ u.sup.cutoff = s.sup.cutoff ∧ u.sup.recovery = s.sup.recovery)
      ∧ (u.sup.mode = .battery ∨ u.sup.mode = .reserve → s.sup.mode = .battery ∨ s.sup.mode = .reserve
            ∨ (s.sup.mode = .mains ∧ s.sup.mains = none ∧ s.sup.cutoff = none ∧ s.sup.recovery = none) →
        (s.mu.averageOf .adapterV = none → u.sup.mains = s.sup.mains)
        ∧ (∀ v, s.mu.averageOf .adapterV = some v →
            u.sup.mains = if 1080 ≤ v then s.sup.mains <|> some 5000 else none)
        ∧ (s.mu.averageOf .battV = none → u.sup.cutoff = s.sup.cutoff)
        ∧ (∀ b, s.mu.averageOf .battV = some b →
          u.sup.cutoff = (if b < (s.settings.supply.cutoff : Int) then s.sup.cutoff <|> some 5000 else none)
          ∧ (u.sup.mode = .reserve → u.sup.recovery
            = if (s.settings.supply.reserveThreshold : Int) + 30 ≤ b then s.sup.recovery <|> some 60000 else none)))
      ∧ (u.sup.mode = .mains ∨ u.sup.mode = .battery ∨ u.sup.mode = .reserve →
        (u.sup.adapter ≠ .present → u.sup.lowBattery = none ∧ u.sup.batteryGood = none)
        ∧ (u.sup.adapter = .present → s.mu.averageOf .battV = none →
            u.sup.lowBattery = s.sup.lowBattery ∧ u.sup.batteryGood = s.sup.batteryGood)
        ∧ (∀ b, u.sup.adapter = .present → s.mu.averageOf .battV = some b →
          (s.sup.batteryFault = false → u.sup.batteryGood = s.sup.batteryGood
            ∧ u.sup.lowBattery = if b < 900 then s.sup.lowBattery <|> some 60000 else none)
          ∧ (s.sup.batteryFault = true → u.sup.lowBattery = s.sup.lowBattery
            ∧ u.sup.batteryGood = if 900 ≤ b then s.sup.batteryGood <|> some 60000 else none)))
      ∧ (s.mu.averageOf .dieT = none → u.faultRec .thermalWarn = s.faultRec .thermalWarn
          ∧ u.faultRec .thermalShutdown = s.faultRec .thermalShutdown)
      ∧ (s.mu.averageOf .lineTipE = none → s.mu.averageOf .lineRingE = none →
          u.faultRec .foreignVoltage = s.faultRec .foreignVoltage)
      ∧ (∀ (i : FaultId) (now : Bool) (v : Int) (r q : FaultRec) (p : Policy) (made : Transition → Prop),
          r = s.faultRec i → p = (s.faultSetting i).policy → u.sup.loss ≠ .ended →
          q = { r with
            condition := true, count := min 255 (r.count + 1), firstSeen := r.firstSeen <|> some s.uptime
            lastSeen := some s.uptime, value := some v } →
          (∀ x, made x ↔ ∃ e ∈ u.fs.history, e.record = i ∧ e.uptime = s.uptime ∧ e.transition = x ∧ e.value = some v) →
          (i = .thermalWarn ∧ s.mu.averageOf .dieT = some v
              ∧ now = (if r.condition then decide (200 ≤ v) else decide (220 ≤ v)))
            ∨ (i = .thermalShutdown ∧ s.mu.averageOf .dieT = some v
              ∧ now = (if r.condition then decide (250 ≤ v) else decide (280 ≤ v)))
            ∨ (i = .foreignVoltage ∧ ∃ t g : Int, s.mu.averageOf .lineTipE = some t
              ∧ s.mu.averageOf .lineRingE = some g ∧ v = max (t.natAbs : Int) g.natAbs
              ∧ now = (if r.condition then decide (10 * (s.settings.faults.foreignThreshold : Int) - 30 < v)
                else decide (10 * (s.settings.faults.foreignThreshold : Int) < v))) →
        (now = r.condition → u.faultRec i = r)
        ∧ (now = true → r.condition = false →
          (r.state = .clear ∨ r.state = .recovered →
            (p = .silent → u.faultRec i = { r with condition := true })
            ∧ (p ≠ .silent → u.faultRec i = { q with
                  state := if p = .latched then .latched else .active, run := some p, retry := none }
              ∧ made (if p = .latched then .latched else .raised))
            ∧ (p ≠ .silent → p ≠ .report →
              (i = .thermalWarn → u.le.thermalTrim = true) ∧ (i = .foreignVoltage → u.le.hold.foreign = true)
              ∧ (i = .thermalShutdown → u.le.hold.thermal = true ∧ ∀ y, (u.port y).hold.thermal = true)))
          ∧ (r.state = .retryWait → u.faultRec i = { q with state := .active, retry := none } ∧ made .resumed)
          ∧ (r.state = .latched → u.faultRec i = q ∧ made .raised))
        ∧ (now = false → r.condition = true →
          (r.state = .active → r.run = some .retryFast ∨ r.run = some .retrySlow →
            u.faultRec i = { r with
              condition := false, state := .retryWait, retry := some (if r.run = some .retryFast then 500 else 5000) }
            ∧ made .retryStarted)
          ∧ (r.state = .active → r.run ≠ some .retryFast → r.run ≠ some .retrySlow →
            u.faultRec i = { r with condition := false, state := .recovered, run := none, retry := none }
            ∧ made .recovered)
          ∧ (r.state ≠ .active → u.faultRec i = { r with condition := false })))
      ∧ u.settings = s.settings ∧ u.sts.stored = s.sts.stored ∧ u.uptime = s.uptime))

/-- MAINS, RECOVERY, CUTOFF, LOW_BATTERY and BATTERY_GOOD timers (R133, R134, R136, R137, R139) and LOSS_MESSAGE_TIMEOUT
(R137, R138): the mode is entered with its profile, its timers and the host's power; DEPLETED takes custody, ends tests
and sends POWER_LOSS from service or goes dormant; MAINS and BATTERY evaluate the capacity of the calls where the
effective profile changes (R17, R102; log 20, log 55, log 56, log 62); BATTERY_FAULT follows its two debounces, which
run on in DEPLETED (the model's choice, log 79); the wait for the loss message ends in dormancy. A timer that does not
run has no effect. A command that finds no occasion changes nothing: the model's choice (log 1). -/
def Obligations.SupplyTimersExpire : Prop :=
  ∀ s : State, s.dormant = false →
    (∀ (c : Instr) (m : SupplyMode), (c = .mainsTimerExpiry ∧ m = .mains ∧ s.sup.mains ≠ none)
        ∨ (c = .recoveryTimerExpiry ∧ m = .battery ∧ s.sup.recovery ≠ none) →
      ∃ u : State, exec c s = .next u.settle
        ∧ u.sup.mode = m ∧ u.sup.enteredAt = s.uptime ∧ u.sup.procPwr = true
        ∧ u.sup.profile = (if m = .mains then .full else .trim)
        ∧ u.sup.recovery = none
        ∧ u.sup.mains = (if m = .mains then none else s.sup.mains)
        ∧ u.sup.cutoff = (if m = .mains then none else s.sup.cutoff)
        ∧ u.le.hold.supply = false ∧ (∀ p, (u.port p).hold.shed = false)
        ∧ u.mu.forced = false ∧ u.cc.custody = s.cc.custody ∧ u.cc.grace = none
        ∧ (u.le.link = s.le.link → u.effProfile ≠ s.effProfile → s.callsEvaluated u
            ∧ ∀ p, s.askedDown u p = true → s.capacityRequest .coding p ∈ u.requested)
        ∧ (u.effProfile = s.effProfile → s.le.hold.supply = false → u.cc.recs = s.cc.recs)
        ∧ (s.mu.pending = none → u.mu.pending = some { cause := .supplyChange, kind := s.mu.active.kind })
        ∧ u.settings = s.settings ∧ u.uptime = s.uptime ∧ u.mu.accounts = s.mu.accounts)
    ∧ (s.sup.cutoff ≠ none → ∃ u : State, exec .cutoffTimerExpiry s = .next u.settle
        ∧ u.sup.mode = .depleted ∧ u.sup.enteredAt = s.uptime ∧ u.sup.procPwr = false
        ∧ u.sup.profile = s.sup.profile
        ∧ u.sup.mains = none ∧ u.sup.recovery = none ∧ u.sup.cutoff = none
        ∧ u.cc.custody = .part ∧ u.tu.current = none
        ∧ (s.le.link ≠ .inService → u.sup.loss = .ended)
        ∧ (s.le.link = .inService → s.tu.current = none → s.sup.mode = .battery ∨ s.sup.mode = .reserve →
            (s.ss.outQueue.filter fun m => !m.isSend).length < 24 → u.sup.loss = .waiting 100
            ∧ (u.ss.outQueue.getLast?.map (·.who)) = some .powerLoss)
        ∧ u.settings = s.settings ∧ u.uptime = s.uptime ∧ u.mu.accounts = s.mu.accounts)
    ∧ (∀ (c : Instr) (v : Bool), (c = .lowBatteryTimerExpiry ∧ v = true ∧ s.sup.lowBattery ≠ none)
        ∨ (c = .batteryGoodTimerExpiry ∧ v = false ∧ s.sup.batteryGood ≠ none) →
      ∃ u : State, exec c s = .next u.settle
        ∧ u.sup = { s.sup with batteryFault := v, lowBattery := none, batteryGood := none }
        ∧ u.fs.recs.batteryFault.condition = v
        ∧ u.le = s.le ∧ u.tt = s.tt ∧ u.ft = s.ft ∧ u.ss = s.ss ∧ u.ports = s.ports ∧ u.cc = s.cc ∧ u.mu = s.mu
        ∧ u.tu = s.tu ∧ u.sts = s.sts ∧ u.settings = s.settings)
    ∧ (∀ n, s.sup.loss = .waiting n → exec .lossMessageTimeout s = .next s.sleep)
    ∧ (s.sup.mains = none → exec .mainsTimerExpiry s = .next s.settle)
    ∧ (s.sup.recovery = none → exec .recoveryTimerExpiry s = .next s.settle)
    ∧ (s.sup.cutoff = none → exec .cutoffTimerExpiry s = .next s.settle)
    ∧ (s.sup.lowBattery = none → exec .lowBatteryTimerExpiry s = .next s.settle)
    ∧ (s.sup.batteryGood = none → exec .batteryGoodTimerExpiry s = .next s.settle)
    ∧ (s.sup.loss = .none → exec .lossMessageTimeout s = .next s.settle)

/-! ## Tests and faults (chapters 9 and 10) -/

/-- ARMING_TIMEOUT and TEST_DURATION_END (R145 to R148): an armed LINE_INSULATION places TEST in the line hold set and
runs 3 s; an active test applies the measuring source to its target from RUNNING to its end, LINE_FOREIGN none (R146,
R147); a test that has run its time gives up its channels, writes its result, PASS or FAIL by the values of R146,
or ABORTED with NO_READINGS and the completed values kept where a channel gave none, and takes TEST from the hold set.
The start of a host's LINE_INSULATION, of an operator's with its ARMING (R145), and the preemption of a host test
(R149). RESTART aborts the tests of its scope (R148) and releases the calls (R107). A command that finds no occasion
changes nothing: the model's choice (log 1). The pairs of readings: log 24; the layout of a TEST_REQ: log 41; a record
in CLEARING at RESTART PORTS: log 57; what a record keeps in LOCAL_ONLY: log 46, and that it keeps its direction and has
no coding and no downgrade: log 62; the mark of a d.c. value at its lower
limit: log 45; that a RELEASE shows while it waits for an entry: log 56; the record most recently written: log 66. -/
def Obligations.TestsRunAndEnd : Prop :=
  (∀ (c : CurrentTest) (s : State), s.dormant = false → s.tu.current = some c →
    (c.phase = .arming → c.arm ≠ none → c.kind = .lineInsulation →
      ∃ u : State, exec .armingTimeout s = .next u.settle
        ∧ u.tu.current = some { c with phase := .running, start := some s.uptime, timeLeft := some 3000, arm := none }
        ∧ s.measuringSource = none ∧ u.measuringSource = some c.target
        ∧ u.le.hold = { s.le.hold with test := true }
        ∧ u.le.link = (if u.le.hold = ⟨false, false, false, false, true, false⟩ then .testHold else .idle)
        ∧ u.settings = s.settings ∧ u.sts = s.sts ∧ u.uptime = s.uptime ∧ u.sup.mode = s.sup.mode
        ∧ u.mu.accounts = s.mu.accounts ∧ u.plk.requests = s.plk.requests)
    ∧ (c.phase = .running ∨ c.arm = none → exec .armingTimeout s = .next s.settle)
    ∧ (∀ full : Prop, (full ↔ 0 < c.r0.n ∧ 0 < c.r1.n ∧ (c.kind = .portLoop ∨ 0 < c.r2.n)) →
        c.phase = .running → c.timeLeft ≠ none →
      ∃ u : State, exec .testDurationEnd s = .next u.settle
        ∧ u.tu.current = none ∧ u.tu.lastWritten = some (TestKind.result c.kind c.target)
        ∧ s.measuringSource = (if c.kind = .lineForeign then none else some c.target) ∧ u.measuringSource = none
        ∧ (¬ full →
            (u.tu.results.get (TestKind.result c.kind c.target)).latest = some
              { outcome := .aborted, cause := some .noReadings, requester := c.requester, endTime := s.uptime }
            ∧ (u.tu.results.get (TestKind.result c.kind c.target)).completed
              = (s.tu.results.get (TestKind.result c.kind c.target)).completed)
        ∧ (full → ∃ (o : Outcome) (vs : List TestValue),
            (u.tu.results.get (TestKind.result c.kind c.target)).latest = some
              { outcome := o, cause := none, requester := c.requester, endTime := s.uptime }
            ∧ (u.tu.results.get (TestKind.result c.kind c.target)).completed = some
              { values := vs, outcome := o, requester := c.requester, endTime := s.uptime }
            ∧ (c.kind = .portLoop → ∃ l r : Int, l = max 0 (min 20000 (roundHalfAway c.r0.sum1 c.r0.n))
                ∧ r = max 0 (min 99 (roundHalfAway c.r1.sum1 c.r1.n))
                ∧ vs = [⟨l, decide (l = 20000)⟩, ⟨r, decide (r = 99)⟩]
                ∧ o = if l < 5000 ∨ 50 < r then .fail else .pass)
            ∧ (c.kind = .lineInsulation →
                vs = ([c.r0, c.r1, c.r2].map fun r =>
                  ⟨max 0 (min 10000 (roundHalfAway r.sum1 r.n)),
                    decide (max 0 (min 10000 (roundHalfAway r.sum1 r.n)) = 10000)⟩)
                ∧ o = (if ∃ v ∈ vs, v.value < (s.settings.faults.leakageThreshold : Int) then .fail else .pass)
                ∧ u.fs.recs.leakage.condition = decide (o = .fail))
            ∧ (c.kind = .lineForeign → ∃ dc ac : Reading → Int,
                (∀ r, dc r = max (-1500) (min 1500 (roundHalfAway r.sum1 r.n)))
                ∧ (∀ r, ac r = max 0 (min 1500 (roundHalfAway r.sum2 r.n)))
                ∧ vs = ([c.r0, c.r1, c.r2].flatMap fun r =>
                  [⟨dc r, decide (dc r = 1500 ∨ dc r = -1500)⟩, ⟨ac r, decide (ac r = 1500)⟩])
                ∧ o = if ∃ r ∈ [c.r0, c.r1],
                    10 * s.settings.faults.foreignThreshold < (dc r).natAbs
                      ∨ 10 * s.settings.faults.foreignThreshold < (ac r).natAbs then .fail else .pass))
        ∧ (∀ ch ∈ TestKind.channels c.kind c.target, (u.mu.chans.get ch).owned = false)
        ∧ (c.kind = .lineInsulation → u.le.hold = { s.le.hold with test := false })
        ∧ (c.kind = .portLoop →
            (u.port (Target.port c.target)).hold = { (s.port (Target.port c.target)).hold with test := false }
            ∧ ((s.port (Target.port c.target)).feed = .testing →
                (u.port (Target.port c.target)).hold.isEmpty = true → (u.port (Target.port c.target)).feed = .standby))
        ∧ u.settings = s.settings ∧ u.sts = s.sts ∧ u.uptime = s.uptime ∧ u.sup.mode = s.sup.mode
        ∧ u.mu.accounts = s.mu.accounts ∧ u.plk.requests = s.plk.requests)
    ∧ (c.phase = .arming → exec .testDurationEnd s = .next s.settle))
  ∧ (∀ s : State, s.asks [0x30, 1, 1, 1, 0] → s.tu.current = none → s.sup.mode = .mains ∨ s.sup.mode = .battery →
    ((∃ p, (s.call p).state = .connected ∧ (s.call p).channel ≠ none) →
      exec (.testStart (.known .lineInsulation) (.known .line)) s = .next (s.replied 0x30 .refusedState [1]).settle)
    ∧ ((∀ p, (s.call p).state = .connected → (s.call p).channel = none) → s.le.hold.test = false →
      ∃ v : State, exec (.testStart (.known .lineInsulation) (.known .line)) s
          = .next (v.replied 0x30 .ok (w8 1 ++ w8 0 ++ w16 3000)).settle
        ∧ v.tu.current = some
            { kind := .lineInsulation, target := .line, requester := .box, priority := false, reqNumber := none
              phase := .running, start := some s.uptime, timeLeft := some 3000, arm := none
              r0 := ⟨0, 0, 0⟩, r1 := ⟨0, 0, 0⟩, r2 := ⟨0, 0, 0⟩ }
        ∧ (∀ ch ∈ [Chan.lineTipE, Chan.lineRingE, Chan.lineTR], (v.mu.chans.get ch).owned = true)
        ∧ v.le.hold = { s.le.hold with test := true }
        ∧ v.le.link = (if v.le.hold = ⟨false, false, false, false, true, false⟩ then .testHold else .idle)
        ∧ (∀ p, s.le.link = .inService →
            (s.call p).state = .seizing ∨ (s.call p).state = .dialling ∨ (s.call p).state = .alertingIn →
            (v.call p).cause = .linkLost
            ∧ (v.call p).state = if (s.port p).hook = .onHook then .free else .localOnly)
        ∧ v.settings = s.settings ∧ v.sts = s.sts ∧ v.sup.mode = s.sup.mode ∧ v.plk.requests = s.plk.requests))
  ∧ (∀ (n : Byte) (prio : Bool) (s : State), s.dormant = false → s.le.link = .inService →
    s.ss.repeats.testReq.last ≠ some n → s.sup.mode = .mains ∨ s.sup.mode = .battery →
    (s.tu.current = none → (prio = true ∨ ∀ p, (s.call p).state = .connected → (s.call p).channel = none) →
      ∃ u : State, exec (.testReq n 4 [0, 1, 0, if prio then 1 else 0]) s = .next u.settle
        ∧ u.tu.current = some
            { kind := .lineInsulation, target := .line, requester := .operator, priority := prio
              reqNumber := some n, phase := .arming, start := none, timeLeft := none, arm := some 100
              r0 := ⟨0, 0, 0⟩, r1 := ⟨0, 0, 0⟩, r2 := ⟨0, 0, 0⟩ }
        ∧ u.measuringSource = none
        ∧ u.ss.repeats.testReq = ⟨some n, .held true ([0x7E, n, 4, 1, 0] ++ w16 3000)⟩
        ∧ (∀ ch ∈ [Chan.lineTipE, Chan.lineRingE, Chan.lineTR], (u.mu.chans.get ch).owned = true)
        ∧ (∀ p, prio = true → (s.call p).channel ≠ none → (s.call p).state = .dialling ∨ (s.call p).state = .connected
            ∨ (s.call p).state = .alertingIn → (u.call p).state = .clearing ∧ (u.call p).cause = .test)
        ∧ (prio = false → u.cc = s.cc ∧ u.ports = s.ports)
        ∧ u.le = s.le ∧ u.tt = s.tt ∧ u.settings = s.settings ∧ u.fs = s.fs ∧ u.sts = s.sts)
    ∧ (∀ c, s.tu.current = some c → c.requester = .box → c.phase = .running →
      (prio = false → ∃ u : State, exec (.testReq n 4 [0, 0, 0, 0]) s = .next u.settle ∧ u.tu = s.tu ∧ u.mu = s.mu
        ∧ u.ss.repeats.testReq = ⟨some n, .held false [0x7F, n, 1, 3]⟩ ∧ u.le = s.le)
      ∧ (prio = true → ∃ u : State, exec (.testReq n 4 [0, 0, 0, 1]) s = .next u.settle
        ∧ u.tu.current = some
            { kind := .lineForeign, target := .line, requester := .operator, priority := true, reqNumber := some n
              phase := .running, start := some s.uptime, timeLeft := some 1000, arm := none
              r0 := ⟨0, 0, 0⟩, r1 := ⟨0, 0, 0⟩, r2 := ⟨0, 0, 0⟩ }
        ∧ (u.tu.results.get (TestKind.result c.kind c.target)).latest = some
            { outcome := .aborted, cause := some .preempted, requester := .box, endTime := s.uptime }
        ∧ (c.kind = .lineInsulation → u.le.hold = { s.le.hold with test := false })
        ∧ (c.kind = .portLoop → (u.port (Target.port c.target)).hold.test = false)
        ∧ (c.kind ≠ .lineInsulation →
            u.ss.repeats.testReq = ⟨some n, .held true ([0x7E, n, 4, 0, 0] ++ w16 1000)⟩)
        ∧ (∀ ch ∈ [Chan.lineTipE, Chan.lineRingE, Chan.lineTR], (u.mu.chans.get ch).owned = true)
        ∧ u.settings = s.settings ∧ u.sts = s.sts)))
  ∧ (∀ s : State, s.asks [0x03, 1, 0] →
    ∃ v : State, exec .restartLine s = .next (v.replied 0x03 .ok [0]).settle
      ∧ (∀ c, s.tu.current = some c → c.kind ≠ .portLoop → v.tu.current = none
          ∧ (v.tu.results.get (TestKind.result c.kind c.target)).latest = some
            { outcome := .aborted, cause := some .restart, requester := c.requester, endTime := s.uptime })
      ∧ (∀ c, s.tu.current = some c → c.kind = .portLoop → c.phase = .running → v.tu.current = some c)
      ∧ (s.le.link ≠ .inService → v.cc = s.cc)
      ∧ (∀ p, s.le.link = .inService →
        ((s.call p).state = .seizing ∨ (s.call p).state = .dialling ∨ (s.call p).state = .connected
            ∨ (s.call p).state = .alertingIn ∨ (s.call p).state = .clearing →
          ∀ x, x = (if (s.call p).state = .clearing then (s.call p).cause else .restart) →
            ((s.port p).hook = .onHook → v.call p = { Reset.call with cause := x })
            ∧ ((s.port p).hook ≠ .onHook → v.call p = { Reset.call with
                state := .localOnly, dir := (s.call p).dir, cause := x, serial := (s.call p).serial
                order := (s.call p).order } ∧ (v.port p).tone = .noService))
        ∧ ((s.call p).state = .free ∨ (s.call p).state = .localOnly ∨ (s.call p).state = .blocked
            ∨ (s.call p).state = .farCleared ∨ (s.call p).state = .intercomCalling
            ∨ (s.call p).state = .intercomRinging ∨ (s.call p).state = .intercomConnected
            ∨ (s.call p).state = .intercomEnded → v.call p = { s.call p with txs := Reset.call.txs })))
  ∧ ∀ s : State, s.asks [0x03, 1, 1] →
    ∃ v : State, exec .restartPorts s = .next (v.replied 0x03 .ok [1]).settle
      ∧ (∀ c, s.tu.current = some c → c.kind = .portLoop → v.tu.current = none
          ∧ (v.tu.results.get (TestKind.result c.kind c.target)).latest = some
            { outcome := .aborted, cause := some .restart, requester := c.requester, endTime := s.uptime })
      ∧ (∀ c, s.tu.current = some c → c.kind ≠ .portLoop → v.tu = s.tu)
      ∧ (∀ p,
        ((s.call p).state = .dialling ∨ (s.call p).state = .connected
            ∨ ((s.call p).state = .alertingIn ∧ (s.call p).admission = none) →
          (v.call p).state = .clearing ∧ (v.call p).cause = .restart ∧ (v.call p).txs.release = true
          ∧ (v.call p).channel = (s.call p).channel)
        ∧ ((s.call p).state = .seizing → s.seizeSent p = true → v.call p = { s.call p with
            state := .clearing, cause := .restart, admission := none })
        ∧ (((s.call p).state = .seizing ∧ s.seizeSent p = false)
            ∨ ((s.call p).state = .alertingIn ∧ (s.call p).admission ≠ none)
            ∨ (s.call p).state = .localOnly ∨ (s.call p).state = .blocked ∨ (s.call p).state = .farCleared
            ∨ (s.call p).state = .intercomCalling ∨ (s.call p).state = .intercomRinging
            ∨ (s.call p).state = .intercomConnected ∨ (s.call p).state = .intercomEnded →
          v.call p = { Reset.call with cause := .restart })
        ∧ ((s.call p).state = .free ∨ (s.call p).state = .clearing → v.call p = s.call p))

/-- RETRY_TIMER_EXPIRY and SPACING_TIMER_EXPIRY (R155, R156, R158, R163): a record in RETRY_WAIT whose timer ends is
RECOVERED, with its history entry, and its action is lifted; otherwise nothing changes; the spacing timer stops. A
command that finds no occasion changes nothing: the model's choice (log 1). -/
def Obligations.FaultTimersExpire : Prop :=
  ∀ (i : FaultId) (s : State), s.dormant = false →
    ((s.faultRec i).state = .retryWait → (s.faultRec i).retry ≠ none →
      ∃ u : State, exec (.retryTimerExpiry i) s = .next u.settle
        ∧ u.faultRec i = { s.faultRec i with state := .recovered, run := none, retry := none }
        ∧ (∃ e ∈ u.fs.history, e.seq = s.fs.nextSeq ∧ e.uptime = s.uptime ∧ e.record = i
            ∧ e.transition = .recovered ∧ e.value = (s.faultRec i).value)
        ∧ (i = .foreignVoltage → u.le.hold.foreign = false)
        ∧ (i = .thermalWarn → u.le.thermalTrim = false)
        ∧ (i = .thermalShutdown → u.le.hold.thermal = false
            ∧ ∀ p, (u.port p).hold = { (s.port p).hold with thermal := false })
        ∧ (∀ p, i = FaultId.feedOvercurrent p → (u.port p).hold = { (s.port p).hold with fault := false }
            ∧ u.port p.other = s.port p.other ∧ u.le = s.le)
        ∧ (∀ p, i = FaultId.ringOverload p → (u.port p).ringInhibit = false
            ∧ u.port p.other = s.port p.other ∧ u.le = s.le)
        ∧ u.settings = s.settings ∧ u.sts = s.sts ∧ u.uptime = s.uptime ∧ u.sup.mode = s.sup.mode
        ∧ u.mu.accounts = s.mu.accounts ∧ u.plk.requests = s.plk.requests)
    ∧ ((s.faultRec i).state ≠ .retryWait ∨ (s.faultRec i).retry = none →
      exec (.retryTimerExpiry i) s = .next s.settle)
    ∧ exec .spacingTimerExpiry s = .next (State.settle { s with fs := { s.fs with spacing := none } })

end
end

