-- ==== Sys2Proof/Laws/State.lean ====
section
/-!
SUPPORT. One lemma per field per update of State: every named update changes its own block and no other.
-/

namespace Sys2Proof.Machine

variable (s : State)

section modLe
variable (f : LE → LE)
@[simp] theorem State.modLe_le : (s.modLe f).le = f s.le := rfl
@[simp] theorem State.modLe_tt : (s.modLe f).tt = s.tt := rfl
@[simp] theorem State.modLe_ft : (s.modLe f).ft = s.ft := rfl
@[simp] theorem State.modLe_ss : (s.modLe f).ss = s.ss := rfl
@[simp] theorem State.modLe_ports : (s.modLe f).ports = s.ports := rfl
@[simp] theorem State.modLe_cc : (s.modLe f).cc = s.cc := rfl
@[simp] theorem State.modLe_mu : (s.modLe f).mu = s.mu := rfl
@[simp] theorem State.modLe_sup : (s.modLe f).sup = s.sup := rfl
@[simp] theorem State.modLe_tu : (s.modLe f).tu = s.tu := rfl
@[simp] theorem State.modLe_fs : (s.modLe f).fs = s.fs := rfl
@[simp] theorem State.modLe_plk : (s.modLe f).plk = s.plk := rfl
@[simp] theorem State.modLe_sts : (s.modLe f).sts = s.sts := rfl
@[simp] theorem State.modLe_settings : (s.modLe f).settings = s.settings := rfl
@[simp] theorem State.modLe_uptime : (s.modLe f).uptime = s.uptime := rfl
@[simp] theorem State.modLe_uptimeMs : (s.modLe f).uptimeMs = s.uptimeMs := rfl
@[simp] theorem State.modLe_dormant : (s.modLe f).dormant = s.dormant := rfl
@[simp] theorem State.modLe_pending : (s.modLe f).pending = s.pending := rfl
end modLe

section modTt
variable (f : Tables → Tables)
@[simp] theorem State.modTt_le : (s.modTt f).le = s.le := rfl
@[simp] theorem State.modTt_tt : (s.modTt f).tt = f s.tt := rfl
@[simp] theorem State.modTt_ft : (s.modTt f).ft = s.ft := rfl
@[simp] theorem State.modTt_ss : (s.modTt f).ss = s.ss := rfl
@[simp] theorem State.modTt_ports : (s.modTt f).ports = s.ports := rfl
@[simp] theorem State.modTt_cc : (s.modTt f).cc = s.cc := rfl
@[simp] theorem State.modTt_mu : (s.modTt f).mu = s.mu := rfl
@[simp] theorem State.modTt_sup : (s.modTt f).sup = s.sup := rfl
@[simp] theorem State.modTt_tu : (s.modTt f).tu = s.tu := rfl
@[simp] theorem State.modTt_fs : (s.modTt f).fs = s.fs := rfl
@[simp] theorem State.modTt_plk : (s.modTt f).plk = s.plk := rfl
@[simp] theorem State.modTt_sts : (s.modTt f).sts = s.sts := rfl
@[simp] theorem State.modTt_settings : (s.modTt f).settings = s.settings := rfl
@[simp] theorem State.modTt_uptime : (s.modTt f).uptime = s.uptime := rfl
@[simp] theorem State.modTt_uptimeMs : (s.modTt f).uptimeMs = s.uptimeMs := rfl
@[simp] theorem State.modTt_dormant : (s.modTt f).dormant = s.dormant := rfl
@[simp] theorem State.modTt_pending : (s.modTt f).pending = s.pending := rfl
end modTt

section modFt
variable (f : FT → FT)
@[simp] theorem State.modFt_le : (s.modFt f).le = s.le := rfl
@[simp] theorem State.modFt_tt : (s.modFt f).tt = s.tt := rfl
@[simp] theorem State.modFt_ft : (s.modFt f).ft = f s.ft := rfl
@[simp] theorem State.modFt_ss : (s.modFt f).ss = s.ss := rfl
@[simp] theorem State.modFt_ports : (s.modFt f).ports = s.ports := rfl
@[simp] theorem State.modFt_cc : (s.modFt f).cc = s.cc := rfl
@[simp] theorem State.modFt_mu : (s.modFt f).mu = s.mu := rfl
@[simp] theorem State.modFt_sup : (s.modFt f).sup = s.sup := rfl
@[simp] theorem State.modFt_tu : (s.modFt f).tu = s.tu := rfl
@[simp] theorem State.modFt_fs : (s.modFt f).fs = s.fs := rfl
@[simp] theorem State.modFt_plk : (s.modFt f).plk = s.plk := rfl
@[simp] theorem State.modFt_sts : (s.modFt f).sts = s.sts := rfl
@[simp] theorem State.modFt_settings : (s.modFt f).settings = s.settings := rfl
@[simp] theorem State.modFt_uptime : (s.modFt f).uptime = s.uptime := rfl
@[simp] theorem State.modFt_uptimeMs : (s.modFt f).uptimeMs = s.uptimeMs := rfl
@[simp] theorem State.modFt_dormant : (s.modFt f).dormant = s.dormant := rfl
@[simp] theorem State.modFt_pending : (s.modFt f).pending = s.pending := rfl
end modFt

section modSs
variable (f : SS → SS)
@[simp] theorem State.modSs_le : (s.modSs f).le = s.le := rfl
@[simp] theorem State.modSs_tt : (s.modSs f).tt = s.tt := rfl
@[simp] theorem State.modSs_ft : (s.modSs f).ft = s.ft := rfl
@[simp] theorem State.modSs_ss : (s.modSs f).ss = f s.ss := rfl
@[simp] theorem State.modSs_ports : (s.modSs f).ports = s.ports := rfl
@[simp] theorem State.modSs_cc : (s.modSs f).cc = s.cc := rfl
@[simp] theorem State.modSs_mu : (s.modSs f).mu = s.mu := rfl
@[simp] theorem State.modSs_sup : (s.modSs f).sup = s.sup := rfl
@[simp] theorem State.modSs_tu : (s.modSs f).tu = s.tu := rfl
@[simp] theorem State.modSs_fs : (s.modSs f).fs = s.fs := rfl
@[simp] theorem State.modSs_plk : (s.modSs f).plk = s.plk := rfl
@[simp] theorem State.modSs_sts : (s.modSs f).sts = s.sts := rfl
@[simp] theorem State.modSs_settings : (s.modSs f).settings = s.settings := rfl
@[simp] theorem State.modSs_uptime : (s.modSs f).uptime = s.uptime := rfl
@[simp] theorem State.modSs_uptimeMs : (s.modSs f).uptimeMs = s.uptimeMs := rfl
@[simp] theorem State.modSs_dormant : (s.modSs f).dormant = s.dormant := rfl
@[simp] theorem State.modSs_pending : (s.modSs f).pending = s.pending := rfl
end modSs

section modCc
variable (f : CC → CC)
@[simp] theorem State.modCc_le : (s.modCc f).le = s.le := rfl
@[simp] theorem State.modCc_tt : (s.modCc f).tt = s.tt := rfl
@[simp] theorem State.modCc_ft : (s.modCc f).ft = s.ft := rfl
@[simp] theorem State.modCc_ss : (s.modCc f).ss = s.ss := rfl
@[simp] theorem State.modCc_ports : (s.modCc f).ports = s.ports := rfl
@[simp] theorem State.modCc_cc : (s.modCc f).cc = f s.cc := rfl
@[simp] theorem State.modCc_mu : (s.modCc f).mu = s.mu := rfl
@[simp] theorem State.modCc_sup : (s.modCc f).sup = s.sup := rfl
@[simp] theorem State.modCc_tu : (s.modCc f).tu = s.tu := rfl
@[simp] theorem State.modCc_fs : (s.modCc f).fs = s.fs := rfl
@[simp] theorem State.modCc_plk : (s.modCc f).plk = s.plk := rfl
@[simp] theorem State.modCc_sts : (s.modCc f).sts = s.sts := rfl
@[simp] theorem State.modCc_settings : (s.modCc f).settings = s.settings := rfl
@[simp] theorem State.modCc_uptime : (s.modCc f).uptime = s.uptime := rfl
@[simp] theorem State.modCc_uptimeMs : (s.modCc f).uptimeMs = s.uptimeMs := rfl
@[simp] theorem State.modCc_dormant : (s.modCc f).dormant = s.dormant := rfl
@[simp] theorem State.modCc_pending : (s.modCc f).pending = s.pending := rfl
end modCc

section modMu
variable (f : MU → MU)
@[simp] theorem State.modMu_le : (s.modMu f).le = s.le := rfl
@[simp] theorem State.modMu_tt : (s.modMu f).tt = s.tt := rfl
@[simp] theorem State.modMu_ft : (s.modMu f).ft = s.ft := rfl
@[simp] theorem State.modMu_ss : (s.modMu f).ss = s.ss := rfl
@[simp] theorem State.modMu_ports : (s.modMu f).ports = s.ports := rfl
@[simp] theorem State.modMu_cc : (s.modMu f).cc = s.cc := rfl
@[simp] theorem State.modMu_mu : (s.modMu f).mu = f s.mu := rfl
@[simp] theorem State.modMu_sup : (s.modMu f).sup = s.sup := rfl
@[simp] theorem State.modMu_tu : (s.modMu f).tu = s.tu := rfl
@[simp] theorem State.modMu_fs : (s.modMu f).fs = s.fs := rfl
@[simp] theorem State.modMu_plk : (s.modMu f).plk = s.plk := rfl
@[simp] theorem State.modMu_sts : (s.modMu f).sts = s.sts := rfl
@[simp] theorem State.modMu_settings : (s.modMu f).settings = s.settings := rfl
@[simp] theorem State.modMu_uptime : (s.modMu f).uptime = s.uptime := rfl
@[simp] theorem State.modMu_uptimeMs : (s.modMu f).uptimeMs = s.uptimeMs := rfl
@[simp] theorem State.modMu_dormant : (s.modMu f).dormant = s.dormant := rfl
@[simp] theorem State.modMu_pending : (s.modMu f).pending = s.pending := rfl
end modMu

section modSup
variable (f : SUP → SUP)
@[simp] theorem State.modSup_le : (s.modSup f).le = s.le := rfl
@[simp] theorem State.modSup_tt : (s.modSup f).tt = s.tt := rfl
@[simp] theorem State.modSup_ft : (s.modSup f).ft = s.ft := rfl
@[simp] theorem State.modSup_ss : (s.modSup f).ss = s.ss := rfl
@[simp] theorem State.modSup_ports : (s.modSup f).ports = s.ports := rfl
@[simp] theorem State.modSup_cc : (s.modSup f).cc = s.cc := rfl
@[simp] theorem State.modSup_mu : (s.modSup f).mu = s.mu := rfl
@[simp] theorem State.modSup_sup : (s.modSup f).sup = f s.sup := rfl
@[simp] theorem State.modSup_tu : (s.modSup f).tu = s.tu := rfl
@[simp] theorem State.modSup_fs : (s.modSup f).fs = s.fs := rfl
@[simp] theorem State.modSup_plk : (s.modSup f).plk = s.plk := rfl
@[simp] theorem State.modSup_sts : (s.modSup f).sts = s.sts := rfl
@[simp] theorem State.modSup_settings : (s.modSup f).settings = s.settings := rfl
@[simp] theorem State.modSup_uptime : (s.modSup f).uptime = s.uptime := rfl
@[simp] theorem State.modSup_uptimeMs : (s.modSup f).uptimeMs = s.uptimeMs := rfl
@[simp] theorem State.modSup_dormant : (s.modSup f).dormant = s.dormant := rfl
@[simp] theorem State.modSup_pending : (s.modSup f).pending = s.pending := rfl
end modSup

section modTu
variable (f : TU → TU)
@[simp] theorem State.modTu_le : (s.modTu f).le = s.le := rfl
@[simp] theorem State.modTu_tt : (s.modTu f).tt = s.tt := rfl
@[simp] theorem State.modTu_ft : (s.modTu f).ft = s.ft := rfl
@[simp] theorem State.modTu_ss : (s.modTu f).ss = s.ss := rfl
@[simp] theorem State.modTu_ports : (s.modTu f).ports = s.ports := rfl
@[simp] theorem State.modTu_cc : (s.modTu f).cc = s.cc := rfl
@[simp] theorem State.modTu_mu : (s.modTu f).mu = s.mu := rfl
@[simp] theorem State.modTu_sup : (s.modTu f).sup = s.sup := rfl
@[simp] theorem State.modTu_tu : (s.modTu f).tu = f s.tu := rfl
@[simp] theorem State.modTu_fs : (s.modTu f).fs = s.fs := rfl
@[simp] theorem State.modTu_plk : (s.modTu f).plk = s.plk := rfl
@[simp] theorem State.modTu_sts : (s.modTu f).sts = s.sts := rfl
@[simp] theorem State.modTu_settings : (s.modTu f).settings = s.settings := rfl
@[simp] theorem State.modTu_uptime : (s.modTu f).uptime = s.uptime := rfl
@[simp] theorem State.modTu_uptimeMs : (s.modTu f).uptimeMs = s.uptimeMs := rfl
@[simp] theorem State.modTu_dormant : (s.modTu f).dormant = s.dormant := rfl
@[simp] theorem State.modTu_pending : (s.modTu f).pending = s.pending := rfl
end modTu

section modFs
variable (f : FS → FS)
@[simp] theorem State.modFs_le : (s.modFs f).le = s.le := rfl
@[simp] theorem State.modFs_tt : (s.modFs f).tt = s.tt := rfl
@[simp] theorem State.modFs_ft : (s.modFs f).ft = s.ft := rfl
@[simp] theorem State.modFs_ss : (s.modFs f).ss = s.ss := rfl
@[simp] theorem State.modFs_ports : (s.modFs f).ports = s.ports := rfl
@[simp] theorem State.modFs_cc : (s.modFs f).cc = s.cc := rfl
@[simp] theorem State.modFs_mu : (s.modFs f).mu = s.mu := rfl
@[simp] theorem State.modFs_sup : (s.modFs f).sup = s.sup := rfl
@[simp] theorem State.modFs_tu : (s.modFs f).tu = s.tu := rfl
@[simp] theorem State.modFs_fs : (s.modFs f).fs = f s.fs := rfl
@[simp] theorem State.modFs_plk : (s.modFs f).plk = s.plk := rfl
@[simp] theorem State.modFs_sts : (s.modFs f).sts = s.sts := rfl
@[simp] theorem State.modFs_settings : (s.modFs f).settings = s.settings := rfl
@[simp] theorem State.modFs_uptime : (s.modFs f).uptime = s.uptime := rfl
@[simp] theorem State.modFs_uptimeMs : (s.modFs f).uptimeMs = s.uptimeMs := rfl
@[simp] theorem State.modFs_dormant : (s.modFs f).dormant = s.dormant := rfl
@[simp] theorem State.modFs_pending : (s.modFs f).pending = s.pending := rfl
end modFs

section modPlk
variable (f : PLK → PLK)
@[simp] theorem State.modPlk_le : (s.modPlk f).le = s.le := rfl
@[simp] theorem State.modPlk_tt : (s.modPlk f).tt = s.tt := rfl
@[simp] theorem State.modPlk_ft : (s.modPlk f).ft = s.ft := rfl
@[simp] theorem State.modPlk_ss : (s.modPlk f).ss = s.ss := rfl
@[simp] theorem State.modPlk_ports : (s.modPlk f).ports = s.ports := rfl
@[simp] theorem State.modPlk_cc : (s.modPlk f).cc = s.cc := rfl
@[simp] theorem State.modPlk_mu : (s.modPlk f).mu = s.mu := rfl
@[simp] theorem State.modPlk_sup : (s.modPlk f).sup = s.sup := rfl
@[simp] theorem State.modPlk_tu : (s.modPlk f).tu = s.tu := rfl
@[simp] theorem State.modPlk_fs : (s.modPlk f).fs = s.fs := rfl
@[simp] theorem State.modPlk_plk : (s.modPlk f).plk = f s.plk := rfl
@[simp] theorem State.modPlk_sts : (s.modPlk f).sts = s.sts := rfl
@[simp] theorem State.modPlk_settings : (s.modPlk f).settings = s.settings := rfl
@[simp] theorem State.modPlk_uptime : (s.modPlk f).uptime = s.uptime := rfl
@[simp] theorem State.modPlk_uptimeMs : (s.modPlk f).uptimeMs = s.uptimeMs := rfl
@[simp] theorem State.modPlk_dormant : (s.modPlk f).dormant = s.dormant := rfl
@[simp] theorem State.modPlk_pending : (s.modPlk f).pending = s.pending := rfl
end modPlk

section modSts
variable (f : STS → STS)
@[simp] theorem State.modSts_le : (s.modSts f).le = s.le := rfl
@[simp] theorem State.modSts_tt : (s.modSts f).tt = s.tt := rfl
@[simp] theorem State.modSts_ft : (s.modSts f).ft = s.ft := rfl
@[simp] theorem State.modSts_ss : (s.modSts f).ss = s.ss := rfl
@[simp] theorem State.modSts_ports : (s.modSts f).ports = s.ports := rfl
@[simp] theorem State.modSts_cc : (s.modSts f).cc = s.cc := rfl
@[simp] theorem State.modSts_mu : (s.modSts f).mu = s.mu := rfl
@[simp] theorem State.modSts_sup : (s.modSts f).sup = s.sup := rfl
@[simp] theorem State.modSts_tu : (s.modSts f).tu = s.tu := rfl
@[simp] theorem State.modSts_fs : (s.modSts f).fs = s.fs := rfl
@[simp] theorem State.modSts_plk : (s.modSts f).plk = s.plk := rfl
@[simp] theorem State.modSts_sts : (s.modSts f).sts = f s.sts := rfl
@[simp] theorem State.modSts_settings : (s.modSts f).settings = s.settings := rfl
@[simp] theorem State.modSts_uptime : (s.modSts f).uptime = s.uptime := rfl
@[simp] theorem State.modSts_uptimeMs : (s.modSts f).uptimeMs = s.uptimeMs := rfl
@[simp] theorem State.modSts_dormant : (s.modSts f).dormant = s.dormant := rfl
@[simp] theorem State.modSts_pending : (s.modSts f).pending = s.pending := rfl
end modSts

section modSettings
variable (f : Settings → Settings)
@[simp] theorem State.modSettings_le : (s.modSettings f).le = s.le := rfl
@[simp] theorem State.modSettings_tt : (s.modSettings f).tt = s.tt := rfl
@[simp] theorem State.modSettings_ft : (s.modSettings f).ft = s.ft := rfl
@[simp] theorem State.modSettings_ss : (s.modSettings f).ss = s.ss := rfl
@[simp] theorem State.modSettings_ports : (s.modSettings f).ports = s.ports := rfl
@[simp] theorem State.modSettings_cc : (s.modSettings f).cc = s.cc := rfl
@[simp] theorem State.modSettings_mu : (s.modSettings f).mu = s.mu := rfl
@[simp] theorem State.modSettings_sup : (s.modSettings f).sup = s.sup := rfl
@[simp] theorem State.modSettings_tu : (s.modSettings f).tu = s.tu := rfl
@[simp] theorem State.modSettings_fs : (s.modSettings f).fs = s.fs := rfl
@[simp] theorem State.modSettings_plk : (s.modSettings f).plk = s.plk := rfl
@[simp] theorem State.modSettings_sts : (s.modSettings f).sts = s.sts := rfl
@[simp] theorem State.modSettings_settings : (s.modSettings f).settings = f s.settings := rfl
@[simp] theorem State.modSettings_uptime : (s.modSettings f).uptime = s.uptime := rfl
@[simp] theorem State.modSettings_uptimeMs : (s.modSettings f).uptimeMs = s.uptimeMs := rfl
@[simp] theorem State.modSettings_dormant : (s.modSettings f).dormant = s.dormant := rfl
@[simp] theorem State.modSettings_pending : (s.modSettings f).pending = s.pending := rfl
end modSettings

section modPort
variable (p : Port) (f : PP → PP)
@[simp] theorem State.modPort_le : (s.modPort p f).le = s.le := rfl
@[simp] theorem State.modPort_tt : (s.modPort p f).tt = s.tt := rfl
@[simp] theorem State.modPort_ft : (s.modPort p f).ft = s.ft := rfl
@[simp] theorem State.modPort_ss : (s.modPort p f).ss = s.ss := rfl
@[simp] theorem State.modPort_ports : (s.modPort p f).ports = s.ports.set p (f (s.ports.get p)) := rfl
@[simp] theorem State.modPort_cc : (s.modPort p f).cc = s.cc := rfl
@[simp] theorem State.modPort_mu : (s.modPort p f).mu = s.mu := rfl
@[simp] theorem State.modPort_sup : (s.modPort p f).sup = s.sup := rfl
@[simp] theorem State.modPort_tu : (s.modPort p f).tu = s.tu := rfl
@[simp] theorem State.modPort_fs : (s.modPort p f).fs = s.fs := rfl
@[simp] theorem State.modPort_plk : (s.modPort p f).plk = s.plk := rfl
@[simp] theorem State.modPort_sts : (s.modPort p f).sts = s.sts := rfl
@[simp] theorem State.modPort_settings : (s.modPort p f).settings = s.settings := rfl
@[simp] theorem State.modPort_uptime : (s.modPort p f).uptime = s.uptime := rfl
@[simp] theorem State.modPort_uptimeMs : (s.modPort p f).uptimeMs = s.uptimeMs := rfl
@[simp] theorem State.modPort_dormant : (s.modPort p f).dormant = s.dormant := rfl
@[simp] theorem State.modPort_pending : (s.modPort p f).pending = s.pending := rfl
end modPort

section modCallRaw
variable (p : Port) (f : CallRec → CallRec)
@[simp] theorem State.modCallRaw_le : (s.modCallRaw p f).le = s.le := rfl
@[simp] theorem State.modCallRaw_tt : (s.modCallRaw p f).tt = s.tt := rfl
@[simp] theorem State.modCallRaw_ft : (s.modCallRaw p f).ft = s.ft := rfl
@[simp] theorem State.modCallRaw_ss : (s.modCallRaw p f).ss = s.ss := rfl
@[simp] theorem State.modCallRaw_ports : (s.modCallRaw p f).ports = s.ports := rfl
@[simp] theorem State.modCallRaw_cc : (s.modCallRaw p f).cc = { s.cc with recs := s.cc.recs.set p (f (s.cc.recs.get p)) } := rfl
@[simp] theorem State.modCallRaw_mu : (s.modCallRaw p f).mu = s.mu := rfl
@[simp] theorem State.modCallRaw_sup : (s.modCallRaw p f).sup = s.sup := rfl
@[simp] theorem State.modCallRaw_tu : (s.modCallRaw p f).tu = s.tu := rfl
@[simp] theorem State.modCallRaw_fs : (s.modCallRaw p f).fs = s.fs := rfl
@[simp] theorem State.modCallRaw_plk : (s.modCallRaw p f).plk = s.plk := rfl
@[simp] theorem State.modCallRaw_sts : (s.modCallRaw p f).sts = s.sts := rfl
@[simp] theorem State.modCallRaw_settings : (s.modCallRaw p f).settings = s.settings := rfl
@[simp] theorem State.modCallRaw_uptime : (s.modCallRaw p f).uptime = s.uptime := rfl
@[simp] theorem State.modCallRaw_uptimeMs : (s.modCallRaw p f).uptimeMs = s.uptimeMs := rfl
@[simp] theorem State.modCallRaw_dormant : (s.modCallRaw p f).dormant = s.dormant := rfl
@[simp] theorem State.modCallRaw_pending : (s.modCallRaw p f).pending = s.pending := rfl
end modCallRaw

section modFault
variable (i : FaultId) (f : FaultRec → FaultRec)
@[simp] theorem State.modFault_le : (s.modFault i f).le = s.le := rfl
@[simp] theorem State.modFault_tt : (s.modFault i f).tt = s.tt := rfl
@[simp] theorem State.modFault_ft : (s.modFault i f).ft = s.ft := rfl
@[simp] theorem State.modFault_ss : (s.modFault i f).ss = s.ss := rfl
@[simp] theorem State.modFault_ports : (s.modFault i f).ports = s.ports := rfl
@[simp] theorem State.modFault_cc : (s.modFault i f).cc = s.cc := rfl
@[simp] theorem State.modFault_mu : (s.modFault i f).mu = s.mu := rfl
@[simp] theorem State.modFault_sup : (s.modFault i f).sup = s.sup := rfl
@[simp] theorem State.modFault_tu : (s.modFault i f).tu = s.tu := rfl
@[simp] theorem State.modFault_fs : (s.modFault i f).fs = { s.fs with recs := s.fs.recs.set i (f (s.fs.recs.get i)) } := rfl
@[simp] theorem State.modFault_plk : (s.modFault i f).plk = s.plk := rfl
@[simp] theorem State.modFault_sts : (s.modFault i f).sts = s.sts := rfl
@[simp] theorem State.modFault_settings : (s.modFault i f).settings = s.settings := rfl
@[simp] theorem State.modFault_uptime : (s.modFault i f).uptime = s.uptime := rfl
@[simp] theorem State.modFault_uptimeMs : (s.modFault i f).uptimeMs = s.uptimeMs := rfl
@[simp] theorem State.modFault_dormant : (s.modFault i f).dormant = s.dormant := rfl
@[simp] theorem State.modFault_pending : (s.modFault i f).pending = s.pending := rfl
end modFault

section modCounts
variable (f : SsCounts → SsCounts)
@[simp] theorem State.modCounts_le : (s.modCounts f).le = s.le := rfl
@[simp] theorem State.modCounts_tt : (s.modCounts f).tt = s.tt := rfl
@[simp] theorem State.modCounts_ft : (s.modCounts f).ft = s.ft := rfl
@[simp] theorem State.modCounts_ss : (s.modCounts f).ss = { s.ss with counts := f s.ss.counts } := rfl
@[simp] theorem State.modCounts_ports : (s.modCounts f).ports = s.ports := rfl
@[simp] theorem State.modCounts_cc : (s.modCounts f).cc = s.cc := rfl
@[simp] theorem State.modCounts_mu : (s.modCounts f).mu = s.mu := rfl
@[simp] theorem State.modCounts_sup : (s.modCounts f).sup = s.sup := rfl
@[simp] theorem State.modCounts_tu : (s.modCounts f).tu = s.tu := rfl
@[simp] theorem State.modCounts_fs : (s.modCounts f).fs = s.fs := rfl
@[simp] theorem State.modCounts_plk : (s.modCounts f).plk = s.plk := rfl
@[simp] theorem State.modCounts_sts : (s.modCounts f).sts = s.sts := rfl
@[simp] theorem State.modCounts_settings : (s.modCounts f).settings = s.settings := rfl
@[simp] theorem State.modCounts_uptime : (s.modCounts f).uptime = s.uptime := rfl
@[simp] theorem State.modCounts_uptimeMs : (s.modCounts f).uptimeMs = s.uptimeMs := rfl
@[simp] theorem State.modCounts_dormant : (s.modCounts f).dormant = s.dormant := rfl
@[simp] theorem State.modCounts_pending : (s.modCounts f).pending = s.pending := rfl
end modCounts

section raise
variable (n : Notice)
@[simp] theorem State.raise_le : (s.raise n).le = s.le := rfl
@[simp] theorem State.raise_tt : (s.raise n).tt = s.tt := rfl
@[simp] theorem State.raise_ft : (s.raise n).ft = s.ft := rfl
@[simp] theorem State.raise_ss : (s.raise n).ss = s.ss := rfl
@[simp] theorem State.raise_ports : (s.raise n).ports = s.ports := rfl
@[simp] theorem State.raise_cc : (s.raise n).cc = s.cc := rfl
@[simp] theorem State.raise_mu : (s.raise n).mu = s.mu := rfl
@[simp] theorem State.raise_sup : (s.raise n).sup = s.sup := rfl
@[simp] theorem State.raise_tu : (s.raise n).tu = s.tu := rfl
@[simp] theorem State.raise_fs : (s.raise n).fs = s.fs := rfl
@[simp] theorem State.raise_sts : (s.raise n).sts = s.sts := rfl
@[simp] theorem State.raise_settings : (s.raise n).settings = s.settings := rfl
@[simp] theorem State.raise_uptime : (s.raise n).uptime = s.uptime := rfl
@[simp] theorem State.raise_uptimeMs : (s.raise n).uptimeMs = s.uptimeMs := rfl
@[simp] theorem State.raise_dormant : (s.raise n).dormant = s.dormant := rfl
@[simp] theorem State.raise_pending : (s.raise n).pending = s.pending := rfl

/-- Raising a notice touches only the notices and the notice sequence (R175, R176). -/
theorem State.raise_plk : (s.raise n).plk =
    if s.plk.isOpen then (if s.plk.notices.contains n then s.plk
      else { s.plk with notices := s.plk.notices ++ [n] })
    else { s.plk with noticeSeq := (s.plk.noticeSeq + 1) % 256 } := rfl
end raise

section raiseIf
variable (c : Bool) (n : Notice)
@[simp] theorem State.raiseIf_le : (s.raiseIf c n).le = s.le := by cases c <;> rfl
@[simp] theorem State.raiseIf_tt : (s.raiseIf c n).tt = s.tt := by cases c <;> rfl
@[simp] theorem State.raiseIf_ft : (s.raiseIf c n).ft = s.ft := by cases c <;> rfl
@[simp] theorem State.raiseIf_ss : (s.raiseIf c n).ss = s.ss := by cases c <;> rfl
@[simp] theorem State.raiseIf_ports : (s.raiseIf c n).ports = s.ports := by cases c <;> rfl
@[simp] theorem State.raiseIf_cc : (s.raiseIf c n).cc = s.cc := by cases c <;> rfl
@[simp] theorem State.raiseIf_mu : (s.raiseIf c n).mu = s.mu := by cases c <;> rfl
@[simp] theorem State.raiseIf_sup : (s.raiseIf c n).sup = s.sup := by cases c <;> rfl
@[simp] theorem State.raiseIf_tu : (s.raiseIf c n).tu = s.tu := by cases c <;> rfl
@[simp] theorem State.raiseIf_fs : (s.raiseIf c n).fs = s.fs := by cases c <;> rfl
@[simp] theorem State.raiseIf_sts : (s.raiseIf c n).sts = s.sts := by cases c <;> rfl
@[simp] theorem State.raiseIf_settings : (s.raiseIf c n).settings = s.settings := by cases c <;> rfl
@[simp] theorem State.raiseIf_uptime : (s.raiseIf c n).uptime = s.uptime := by cases c <;> rfl
@[simp] theorem State.raiseIf_uptimeMs : (s.raiseIf c n).uptimeMs = s.uptimeMs := by cases c <;> rfl
@[simp] theorem State.raiseIf_dormant : (s.raiseIf c n).dormant = s.dormant := by cases c <;> rfl
@[simp] theorem State.raiseIf_pending : (s.raiseIf c n).pending = s.pending := by cases c <;> rfl
end raiseIf

@[simp] theorem State.raise_plk_requests (n : Notice) : (s.raise n).plk.requests = s.plk.requests := by
  rw [State.raise_plk]; repeat' split
  all_goals rfl
@[simp] theorem State.raiseIf_plk_requests (c : Bool) (n : Notice) : (s.raiseIf c n).plk.requests = s.plk.requests := by
  cases c; · rfl
  · exact s.raise_plk_requests n
@[simp] theorem State.raise_plk_busy (n : Notice) : (s.raise n).plk.busy = s.plk.busy := by
  rw [State.raise_plk]; repeat' split
  all_goals rfl
@[simp] theorem State.raiseIf_plk_busy (c : Bool) (n : Notice) : (s.raiseIf c n).plk.busy = s.plk.busy := by
  cases c; · rfl
  · exact s.raise_plk_busy n
@[simp] theorem State.raise_plk_nextOrder (n : Notice) : (s.raise n).plk.nextOrder = s.plk.nextOrder := by
  rw [State.raise_plk]; repeat' split
  all_goals rfl
@[simp] theorem State.raiseIf_plk_nextOrder (c : Bool) (n : Notice) : (s.raiseIf c n).plk.nextOrder = s.plk.nextOrder := by
  cases c; · rfl
  · exact s.raise_plk_nextOrder n
@[simp] theorem State.raise_plk_isOpen (n : Notice) : (s.raise n).plk.isOpen = s.plk.isOpen := by
  rw [State.raise_plk]; repeat' split
  all_goals rfl
@[simp] theorem State.raiseIf_plk_isOpen (c : Bool) (n : Notice) : (s.raiseIf c n).plk.isOpen = s.plk.isOpen := by
  cases c; · rfl
  · exact s.raise_plk_isOpen n
@[simp] theorem State.raise_plk_frame (n : Notice) : (s.raise n).plk.frame = s.plk.frame := by
  rw [State.raise_plk]; repeat' split
  all_goals rfl
@[simp] theorem State.raiseIf_plk_frame (c : Bool) (n : Notice) : (s.raiseIf c n).plk.frame = s.plk.frame := by
  cases c; · rfl
  · exact s.raise_plk_frame n
@[simp] theorem State.raise_plk_dataDown (n : Notice) : (s.raise n).plk.dataDown = s.plk.dataDown := by
  rw [State.raise_plk]; repeat' split
  all_goals rfl
@[simp] theorem State.raiseIf_plk_dataDown (c : Bool) (n : Notice) : (s.raiseIf c n).plk.dataDown = s.plk.dataDown := by
  cases c; · rfl
  · exact s.raise_plk_dataDown n
@[simp] theorem State.raise_plk_rx (n : Notice) : (s.raise n).plk.rx = s.plk.rx := by
  rw [State.raise_plk]; repeat' split
  all_goals rfl
@[simp] theorem State.raiseIf_plk_rx (c : Bool) (n : Notice) : (s.raiseIf c n).plk.rx = s.plk.rx := by
  cases c; · rfl
  · exact s.raise_plk_rx n
@[simp] theorem State.raise_plk_rxBytes (n : Notice) : (s.raise n).plk.rxBytes = s.plk.rxBytes := by
  rw [State.raise_plk]; repeat' split
  all_goals rfl
@[simp] theorem State.raiseIf_plk_rxBytes (c : Bool) (n : Notice) : (s.raiseIf c n).plk.rxBytes = s.plk.rxBytes := by
  cases c; · rfl
  · exact s.raise_plk_rxBytes n
@[simp] theorem State.raise_plk_errors (n : Notice) : (s.raise n).plk.errors = s.plk.errors := by
  rw [State.raise_plk]; repeat' split
  all_goals rfl
@[simp] theorem State.raiseIf_plk_errors (c : Bool) (n : Notice) : (s.raiseIf c n).plk.errors = s.plk.errors := by
  cases c; · rfl
  · exact s.raise_plk_errors n
@[simp] theorem State.raise_plk_lastError (n : Notice) : (s.raise n).plk.lastError = s.plk.lastError := by
  rw [State.raise_plk]; repeat' split
  all_goals rfl
@[simp] theorem State.raiseIf_plk_lastError (c : Bool) (n : Notice) : (s.raiseIf c n).plk.lastError = s.plk.lastError := by
  cases c; · rfl
  · exact s.raise_plk_lastError n

@[simp] theorem State.raise_noticesOpen (n : Notice) (h : s.plk.isOpen = true) :
    n ∈ (s.raise n).plk.notices := by
  rw [State.raise_plk]; simp only [h, if_true]; split <;> simp_all

/-! ## Tables -/

@[simp] theorem perPort_get_set {α : Type} (t : PerPort α) (p : Port) (x : α) : (t.set p x).get p = x := by
  cases p <;> rfl

@[simp] theorem perPort_get_set_other {α : Type} (t : PerPort α) (p : Port) (x : α) :
    (t.set p x).get p.other = t.get p.other := by cases p <;> rfl

@[simp] theorem perFault_get_set {α : Type} (t : PerFault α) (i : FaultId) (x : α) : (t.set i x).get i = x := by
  cases i <;> rfl

theorem perFault_get_set_ne {α : Type} (t : PerFault α) (i j : FaultId) (x : α) (h : j ≠ i) :
    (t.set i x).get j = t.get j := by cases i <;> cases j <;> first | rfl | exact absurd rfl h

@[simp] theorem perChan_get_set {α : Type} (t : PerChan α) (c : Chan) (x : α) : (t.set c x).get c = x := by
  cases c <;> rfl

theorem perChan_get_set_ne {α : Type} (t : PerChan α) (c d : Chan) (x : α) (h : d ≠ c) :
    (t.set c x).get d = t.get d := by cases c <;> cases d <;> first | rfl | exact absurd rfl h

@[simp] theorem perChan_get_mapAll {α β : Type} (f : Chan → α → β) (t : PerChan α) (c : Chan) :
    (PerChan.mapAll f t).get c = f c (t.get c) := by cases c <;> rfl

/-! ## The start of a sweep -/

@[simp] theorem MU.beginSweep_sweep (x : MU) : x.beginSweep.sweep = x.sweep + 1 := rfl
@[simp] theorem MU.beginSweep_sweeping (x : MU) : x.beginSweep.sweeping = true := rfl
@[simp] theorem MU.beginSweep_periodRate (x : MU) : x.beginSweep.periodRate = x.rateInForce := rfl
@[simp] theorem MU.beginSweep_accounts (x : MU) : x.beginSweep.accounts = x.accounts := rfl
@[simp] theorem MU.beginSweep_chan (x : MU) (c : Chan) :
    x.beginSweep.chans.get c = { x.chans.get c with fresh := false } := by
  rw [MU.beginSweep, perChan_get_mapAll]

/-- R120: no channel has a fresh sample before one is kept. -/
@[simp] theorem MU.beginSweep_fresh (x : MU) (c : Chan) : x.beginSweep.fresh c = none := by
  rw [MU.fresh, MU.beginSweep_chan]; rfl

/-- R120: a kept sample is the channel's newest value, fresh in its sweep. -/
theorem MuChan.keep_latest (x : MuChan) (v : Int) (sweep : Sf) :
    (x.keep v sweep).latest = some v ∧ (x.keep v sweep).fresh = true ∧ (x.keep v sweep).lastKept = some sweep :=
  ⟨rfl, rfl, rfl⟩

/-! ## Fault records cleared -/

@[simp] theorem FaultRec.cleared_state (r : FaultRec) : r.cleared.state = .clear := rfl
@[simp] theorem FaultRec.cleared_condition (r : FaultRec) : r.cleared.condition = r.condition := rfl
theorem FaultRec.cleared_not_clearable (r : FaultRec) : ¬ r.cleared.clearable := by
  simp [FaultRec.clearable]

/-! ## The schedule of EXCHANGE in service -/

@[simp] theorem Sched.inService_period (c : Sched) (x : Sym) : (c.inService x).period = c.period := rfl
@[simp] theorem Sched.inService_width (c : Sched) (x : Sym) : (c.inService x).width = c.width := rfl
@[simp] theorem Sched.inService_anchor (c : Sched) (x : Sym) : (c.inService x).anchor = c.anchor := rfl
@[simp] theorem Sched.inService_origin (c : Sched) (x : Sym) : (c.inService x).origin = c.origin := rfl

/-- R48: the offset is a place within a superframe. -/
theorem Sched.inService_offset_lt (c : Sched) (x : Sym) : (c.inService x).offset < 40 := Nat.mod_lt _ (by decide)

end Sys2Proof.Machine
end

