-- ==== Sys2Proof/Laws/Calm.lean ====
section
/-!
SUPPORT. What the shared operations leave as it was. `Calm K z s` says that `s` differs from `z` in no setting, store,
time, supply mode, custody, host queue or energy account, and that in `s`, if in `z`, the limits of the lists hold (R56,
R88, R160), the voice channels are apart (R99), the pending notices differ (R175), the queue law holds (R69), the
processor link is empty while closed (R176), and the laws of the hold sets named by `K` hold (R2, R78): inside an
operation one of these may stand open until the operation's end. One lemma per shared operation.
-/

namespace Sys2Proof.Machine

/-- The three hold sets. -/
inductive Side where
  | line | port (p : Port)
  deriving DecidableEq

/-- The law of one hold set (R2, R78). -/
def State.heldOn (s : State) : Side → Prop
  | .line => s.le.held
  | .port p => (s.ports.get p).held

structure Calm (K : Side → Prop) (z s : State) : Prop where
  settings : s.settings = z.settings
  sts : s.sts = z.sts
  uptime : s.uptime = z.uptime
  uptimeMs : s.uptimeMs = z.uptimeMs
  dormant : s.dormant = z.dormant
  pending : s.pending = z.pending
  mode : s.sup.mode = z.sup.mode
  procPwr : s.sup.procPwr = z.sup.procPwr
  custody : s.cc.custody = z.cc.custody
  upQueue : s.ss.upQueue = z.ss.upQueue
  requests : s.plk.requests = z.plk.requests
  busy : s.plk.busy = z.plk.busy
  nextOrder : s.plk.nextOrder = z.plk.nextOrder
  isOpen : s.plk.isOpen = z.plk.isOpen
  frame : s.plk.frame = z.plk.frame
  dataDown : s.plk.dataDown = z.plk.dataDown
  rx : s.plk.rx = z.plk.rx
  rxBytes : s.plk.rxBytes = z.plk.rxBytes
  accounts : s.mu.accounts = z.mu.accounts
  overflow : s.mu.overflow = z.mu.overflow
  active : s.mu.active = z.mu.active
  snapshot : s.mu.pending = z.mu.pending
  readout : s.mu.readout = z.mu.readout
  sweep : s.mu.sweep = z.mu.sweep
  dataPartial : s.ss.dataPartial = z.ss.dataPartial ∨ s.ss.dataPartial = none
  history : z.fs.history.length ≤ 32 → s.fs.history.length ≤ 32
  txs : z.ss.txs.length ≤ 8 → s.ss.txs.length ≤ 8
  digitsA : z.ports.a.digits.length ≤ 32 → s.ports.a.digits.length ≤ 32
  digitsB : z.ports.b.digits.length ≤ 32 → s.ports.b.digits.length ≤ 32
  apart : z.channelsApart → s.channelsApart
  notices : z.plk.notices.Nodup → s.plk.notices.Nodup
  queue : z.ss.txs.length ≤ 8 → z.ss.queueLaw → s.ss.queueLaw
  shut : z.linkLaw → s.linkLaw
  held : ∀ x, K x → z.heldOn x → s.heldOn x

@[simp] theorem Calm.refl (K : Side → Prop) (z : State) : Calm K z z := by
  constructor <;> first | rfl | exact .inl rfl | exact id | exact fun _ => id | exact fun _ _ => id

variable {K : Side → Prop} {z s : State}

/-- What one update keeps, after what was kept before. -/
theorem Calm.step {t : State} (h : Calm K z s) (hs : Calm K s t) : Calm K z t where
  settings := hs.settings.trans h.settings
  sts := hs.sts.trans h.sts
  uptime := hs.uptime.trans h.uptime
  uptimeMs := hs.uptimeMs.trans h.uptimeMs
  dormant := hs.dormant.trans h.dormant
  pending := hs.pending.trans h.pending
  mode := hs.mode.trans h.mode
  procPwr := hs.procPwr.trans h.procPwr
  custody := hs.custody.trans h.custody
  upQueue := hs.upQueue.trans h.upQueue
  requests := hs.requests.trans h.requests
  busy := hs.busy.trans h.busy
  nextOrder := hs.nextOrder.trans h.nextOrder
  isOpen := hs.isOpen.trans h.isOpen
  frame := hs.frame.trans h.frame
  dataDown := hs.dataDown.trans h.dataDown
  rx := hs.rx.trans h.rx
  rxBytes := hs.rxBytes.trans h.rxBytes
  accounts := hs.accounts.trans h.accounts
  overflow := hs.overflow.trans h.overflow
  active := hs.active.trans h.active
  snapshot := hs.snapshot.trans h.snapshot
  readout := hs.readout.trans h.readout
  sweep := hs.sweep.trans h.sweep
  dataPartial := by
    rcases hs.dataPartial with e | e
    · rw [e]; exact h.dataPartial
    · exact .inr e
  history := fun x => hs.history (h.history x)
  txs := fun x => hs.txs (h.txs x)
  digitsA := fun x => hs.digitsA (h.digitsA x)
  digitsB := fun x => hs.digitsB (h.digitsB x)
  apart := fun x => hs.apart (h.apart x)
  notices := fun x => hs.notices (h.notices x)
  queue := fun x y => hs.queue (h.txs x) (h.queue x y)
  shut := fun x => hs.shut (h.shut x)
  held := fun x hk y => hs.held x hk (h.held x hk y)

/-- Fewer hold sets are asked about. -/
theorem Calm.weaken {j : Side → Prop} (h : Calm K z s) (hj : ∀ x, j x → K x) : Calm j z s :=
  { h with held := fun x hx => h.held x (hj x hx) }

/-- The hold sets but one. -/
abbrev allBut (K : Side → Prop) (x : Side) : Side → Prop := fun y => K y ∧ y ≠ x

theorem Calm.but (h : Calm K z s) (x : Side) : Calm (allBut K x) z s := h.weaken fun _ h => h.1

/-- An operation that left one hold set's law open has kept it none the less. -/
theorem Calm.closeIf {x : Side} (h : Calm (allBut K x) z s) (hx : K x → z.heldOn x → s.heldOn x) : Calm K z s :=
  { h with
    held := fun y hy hz => by
      by_cases e : y = x
      · rw [e] at hy hz ⊢
        exact hx hy hz
      · exact h.held y ⟨hy, e⟩ hz }

/-- An operation that left one hold set's law open has established it again. -/
theorem Calm.close {x : Side} (h : Calm (allBut K x) z s) (hx : s.heldOn x) : Calm K z s := h.closeIf fun _ _ => hx

/-! ## Updates -/

/-- An update of the line engine that leaves link state and hold set. -/
@[simp] theorem calm_modLe (f : LE → LE) (h : Calm K z s) (hl : (f s.le).link = s.le.link)
    (hh : (f s.le).hold = s.le.hold) : Calm K z (s.modLe f) :=
  h.step (by
    constructor <;> first | rfl | exact .inl rfl | exact id | exact fun _ => id | skip
    rintro (_ | p) _ hz
    · simpa only [State.heldOn, State.modLe_le, LE.held, hl, hh] using hz
    · exact hz)
/-- Any update of the line engine, the line's law standing open. -/
theorem calm_modLe_open (f : LE → LE) (h : Calm K z s) (hk : ¬K .line) : Calm K z (s.modLe f) :=
  h.step (by
    constructor <;> first | rfl | exact .inl rfl | exact id | exact fun _ => id | skip
    rintro (_ | p) hx hz
    · exact absurd hx hk
    · exact hz)
@[simp] theorem calm_modTt (f : Tables → Tables) (h : Calm K z s) : Calm K z (s.modTt f) :=
  h.step (by constructor <;> first | rfl | exact .inl rfl | exact id | exact fun _ => id | (rintro (_ | _) _ <;> exact id))
@[simp] theorem calm_modFt (f : FT → FT) (h : Calm K z s) : Calm K z (s.modFt f) :=
  h.step (by constructor <;> first | rfl | exact .inl rfl | exact id | exact fun _ => id | (rintro (_ | _) _ <;> exact id))
@[simp] theorem calm_modTu (f : TU → TU) (h : Calm K z s) : Calm K z (s.modTu f) :=
  h.step (by constructor <;> first | rfl | exact .inl rfl | exact id | exact fun _ => id | (rintro (_ | _) _ <;> exact id))

theorem State.raise_open (s : State) (n : Notice) (h : s.plk.isOpen = true) :
    s.raise n = if s.plk.notices.contains n then s else s.modPlk fun k => { k with notices := k.notices ++ [n] } := by
  simp only [State.raise, State.modPlk, h, if_true]
  split <;> rfl

theorem State.raise_closed (s : State) (n : Notice) (h : s.plk.isOpen = false) :
    s.raise n = s.modPlk fun k => { k with noticeSeq := (k.noticeSeq + 1) % 256 } := by
  simp [State.raise, State.modPlk, h]

@[simp] theorem calm_raise (n : Notice) (h : Calm K z s) : Calm K z (s.raise n) := by
  cases ho : s.plk.isOpen
  · rw [State.raise_closed s n ho]
    exact h.step (by
      constructor <;> first | rfl | exact .inl rfl | exact id | exact fun _ => id | (rintro (_ | _) _ <;> exact id))
  · rw [State.raise_open s n ho]
    split
    · exact h
    · rename_i hn
      refine h.step ?_
      constructor <;> first | rfl | exact .inl rfl | exact id | exact fun _ => id | skip
      · intro hd
        rw [List.contains_iff_mem] at hn
        simp only [State.modPlk_plk, List.nodup_append, List.nodup_cons, List.not_mem_nil, not_false_iff,
          List.nodup_nil, and_self, List.mem_singleton, forall_eq, true_and]
        exact ⟨hd, fun a ha e => hn (e ▸ ha)⟩
      · rintro ⟨hp, _⟩
        refine ⟨hp, fun hc => ?_⟩
        rw [State.modPlk_plk] at hc
        exact absurd hc (by simp [ho])
      · rintro (_ | _) _ <;> exact id
@[simp] theorem calm_raiseIf (c : Bool) (n : Notice) (h : Calm K z s) : Calm K z (s.raiseIf c n) := by
  unfold State.raiseIf
  split
  · exact calm_raise n h
  · exact h
@[simp] theorem calm_modSup (f : SUP → SUP) (h : Calm K z s) (hm : (f s.sup).mode = s.sup.mode)
    (hp : (f s.sup).procPwr = s.sup.procPwr) : Calm K z (s.modSup f) :=
  h.step (by
    constructor <;> first
      | assumption | rfl | exact .inl rfl | exact id | exact fun _ => id
      | (intro x; simpa only [State.linkLaw, State.modSup_plk, State.modSup_ss, State.modSup_sup, hp] using x)
      | (rintro (_ | _) _ <;> exact id))
theorem calm_modFs (f : FS → FS) (h : Calm K z s) (hl : s.fs.history.length ≤ 32 → (f s.fs).history.length ≤ 32) :
    Calm K z (s.modFs f) :=
  h.step (by
    constructor <;> first
      | rfl | exact .inl rfl | exact hl | exact id | exact fun _ => id | (rintro (_ | _) _ <;> exact id))
@[simp] theorem calm_modFault (i : FaultId) (f : FaultRec → FaultRec) (h : Calm K z s) : Calm K z (s.modFault i f) :=
  calm_modFs _ h id
theorem calm_modSs (f : SS → SS) (h : Calm K z s) (ht : s.ss.txs.length ≤ 8 → (f s.ss).txs.length ≤ 8)
    (hl : s.ss.txs.length ≤ 8 → s.ss.queueLaw → (f s.ss).queueLaw) (hq : (f s.ss).upQueue = s.ss.upQueue)
    (hx : (f s.ss).xon = s.ss.xon) (hd : (f s.ss).dataPartial = s.ss.dataPartial ∨ (f s.ss).dataPartial = none) :
    Calm K z (s.modSs f) :=
  h.step (by
    constructor <;> first
      | assumption | rfl | exact ht | exact hl | exact id | exact fun _ => id | (rintro (_ | _) _ <;> exact id) | skip
    rintro ⟨hp, hc⟩
    refine ⟨hp, fun ho => ?_⟩
    obtain ⟨a1, a2, a3, a4, a5, a6, a7, a8, a9, a10⟩ := hc ho
    refine ⟨a1, a2, a3, a4, a5, a6, a7, hq.trans a8, hx.trans a9, ?_⟩
    rcases hd with e | e
    · exact e.trans a10
    · exact e)
@[simp] theorem calm_modCounts (f : SsCounts → SsCounts) (h : Calm K z s) : Calm K z (s.modCounts f) :=
  calm_modSs _ h id (fun _ => id) rfl rfl (.inl rfl)
theorem calm_modPort (p : Port) (f : PP → PP) (h : Calm K z s)
    (hd : (s.ports.get p).digits.length ≤ 32 → (f (s.ports.get p)).digits.length ≤ 32)
    (hh : K (.port p) → (s.ports.get p).held → (f (s.ports.get p)).held) : Calm K z (s.modPort p f) :=
  h.step (by
    cases p <;> constructor <;> first
      | rfl | exact .inl rfl | exact hd | exact id | exact fun _ => id | skip
    all_goals
      rintro (_ | q) hx
      · exact id
      · cases q
        all_goals first | exact hh hx | exact id)
@[simp] theorem calm_modCc (f : CC → CC) (h : Calm K z s) (hc : (f s.cc).custody = s.cc.custody)
    (hr : (f s.cc).recs = s.cc.recs) : Calm K z (s.modCc f) :=
  h.step (by
    constructor <;> first
      | assumption | rfl | exact .inl rfl | exact id | exact fun _ => id
      | (intro x; simpa [State.channelsApart, hr] using x) | (rintro (_ | _) _ <;> exact id))
@[simp] theorem calm_modMu (f : MU → MU) (h : Calm K z s) (h1 : (f s.mu).accounts = s.mu.accounts)
    (h2 : (f s.mu).overflow = s.mu.overflow) (h3 : (f s.mu).active = s.mu.active)
    (h4 : (f s.mu).pending = s.mu.pending) (h5 : (f s.mu).readout = s.mu.readout)
    (h6 : (f s.mu).sweep = s.mu.sweep) : Calm K z (s.modMu f) :=
  h.step (by
    constructor <;> first
      | assumption | rfl | exact .inl rfl | exact id | exact fun _ => id | (rintro (_ | _) _ <;> exact id))
theorem calm_modCallRaw (p : Port) (f : CallRec → CallRec) (h : Calm K z s)
    (hc : ∀ c ∈ (f (s.cc.recs.get p)).channels, c ∈ (s.cc.recs.get p).channels) : Calm K z (s.modCallRaw p f) :=
  h.step (by
    cases p <;> constructor <;> first
      | rfl
      | exact .inl rfl
      | exact fun x c h1 h2 => x c (hc c h1) h2
      | exact fun x c h1 h2 => x c h1 (hc c h2)
      | exact id
      | exact fun _ => id
      | (rintro (_ | _) _ <;> exact id))

@[simp] theorem SS.enqueue_txs (x : SS) (w : Sender) (m : List Byte) : (x.enqueue w m).txs = x.txs := rfl
@[simp] theorem SS.enqueue_upQueue (x : SS) (w : Sender) (m : List Byte) : (x.enqueue w m).upQueue = x.upQueue := rfl
@[simp] theorem SS.enqueue_xon (x : SS) (w : Sender) (m : List Byte) : (x.enqueue w m).xon = x.xon := rfl
@[simp] theorem SS.enqueue_dataPartial (x : SS) (w : Sender) (m : List Byte) :
    (x.enqueue w m).dataPartial = x.dataPartial := rfl

/-! ## The queue law under the updates of the outbound queue (R69) -/

/-- The law speaks of the queue and the transaction list only. -/
theorem SS.queueLaw.same {x y : SS} (h : x.queueLaw) (hq : y.outQueue = x.outQueue) (ht : y.txs = x.txs) :
    y.queueLaw := by
  unfold SS.queueLaw
  rw [hq, ht]
  exact h

theorem SS.queueLaw.empty {x : SS} (hq : x.outQueue = []) (ht : x.txs = []) : x.queueLaw := by
  unfold SS.queueLaw
  rw [hq, ht]
  simp

/-- A message of no transaction joins where fewer than 24 others stand. -/
theorem SS.queueLaw.place {x : SS} (h : x.queueLaw) (w : Sender) (m : List Byte) (hw : ∀ n, w ≠ .send n)
    (hr : x.answersFull = false) : (x.enqueue w m).queueLaw := by
  obtain ⟨a, b, c, d, e, f⟩ := h
  have hu : OutMsg.unsent { who := w, cells := cellsOf x.mgmtSeq m, started := false } = none := by
    unfold OutMsg.unsent
    cases w <;> first | rfl | exact absurd rfl (hw _)
  have hs : OutMsg.isSend { who := w, cells := cellsOf x.mgmtSeq m, started := false } = false := by
    unfold OutMsg.isSend
    cases w <;> first | rfl | exact absurd rfl (hw _)
  refine ⟨a, b, ?_, ?_, ?_, ?_⟩
  · have hlt := Nat.not_le.mp (of_decide_eq_false hr)
    simp only [Config.answerPlaces] at hlt
    simp only [SS.enqueue, List.filter_append, List.length_append, List.filter_cons, hs, Bool.not_false, if_true,
      List.filter_nil, List.length_cons, List.length_nil]
    omega
  · intro y hy
    cases hq : x.outQueue with
    | nil => simp [SS.enqueue, hq] at hy
    | cons q t =>
      simp only [SS.enqueue, hq, List.cons_append, List.tail_cons, List.mem_append, List.mem_singleton] at hy
      rcases hy with hy | rfl
      · exact d y (by rw [hq]; exact hy)
      · rfl
  · simpa [SS.enqueue, List.filterMap_append, hu] using e
  · simpa [SS.enqueue, List.filterMap_append, hu] using f

/-- The send of a transaction of the list joins, none of its own standing unsent. -/
theorem SS.queueLaw.send {x : SS} (h : x.queueLaw) (n : Nat) (m : List Byte)
    (hn : n ∉ x.outQueue.filterMap OutMsg.unsent) (ht : ∃ t ∈ x.txs, t.number = n ∧ t.timeLeft = none) :
    (x.enqueue (.send n) m).queueLaw := by
  obtain ⟨a, b, c, d, e, f⟩ := h
  have hu : OutMsg.unsent { who := .send n, cells := cellsOf x.mgmtSeq m, started := false } = some n := rfl
  refine ⟨a, b, ?_, ?_, ?_, ?_⟩
  · simpa [SS.enqueue, List.filter_append, OutMsg.isSend] using c
  · intro y hy
    cases hq : x.outQueue with
    | nil => simp [SS.enqueue, hq] at hy
    | cons q t =>
      simp only [SS.enqueue, hq, List.cons_append, List.tail_cons, List.mem_append, List.mem_singleton] at hy
      rcases hy with hy | rfl
      · exact d y (by rw [hq]; exact hy)
      · rfl
  · simp only [SS.enqueue, List.filterMap_append, List.filterMap_cons, hu, List.filterMap_nil]
    rw [List.nodup_append]
    exact ⟨e, by simp, fun i hi j hj => by rw [List.mem_singleton] at hj; rintro rfl; exact hn (hj ▸ hi)⟩
  · intro i hi
    simp only [SS.enqueue, List.filterMap_append, List.filterMap_cons, hu, List.filterMap_nil, List.mem_append,
      List.mem_singleton] at hi
    rcases hi with hi | rfl
    · exact f i hi
    · exact ht

theorem List.mem_tail_of_filter {α : Type} (p : α → Bool) (l : List α) (a : α) (h : a ∈ (l.filter p).tail) :
    a ∈ l.tail := by
  cases l with
  | nil => exact h
  | cons b t =>
    rw [List.filter_cons] at h
    split at h
    · exact (List.mem_filter.mp h).1
    · exact (List.mem_filter.mp (List.mem_of_mem_tail h)).1

/-- Messages leave the queue, and entries whose unsent sends leave with them. -/
theorem SS.queueLaw.drop {x y : SS} (h : x.queueLaw) (p : OutMsg → Bool) (q : Tx → Bool)
    (hq : y.outQueue = x.outQueue.filter p) (ht : y.txs = x.txs.filter q)
    (hpq : ∀ m ∈ x.outQueue, p m = true → ∀ n, OutMsg.unsent m = some n → ∀ t ∈ x.txs, t.number = n → q t = true) :
    y.queueLaw := by
  obtain ⟨a, b, c, d, e, f⟩ := h
  have hsub : (y.outQueue.filterMap OutMsg.unsent).Sublist (x.outQueue.filterMap OutMsg.unsent) := by
    rw [hq]; exact List.filter_sublist.filterMap _
  refine ⟨?_, ?_, ?_, ?_, e.sublist hsub, ?_⟩
  · intro t h; rw [ht] at h; exact a t (List.mem_filter.mp h).1
  · rw [ht]; exact b.sublist (List.filter_sublist.map _)
  · rw [hq]; exact Nat.le_trans (List.filter_sublist.filter _).length_le c
  · intro m h; rw [hq] at h; exact d m (List.mem_tail_of_filter _ _ _ h)
  · intro n hn
    obtain ⟨t, h1, h2, h3⟩ := f n (hsub.subset hn)
    rw [hq, List.mem_filterMap] at hn
    obtain ⟨m, hm, hu⟩ := hn
    rw [List.mem_filter] at hm
    refine ⟨t, ?_, h2, h3⟩
    rw [ht, List.mem_filter]
    exact ⟨h1, hpq m hm.1 hm.2 n hu t h1 h2⟩

/-- The head of the queue changes or leaves, no send of it standing unsent any more. -/
theorem SS.queueLaw.head {x y : SS} (h : x.queueLaw) {m : OutMsg} {t u : List OutMsg} (hx : x.outQueue = m :: t)
    (hy : y.outQueue = u ++ t) (hu : u = [] ∨ ∃ n, u = [n] ∧ n.started = true ∧ n.isSend = m.isSend)
    (ht : y.txs = x.txs) : y.queueLaw := by
  obtain ⟨a, b, c, d, e, f⟩ := h
  rw [hx] at c d e f
  have hsub : (y.outQueue.filterMap OutMsg.unsent).Sublist ((m :: t).filterMap OutMsg.unsent) := by
    rw [hy]
    rcases hu with rfl | ⟨n, rfl, hn, _⟩
    · exact (List.sublist_cons_self m t).filterMap _
    · have : OutMsg.unsent n = none := by unfold OutMsg.unsent; split <;> simp_all
      simpa [List.filterMap_cons, this] using (List.sublist_cons_self m t).filterMap OutMsg.unsent
  refine ⟨by rw [ht]; exact a, by rw [ht]; exact b, ?_, ?_, e.sublist hsub, ?_⟩
  · rw [hy]
    rcases hu with rfl | ⟨n, rfl, _, hs⟩
    · exact Nat.le_trans ((List.sublist_cons_self m t).filter _).length_le c
    · rw [List.filter_cons] at c
      rw [List.singleton_append, List.filter_cons, hs]
      split at c <;> split <;> simp_all
  · intro i hi
    rw [hy] at hi
    rcases hu with rfl | ⟨n, rfl, _, _⟩
    · exact d i (List.mem_of_mem_tail hi)
    · exact d i hi
  · intro n hn
    rw [ht]
    exact f n (hsub.subset hn)

/-- Entries keep their numbers, and those whose sends stand unsent keep their time left absent. -/
theorem SS.queueLaw.retime {x y : SS} (h : x.queueLaw) (f : Tx → Tx) (hq : y.outQueue = x.outQueue)
    (ht : y.txs = x.txs.map f) (hf : ∀ t, (f t).number = t.number)
    (hn : ∀ t ∈ x.txs, t.number ∈ x.outQueue.filterMap OutMsg.unsent → t.timeLeft = none → (f t).timeLeft = none) :
    y.queueLaw := by
  obtain ⟨a, b, c, d, e, g⟩ := h
  have hm : (x.txs.map f).map (·.number) = x.txs.map (·.number) := by
    rw [List.map_map]
    exact List.map_congr_left fun t _ => hf t
  refine ⟨?_, by rw [ht, hm]; exact b, by rw [hq]; exact c, by rw [hq]; exact d, by rw [hq]; exact e, ?_⟩
  · intro t h
    rw [ht] at h
    obtain ⟨u, hu, rfl⟩ := List.mem_map.mp h
    rw [hf]
    exact a u hu
  · intro n hu
    rw [hq] at hu
    obtain ⟨t, h1, rfl, h3⟩ := g n hu
    exact ⟨f t, by rw [ht]; exact List.mem_map_of_mem h1, hf t, hn t h1 hu h3⟩

/-- Two entries of one number are one. -/
theorem SS.queueLaw.entry_unique {x : SS} (h : x.queueLaw) {t u : Tx} (ht : t ∈ x.txs) (hu : u ∈ x.txs)
    (e : t.number = u.number) : t = u := List.inj_on_of_nodup_map h.2.1 ht hu e

/-- A send of a number stands unsent only in a message of that send. -/
theorem OutMsg.who_of_unsent {m : OutMsg} {n : Nat} (h : OutMsg.unsent m = some n) : m.who = .send n := by
  unfold OutMsg.unsent at h
  split at h
  · rename_i i hw
    split at h
    · exact absurd h (by simp)
    · rw [hw, Option.some.inj h]
  · exact absurd h (by simp)

/-- The number a grant takes is free while fewer than 8 entries stand (R70). -/
theorem SS.freeNumber_free (x : SS) (h : x.txs.length < 8) :
    x.freeNumber < 16 ∧ ∀ t ∈ x.txs, t.number ≠ x.freeNumber := by
  have hex : ((((List.range 16).map fun i => (x.nextNumber + i) % 16).find?
      fun n => !(x.txs.any fun t => t.number == n))).isSome := by
    rw [List.find?_isSome]
    by_contra hno
    have hall : ∀ n ∈ (List.range 16).map (fun i => (x.nextNumber + i) % 16), n ∈ x.txs.map (·.number) := by
      intro n hn
      by_contra hm
      refine hno ⟨n, hn, ?_⟩
      simp only [Bool.not_eq_true', List.any_eq_false, beq_iff_eq]
      intro t ht e
      exact hm (List.mem_map.mpr ⟨t, ht, e⟩)
    have hnd : ((List.range 16).map fun i => (x.nextNumber + i) % 16).Nodup := by
      rw [List.nodup_map_iff_inj_on List.nodup_range]
      intro i hi j hj e
      simp only [List.mem_range] at hi hj
      omega
    have := (hnd.subperm hall).length_le
    simp only [List.length_map, List.length_range] at this
    omega
  obtain ⟨n, hn⟩ := Option.isSome_iff_exists.mp hex
  have hm := List.mem_of_find?_eq_some hn
  have hp := List.find?_some hn
  unfold SS.freeNumber
  rw [hn]
  simp only [List.mem_map, List.mem_range] at hm
  obtain ⟨i, _, rfl⟩ := hm
  refine ⟨Nat.mod_lt _ (by decide), fun t ht e => ?_⟩
  simp only [Bool.not_eq_true', List.any_eq_false, beq_iff_eq] at hp
  exact hp t ht e

/-! ## The same, where nothing that `Calm` speaks of is written -/

@[simp] theorem calm_modFs_keep (f : FS → FS) (h : Calm K z s) (hl : (f s.fs).history = s.fs.history) :
    Calm K z (s.modFs f) := calm_modFs f h (by rw [hl]; exact id)
@[simp] theorem calm_modSs_keep (f : SS → SS) (h : Calm K z s) (ht : (f s.ss).txs = s.ss.txs)
    (ho : (f s.ss).outQueue = s.ss.outQueue) (hq : (f s.ss).upQueue = s.ss.upQueue) (hx : (f s.ss).xon = s.ss.xon)
    (hd : (f s.ss).dataPartial = s.ss.dataPartial ∨ (f s.ss).dataPartial = none) : Calm K z (s.modSs f) :=
  calm_modSs f h (by rw [ht]; exact id) (fun _ x => x.same ho ht) hq hx hd
/-- The law of a port's hold set speaks of its feed and its hold set only. -/
theorem PP.held.same {x y : PP} (h : x.held) (hf : y.feed = x.feed) (hh : y.hold = x.hold) : y.held := by
  unfold PP.held
  rw [hf, hh]
  exact h
@[simp] theorem calm_modPort_keep (p : Port) (f : PP → PP) (h : Calm K z s)
    (hd : (f (s.ports.get p)).digits = (s.ports.get p).digits) (hf : (f (s.ports.get p)).feed = (s.ports.get p).feed)
    (hh : (f (s.ports.get p)).hold = (s.ports.get p).hold) : Calm K z (s.modPort p f) :=
  calm_modPort p f h (by rw [hd]; exact id) fun _ x => x.same hf hh
@[simp] theorem calm_modCallRaw_keep (p : Port) (f : CallRec → CallRec) (h : Calm K z s)
    (h1 : (f (s.cc.recs.get p)).channel = (s.cc.recs.get p).channel)
    (h2 : (f (s.cc.recs.get p)).alertChannel = (s.cc.recs.get p).alertChannel) : Calm K z (s.modCallRaw p f) :=
  calm_modCallRaw p f h (by simp [CallRec.channels, h1, h2])

/-! ## Digit lists and feed of a port -/

@[simp] theorem PP.enter_digits (x : PP) (f : Feed) : (x.enter f).digits = x.digits := rfl
@[simp] theorem PP.discardTrain_digits (x : PP) : x.discardTrain.digits = x.digits := rfl
@[simp] theorem PP.clearHook_digits (x : PP) : x.clearHook.digits = x.digits := rfl
@[simp] theorem PP.leaveService_digits (x : PP) (f : Feed) : (x.leaveService f).digits = x.digits := rfl
@[simp] theorem PP.returnToService_digits (x : PP) : x.returnToService.digits = x.digits := rfl
@[simp] theorem PP.emptyDigits_digits (x : PP) : x.emptyDigits.digits = [] := rfl
@[simp] theorem PP.polarity_digits (x : PP) : x.polarity.digits = x.digits := by
  unfold PP.polarity; split <;> rfl

@[simp] theorem PP.enter_feed (x : PP) (f : Feed) : (x.enter f).feed = f := rfl
@[simp] theorem PP.enter_hold (x : PP) (f : Feed) : (x.enter f).hold = x.hold := rfl
@[simp] theorem PP.discardTrain_feed (x : PP) : x.discardTrain.feed = x.feed := rfl
@[simp] theorem PP.discardTrain_hold (x : PP) : x.discardTrain.hold = x.hold := rfl
@[simp] theorem PP.clearHook_feed (x : PP) : x.clearHook.feed = x.feed := rfl
@[simp] theorem PP.clearHook_hold (x : PP) : x.clearHook.hold = x.hold := rfl
@[simp] theorem PP.leaveService_feed (x : PP) (f : Feed) : (x.leaveService f).feed = f := rfl
@[simp] theorem PP.leaveService_hold (x : PP) (f : Feed) : (x.leaveService f).hold = x.hold := rfl
@[simp] theorem PP.emptyDigits_feed (x : PP) : x.emptyDigits.feed = x.feed := rfl
@[simp] theorem PP.emptyDigits_hold (x : PP) : x.emptyDigits.hold = x.hold := rfl

/-- The held states are no service states (R78). -/
theorem PortHold.feed_held (h : PortHold) : h.feed.inService = false := by
  unfold PortHold.feed
  repeat' split
  all_goals rfl

/-- A port in a service state has an empty hold set, and stays lawful in another service state (R78). -/
theorem PP.held.serve {x y : PP} (h : x.held) (hf : x.feed.inService = true) (hy : y.feed.inService = true)
    (hh : y.hold = x.hold) : y.held := by
  have he : x.hold.isEmpty = true := by
    cases hx : x.hold.isEmpty
    · have := h.1 hx
      rw [this, PortHold.feed_held] at hf
      exact absurd hf (by decide)
    · rfl
  refine ⟨fun hn => ?_, fun _ => hy⟩
  rw [hh, he] at hn
  exact absurd hn (by decide)

/-- A port's feed goes from one service state to another. -/
theorem calm_port_serve (p : Port) (f : PP → PP) (h : Calm K z s) (hs : (s.ports.get p).feed.inService = true)
    (hd : (s.ports.get p).digits.length ≤ 32 → (f (s.ports.get p)).digits.length ≤ 32)
    (hf : (f (s.ports.get p)).feed.inService = true) (hh : (f (s.ports.get p)).hold = (s.ports.get p).hold) :
    Calm K z (s.modPort p f) := calm_modPort p f h hd fun _ x => x.serve hs hf hh

/-- Any update of a port, its law standing open. -/
theorem calm_modPort_open (p : Port) (f : PP → PP) (h : Calm K z s)
    (hd : (f (s.ports.get p)).digits = (s.ports.get p).digits) (hk : ¬K (.port p)) : Calm K z (s.modPort p f) :=
  calm_modPort p f h (by rw [hd]; exact id) fun x => absurd x hk

/-- A port's law stood open, and its update establishes it. -/
theorem calm_modPort_close (p : Port) (f : PP → PP) (h : Calm (allBut K (.port p)) z s)
    (hd : (f (s.ports.get p)).digits = (s.ports.get p).digits) (hf : (f (s.ports.get p)).held) :
    Calm K z (s.modPort p f) :=
  (calm_modPort_open p f h hd fun hk => hk.2 rfl).close (by
    simpa only [State.heldOn, State.modPort_ports, perPort_get_set] using hf)

theorem Feed.talk_inService {f : Feed} (h : f.isTalk = true) : f.inService = true := by
  cases f <;> simp_all [Feed.isTalk, Feed.inService]
theorem Feed.ringing_inService {f : Feed} (h : f.isRinging = true) : f.inService = true := by
  cases f <;> simp_all [Feed.isRinging, Feed.inService]

@[simp] theorem PP.polarity_hold (x : PP) : x.polarity.hold = x.hold := by unfold PP.polarity; split <;> rfl
theorem PP.polarity_held {x : PP} (h : x.held) : x.polarity.held := by
  unfold PP.polarity
  split
  · rename_i hf _
    exact h.serve (by rw [hf]; rfl) rfl rfl
  · rename_i hf _
    exact h.serve (by rw [hf]; rfl) rfl rfl
  · exact h

@[simp] theorem PP.ite_digits (c : Prop) [Decidable c] (x y : PP) :
    (if c then x else y).digits = if c then x.digits else y.digits := by split <;> rfl

@[simp] theorem calm_port_discardTrain (p : Port) (h : Calm K z s) : Calm K z (s.modPort p PP.discardTrain) :=
  calm_modPort_keep _ _ h rfl rfl rfl

@[simp] theorem calm_ite (c : Prop) [Decidable c] {x y : State} (hx : c → Calm K z x) (hy : ¬c → Calm K z y) :
    Calm K z (if c then x else y) := by split <;> simp_all

end Sys2Proof.Machine
end

