-- ==== Sys2Proof/Laws/CalmSched.lean ====
section
/-!
SUPPORT. What the shared operations of the superframe scheduler and of the fault classes leave as it was (`Calm`).
-/

namespace Sys2Proof.Machine
variable {K : Side → Prop} {z s : State}
set_option linter.unusedSimpArgs false

/-- A message of no transaction joins the outbound queue where it finds room (R69). -/
theorem calm_place (w : Sender) (m : List Byte) (h : Calm K z s) (hw : ∀ n, w ≠ .send n)
    (hr : s.ss.answersFull = false) : Calm K z (s.modSs fun x => x.enqueue w m) :=
  calm_modSs _ h id (fun _ x => x.place w m hw hr) rfl rfl (.inl rfl)

@[simp] theorem calm_placeAnswer (t : Option FarType) (number : Byte) (positive : Bool) (msg : List Byte)
    (h : Calm K z s) : Calm K z (s.placeAnswer t number positive msg) := by
  unfold State.placeAnswer
  repeat' split
  · exact h
  · exact calm_modCounts _ h
  · rename_i hr
    exact calm_place _ _ h (by simp) (Bool.eq_false_iff.mpr hr)

@[simp] theorem calm_placeUnanswered (who : Sender) (msg : List Byte) (h : Calm K z s) (hw : ∀ n, who ≠ .send n) :
    Calm K z (s.placeUnanswered who msg).1 := by
  unfold State.placeUnanswered
  split
  · simp [h]
  · rename_i hr
    rw [Bool.or_eq_true, not_or] at hr
    exact calm_place _ _ h hw (Bool.eq_false_iff.mpr hr.2)

@[simp] theorem calm_answer (t : FarType) (number : Byte) (positive : Bool) (body : List Byte) (h : Calm K z s) : Calm K z (s.answer t number positive body) := by
  unfold State.answer
  try dsimp only
  repeat' split
  all_goals first | exact h | simp (maxDischargeDepth := 40) [h, Reset.call]

@[simp] theorem calm_answerAck (t : FarType) (number : Byte) (body : List Byte) (h : Calm K z s) : Calm K z (s.answerAck t number body) := by
  unfold State.answerAck
  try dsimp only
  all_goals first | exact h | simp (maxDischargeDepth := 40) [h, Reset.call]

@[simp] theorem calm_answerNak (t : FarType) (number : Byte) (c : NakCause) (h : Calm K z s) : Calm K z (s.answerNak t number c) := by
  unfold State.answerNak
  try dsimp only
  all_goals first | exact h | simp (maxDischargeDepth := 40) [h, Reset.call]

@[simp] theorem calm_granted (r : TxReq) (n : Nat) (h : Calm K z s) : Calm K z (s.granted r n) := by
  unfold State.granted
  try dsimp only
  repeat' split
  all_goals first | exact h | simp (maxDischargeDepth := 40) [h, Reset.call]

/-- A new entry joins the transaction list under a free number. -/
theorem SS.queueLaw.entry {x : SS} (h : x.queueLaw) (r : TxReq) (n sends : Nat) (hn : n < 16)
    (hf : ∀ t ∈ x.txs, t.number ≠ n) (i : Nat) :
    SS.queueLaw { x with
      txs := x.txs ++ [{ req := r, number := n, sends := sends, timeLeft := none }], nextNumber := i } := by
  obtain ⟨a, b, c, d, e, f⟩ := h
  refine ⟨?_, ?_, c, d, e, ?_⟩
  · intro t ht
    rcases List.mem_append.mp ht with ht | ht
    · exact a t ht
    · rw [List.mem_singleton.mp ht]; exact hn
  · simp only [List.map_append, List.map_cons, List.map_nil]
    rw [List.nodup_append]
    refine ⟨b, by simp, fun u hu v hv => ?_⟩
    rw [List.mem_singleton.mp hv]
    obtain ⟨t, ht, rfl⟩ := List.mem_map.mp hu
    exact hf t ht
  · intro u hu
    obtain ⟨t, h1, h2⟩ := f u hu
    exact ⟨t, List.mem_append_left _ h1, h2⟩

theorem calm_grant (r : TxReq) (h : Calm K z s) (hn : s.ss.txs.length < 8) : Calm K z (s.grant r) := by
  unfold State.grant
  obtain ⟨h16, hfree⟩ := s.ss.freeNumber_free hn
  refine calm_granted _ _ (calm_modSs _ h (fun _ => ?_) (fun _ x => ?_) rfl rfl (.inl rfl))
  · simp only [SS.enqueue_txs, List.length_append, List.length_cons, List.length_nil]
    omega
  · refine (x.entry r _ 1 h16 hfree _).send _ _ (fun hm => ?_) ⟨_, List.mem_append_right _ (List.mem_singleton_self _), rfl, rfl⟩
    obtain ⟨t, h1, h2, _⟩ := x.2.2.2.2.2 _ hm
    exact hfree t h1 h2

@[simp] theorem calm_requestTx (kind : TxKind) (port : Option Port) (body : List Byte) (tag : Nat) (h : Calm K z s) :
    Calm K z (s.requestTx kind port body tag) := by
  unfold State.requestTx
  dsimp only
  split
  · rename_i hc
    rw [Bool.and_eq_true, Bool.and_eq_true, decide_eq_true_eq] at hc
    exact calm_grant _ h hc.1.2
  · simp [h]

theorem calm_grantList (l : List TxReq) (h : Calm K z s) : Calm K z (grantList l s) := by
  induction l generalizing s with
  | nil => exact h
  | cons r rs ih =>
    unfold grantList
    split
    · rename_i hc
      rw [Bool.and_eq_true, decide_eq_true_eq] at hc
      exact ih (calm_grant _ h hc.2)
    · simp [h]

@[simp] theorem calm_grantWaiting (h : Calm K z s) : Calm K z s.grantWaiting :=
  calm_grantList _ (by simp [h])

@[simp] theorem calm_withdraw (p : TxReq → Bool) (h : Calm K z s) : Calm K z (s.withdraw p) := by
  unfold State.withdraw
  try dsimp only
  all_goals first | exact h | simp (maxDischargeDepth := 40) [h, Reset.call]

@[simp] theorem calm_freeEntry (n : Nat) (h : Calm K z s) : Calm K z (s.freeEntry n) := by
  refine calm_modSs _ h (fun x => Nat.le_trans (List.length_filter_le _ _) x) (fun _ x => ?_) rfl rfl (.inl rfl)
  refine x.drop _ _ rfl rfl fun m _ hm i hi t _ ht => ?_
  subst ht
  unfold OutMsg.unsent at hi
  split at hi
  · rename_i j hw
    split at hi
    · exact absurd hi (by simp)
    · rename_i hs
      simp only [Option.some.injEq] at hi
      subst hi
      simp only [hw, hs, Bool.not_eq_true', Bool.and_eq_false_iff, beq_eq_false_iff_ne, ne_eq, Sender.send.injEq] at hm
      simpa using hm
  · exact absurd hi (by simp)

@[simp] theorem calm_historyAdd (i : FaultId) (t : Transition) (v : Option Int) (h : Calm K z s) :
    Calm K z (s.historyAdd i t v) := by
  unfold State.historyAdd
  exact calm_raiseIf _ _ (calm_modFs _ h fun _ => by simp only [List.length_drop]; omega)

@[simp] theorem calm_faultMove (i : FaultId) (st : FaultState) (run : Option Policy) (retry : Timer) (t : Transition) (v : Option Int) (h : Calm K z s) : Calm K z (s.faultMove i st run retry t v) := by
  unfold State.faultMove
  try dsimp only
  all_goals first | exact h | simp (maxDischargeDepth := 40) [h, Reset.call]

@[simp] theorem calm_faultOccur (i : FaultId) (v : Option Int) (h : Calm K z s) : Calm K z (s.faultOccur i v) := by
  unfold State.faultOccur
  try dsimp only
  all_goals first | exact h | simp (maxDischargeDepth := 40) [h, Reset.call]

@[simp] theorem calm_faultEventCore (i : FaultId) (v : Option Int) (h : Calm K z s) : Calm K z (s.faultEventCore i v).1 := by
  unfold State.faultEventCore
  try dsimp only
  repeat' split
  all_goals first | exact h | simp (maxDischargeDepth := 40) [h, Reset.call]

@[simp] theorem calm_faultRaise (i : FaultId) (v : Option Int) (h : Calm K z s) : Calm K z (s.faultRaise i v).1 := by
  unfold State.faultRaise
  try dsimp only
  repeat' split
  all_goals first | exact h | simp (maxDischargeDepth := 40) [h, Reset.call]

@[simp] theorem calm_faultConditionCore (i : FaultId) (present : Bool) (v : Option Int) (h : Calm K z s) : Calm K z (s.faultConditionCore i present v).1 := by
  unfold State.faultConditionCore
  try dsimp only
  repeat' split
  all_goals first | exact h | simp (maxDischargeDepth := 40) [h, Reset.call]

@[simp] theorem calm_faultEvent (i : FaultId) (h : Calm K z s) : Calm K z (s.faultEvent i) := by
  unfold State.faultEvent
  try dsimp only
  all_goals first | exact h | simp (maxDischargeDepth := 40) [h, Reset.call]

@[simp] theorem calm_faultCondition (i : FaultId) (present : Bool) (v : Option Int) (h : Calm K z s) : Calm K z (s.faultCondition i present v) := by
  unfold State.faultCondition
  try dsimp only
  all_goals first | exact h | simp (maxDischargeDepth := 40) [h, Reset.call]

@[simp] theorem calm_linkLossRetraining (h : Calm K z s) : Calm K z (s.linkLossRetraining) := by
  unfold State.linkLossRetraining
  try dsimp only
  repeat' split
  all_goals first | exact h | simp (maxDischargeDepth := 40) [h, Reset.call]

@[simp] theorem calm_linkLossFailed (h : Calm K z s) : Calm K z (s.linkLossFailed) := by
  unfold State.linkLossFailed
  try dsimp only
  repeat' split
  all_goals first | exact h | simp (maxDischargeDepth := 40) [h, Reset.call]

@[simp] theorem calm_linkLossOver (h : Calm K z s) : Calm K z (s.linkLossOver) := by
  unfold State.linkLossOver
  try dsimp only
  repeat' split
  all_goals first | exact h | simp (maxDischargeDepth := 40) [h, Reset.call]

@[simp] theorem calm_voidEndReport (i : FaultId) (h : Calm K z s) : Calm K z (s.voidEndReport i) := by
  unfold State.voidEndReport
  try dsimp only
  repeat' split
  all_goals first | exact h | simp (maxDischargeDepth := 40) [h, Reset.call]

@[simp] theorem calm_faultClearCore (i : FaultId) (h : Calm K z s) : Calm K z (s.faultClearCore i).1 := by
  unfold State.faultClearCore
  try dsimp only
  repeat' split
  all_goals first | exact h | simp (maxDischargeDepth := 40) [h, Reset.call]

@[simp] theorem calm_refreshOwed (h : Calm K z s) : Calm K z s.refreshOwed := by
  unfold State.refreshOwed
  generalize allFaults = l
  induction l generalizing s with
  | nil => exact h
  | cons i l ih => exact ih (by dsimp only; split <;> simp [h])

@[simp] theorem calm_endReports (h : Calm K z s) : Calm K z (s.endReports) := by
  unfold State.endReports
  try dsimp only
  repeat' split
  all_goals first | exact h | simp (maxDischargeDepth := 40) [h, Reset.call]

@[simp] theorem calm_periodicBeacon (h : Calm K z s) : Calm K z (s.periodicBeacon) := by
  unfold State.periodicBeacon
  try dsimp only
  repeat' split
  all_goals first | exact h | simp (maxDischargeDepth := 40) [h, Reset.call]

@[simp] theorem calm_endCarried (i : FaultId) (h : Calm K z s) : Calm K z (s.endCarried i) := by
  unfold State.endCarried
  exact calm_modFs _ (by split <;> simp [h]) id

end Sys2Proof.Machine
end

