-- ==== Sys2Proof/Laws/CalmPort.lean ====
section
/-!
SUPPORT. What the shared operations of the tables, the ports and the calls leave as it was (`Calm`).
-/

namespace Sys2Proof.Machine
variable {K : Side → Prop} {z s : State}
set_option linter.unusedSimpArgs false

@[simp] theorem calm_setMaskInForce (mask : List Bool) (h : Calm K z s) : Calm K z (s.setMaskInForce mask) := by
  unfold State.setMaskInForce
  try dsimp only
  all_goals first | exact h | simp (maxDischargeDepth := 40) [h, Reset.call]

theorem calm_burstStart (p : Port) (pairs : Cadence) (n : Nat) (h : Calm K z s)
    (hf : (s.ports.get p).feed.inService = true) : Calm K z (s.burstStart p pairs n) :=
  calm_port_serve p _ h hf id rfl rfl

@[simp] theorem calm_ringIfDue (p : Port) (h : Calm K z s) : Calm K z (s.ringIfDue p) := by
  unfold State.ringIfDue
  dsimp only
  repeat' split
  · rename_i hc
    rw [Bool.and_eq_true, decide_eq_true_eq] at hc
    exact calm_burstStart _ _ _ h (by rw [show (s.ports.get p).feed = _ from hc.1]; rfl)
  all_goals exact h

@[simp] theorem calm_ringPort (p : Port) (c : Nat) (h : Calm K z s) : Calm K z (s.ringPort p c) := by
  unfold State.ringPort
  try dsimp only
  repeat' split
  all_goals first | exact h | simp (maxDischargeDepth := 40) [h, Reset.call]

@[simp] theorem calm_ringOff (p : Port) (h : Calm K z s) : Calm K z (s.ringOff p) := by
  unfold State.ringOff
  refine calm_modPort _ _ h (by dsimp only; split <;> exact id) fun _ x => ?_
  dsimp only
  split
  · rename_i hr
    exact x.serve (Feed.ringing_inService hr) rfl rfl
  · exact x

@[simp] theorem calm_inhibitRing (p : Port) (h : Calm K z s) : Calm K z (s.inhibitRing p) := by
  unfold State.inhibitRing
  refine calm_modPort _ _ (calm_raiseIf _ _ h) (by dsimp only; split <;> exact id) fun _ x => ?_
  dsimp only
  split
  · rename_i hr
    exact x.serve (Feed.ringing_inService hr) rfl rfl
  · exact x

@[simp] theorem calm_uninhibitRing (p : Port) (h : Calm K z s) : Calm K z (s.uninhibitRing p) := by
  unfold State.uninhibitRing
  try dsimp only
  all_goals first | exact h | simp (maxDischargeDepth := 40) [h, Reset.call]

@[simp] theorem calm_setWanted (p : Port) (w : Polarity) (h : Calm K z s) : Calm K z (s.setWanted p w) := by
  unfold State.setWanted
  refine calm_modPort _ _ h (by split <;> simp) fun _ x => ?_
  split
  · exact PP.polarity_held x
  · exact x

@[simp] theorem calm_setAudio (p : Port) (a : Audio) (t : Tone) (h : Calm K z s) : Calm K z (s.setAudio p a t) := by
  unfold State.setAudio
  try dsimp only
  all_goals first | exact h | simp (maxDischargeDepth := 40) [h, Reset.call]

@[simp] theorem calm_addDigit (p : Port) (d : Digit) (m : Method) (h : Calm K z s) : Calm K z (s.addDigit p d m).1 := by
  unfold State.addDigit
  dsimp only
  split
  · rename_i hl
    refine calm_raise _ (calm_modPort _ _ h (fun _ => ?_) fun _ x => x)
    simp only [State.port] at hl
    simp only [List.length_append, List.length_cons, List.length_nil]
    omega
  · simp [h]

@[simp] theorem calm_markDigits (p : Port) (which : Nat → Bool) (m : Mark) (h : Calm K z s) :
    Calm K z (s.markDigits p which m) :=
  calm_raiseIf _ _ (calm_modPort _ _ h (by simp [State.port]) fun _ x => x)

@[simp] theorem calm_nameAudio (p : Port) (h : Calm K z s) : Calm K z (s.nameAudio p) := by
  unfold State.nameAudio
  try dsimp only
  all_goals first | exact h | simp (maxDischargeDepth := 40) [h, Reset.call]

theorem calm_updCall (p : Port) (f : CallRec → CallRec) (h : Calm K z s)
    (hc : ∀ c ∈ (f (s.call p)).channels, c ∈ (s.call p).channels) : Calm K z (s.updCall p f) := by
  unfold State.updCall
  have hr := calm_raiseIf (decide ((s.call p).shown ≠ (f (s.call p)).shown)) (.call p) (calm_modCallRaw p f h hc)
  dsimp only
  split
  · exact hr
  · exact calm_nameAudio p hr

/-- An update that keeps both channels. -/
@[simp] theorem calm_updCall_keep (p : Port) (f : CallRec → CallRec) (h : Calm K z s)
    (h1 : (f (s.call p)).channel = (s.call p).channel) (h2 : (f (s.call p)).alertChannel = (s.call p).alertChannel) :
    Calm K z (s.updCall p f) := calm_updCall p f h (by simp [CallRec.channels, h1, h2])

/-- An update that leaves no channel. -/
@[simp] theorem calm_updCall_clear (p : Port) (f : CallRec → CallRec) (h : Calm K z s)
    (h1 : (f (s.call p)).channel = none) (h2 : (f (s.call p)).alertChannel = none) :
    Calm K z (s.updCall p f) := calm_updCall p f h (by simp [CallRec.channels, h1, h2])

/-- An update that gives up the call's channel. -/
@[simp] theorem calm_updCall_drop (p : Port) (f : CallRec → CallRec) (h : Calm K z s)
    (h1 : (f (s.call p)).channel = none) (h2 : (f (s.call p)).alertChannel = (s.call p).alertChannel) :
    Calm K z (s.updCall p f) := calm_updCall p f h (by
    simp only [CallRec.channels, h1, h2, List.mem_append]; simp; intro c hc; exact .inr hc)

/-- An update that turns the channel kept by the admission wait into the call's own. -/
@[simp] theorem calm_updCall_admit (p : Port) (f : CallRec → CallRec) (h : Calm K z s)
    (h1 : (f (s.call p)).channel = (s.call p).alertChannel) (h2 : (f (s.call p)).alertChannel = none) :
    Calm K z (s.updCall p f) := calm_updCall p f h (by
    simp only [CallRec.channels, h1, h2, List.mem_append]; simp; intro c hc; exact .inr hc)

@[simp] theorem calm_freeCall (p : Port) (cause : RelCause) (h : Calm K z s) : Calm K z (s.freeCall p cause) := by
  unfold State.freeCall
  try dsimp only
  all_goals first | exact h | simp (maxDischargeDepth := 40) [h, Reset.call]

@[simp] theorem calm_takeSerial (h : Calm K z s) : Calm K z (s.takeSerial).1 := by
  unfold State.takeSerial
  try dsimp only
  all_goals first | exact h | simp (maxDischargeDepth := 40) [h, Reset.call]

@[simp] theorem calm_reportN (h : Calm K z s) : Calm K z (s.reportN) := by
  unfold State.reportN
  try dsimp only
  repeat' split
  all_goals first | exact h | simp (maxDischargeDepth := 40) [h, Reset.call]

@[simp] theorem calm_callTx (p : Port) (kind : TxKind) (body : List Byte) (mark : CallTxs → CallTxs) (h : Calm K z s) : Calm K z (s.callTx p kind body mark) := by
  unfold State.callTx
  try dsimp only
  all_goals first | exact h | simp (maxDischargeDepth := 40) [h, Reset.call]

@[simp] theorem calm_requestSeize (p : Port) (c : Coding) (h : Calm K z s) : Calm K z (s.requestSeize p c) := by
  unfold State.requestSeize
  try dsimp only
  all_goals first | exact h | simp (maxDischargeDepth := 40) [h, Reset.call]

@[simp] theorem calm_releaseCall (p : Port) (cause : RelCause) (h : Calm K z s) : Calm K z (s.releaseCall p cause) := by
  unfold State.releaseCall
  try dsimp only
  all_goals first | exact h | simp (maxDischargeDepth := 40) [h, Reset.call]

@[simp] theorem calm_downgradeCall (p : Port) (h : Calm K z s) : Calm K z (s.downgradeCall p) := by
  unfold State.downgradeCall
  try dsimp only
  all_goals first | exact h | simp (maxDischargeDepth := 40) [h, Reset.call]

@[simp] theorem calm_applyPlan (p : Port) (plan : Plan) (h : Calm K z s) : Calm K z (s.applyPlan p plan) := by
  unfold State.applyPlan
  try dsimp only
  repeat' split
  all_goals first | exact h | simp (maxDischargeDepth := 40) [h, Reset.call]

@[simp] theorem calm_ringDecision (p : Port) (h : Calm K z s) : Calm K z (s.ringDecision p) := by
  unfold State.ringDecision
  try dsimp only
  repeat' split
  all_goals first | exact h | simp (maxDischargeDepth := 40) [h, Reset.call]

@[simp] theorem calm_decideAll (h : Calm K z s) : Calm K z (s.decideAll) := by
  unfold State.decideAll
  try dsimp only
  repeat' split
  all_goals first | exact h | simp (maxDischargeDepth := 40) [h, Reset.call]

@[simp] theorem calm_nakAlert (p : Port) (c : NakCause) (h : Calm K z s) : Calm K z (s.nakAlert p c) := by
  unfold State.nakAlert
  try dsimp only
  repeat' split
  all_goals first | exact h | simp (maxDischargeDepth := 40) [h, Reset.call]

@[simp] theorem calm_admitWaiting (p : Port) (h : Calm K z s) : Calm K z (s.admitWaiting p) := by
  unfold State.admitWaiting
  try dsimp only
  repeat' split
  all_goals first | exact h | simp (maxDischargeDepth := 40) [h, Reset.call]

@[simp] theorem calm_retest (p : Port) (h : Calm K z s) : Calm K z (s.retest p) := by
  unfold State.retest
  try dsimp only
  repeat' split
  all_goals first | exact h | simp (maxDischargeDepth := 40) [h, Reset.call]

@[simp] theorem calm_retestWaiting (h : Calm K z s) : Calm K z (s.retestWaiting) := by
  unfold State.retestWaiting
  try dsimp only
  repeat' split
  all_goals first | exact h | simp (maxDischargeDepth := 40) [h, Reset.call]

@[simp] theorem calm_evaluateCapacity (h : Calm K z s) : Calm K z s.evaluateCapacity := by
  have hd : ∀ (n : Nat) {s : State}, Calm K z s → Calm K z (State.downgradeOver n s) := by
    intro n
    induction n with
    | zero => exact fun h => h
    | succ n ih =>
      intro s h
      unfold State.downgradeOver
      split
      · exact h
      · split
        · exact ih (calm_downgradeCall _ h)
        · exact h
  have hr : ∀ (n : Nat) {s : State}, Calm K z s → Calm K z (State.releaseOver n s) := by
    intro n
    induction n with
    | zero => exact fun h => h
    | succ n ih =>
      intro s h
      unfold State.releaseOver
      split
      · exact h
      · split
        · exact ih (calm_faultEvent _ (calm_releaseCall _ _ h))
        · exact h
  unfold State.evaluateCapacity
  simp only [List.foldl]
  refine calm_retestWaiting (calm_modCc _ (hr 2 (hd 2 ?_)) rfl rfl)
  repeat' split
  all_goals simp [h]

@[simp] theorem calm_handPMin (h : Calm K z s) : Calm K z (s.handPMin) := by
  unfold State.handPMin
  try dsimp only
  all_goals first | exact h | simp (maxDischargeDepth := 40) [h, Reset.call]

@[simp] theorem calm_callOut (p : Port) (h : Calm K z s) : Calm K z (s.callOut p) := by
  unfold State.callOut
  try dsimp only
  repeat' split
  all_goals first | exact h | simp (maxDischargeDepth := 40) [h, Reset.call]

@[simp] theorem calm_endSeizing (p : Port) (cause : RelCause) (h : Calm K z s) : Calm K z (s.endSeizing p cause) := by
  unfold State.endSeizing
  try dsimp only
  repeat' split
  all_goals first | exact h | simp (maxDischargeDepth := 40) [h, Reset.call]

@[simp] theorem calm_startIntercom (x : Port) (h : Calm K z s) : Calm K z (s.startIntercom x) := by
  unfold State.startIntercom
  try dsimp only
  repeat' split
  all_goals first | exact h | simp (maxDischargeDepth := 40) [h, Reset.call]

@[simp] theorem calm_dialIntercom (p : Port) (h : Calm K z s) : Calm K z (s.dialIntercom p) := by
  unfold State.dialIntercom
  try dsimp only
  repeat' split
  all_goals first | exact h | simp (maxDischargeDepth := 40) [h, Reset.call]

@[simp] theorem calm_leaveIntercom (o : Port) (cause : RelCause) (h : Calm K z s) : Calm K z (s.leaveIntercom o cause) := by
  unfold State.leaveIntercom
  try dsimp only
  repeat' split
  all_goals first | exact h | simp (maxDischargeDepth := 40) [h, Reset.call]

@[simp] theorem calm_releaseDone (p : Port) (h : Calm K z s) : Calm K z (s.releaseDone p) := by
  unfold State.releaseDone
  try dsimp only
  repeat' split
  all_goals first | exact h | simp (maxDischargeDepth := 40) [h, Reset.call]

@[simp] theorem calm_endIntercom (p : Port) (cause : RelCause) (h : Calm K z s) : Calm K z (s.endIntercom p cause) := by
  unfold State.endIntercom
  try dsimp only
  repeat' split
  all_goals first | exact h | simp (maxDischargeDepth := 40) [h, Reset.call]

@[simp] theorem calm_portGone (p : Port) (cause : RelCause) (h : Calm K z s) : Calm K z (s.portGone p cause) := by
  unfold State.portGone
  try dsimp only
  repeat' split
  all_goals first | exact h | simp (maxDischargeDepth := 40) [h, Reset.call]

@[simp] theorem calm_linkGone (cause : RelCause) (p : Port) (h : Calm K z s) : Calm K z (s.linkGone cause p) := by
  unfold State.linkGone
  try dsimp only
  repeat' split
  all_goals first | exact h | simp (maxDischargeDepth := 40) [h, Reset.call]

@[simp] theorem calm_answerCall (p : Port) (h : Calm K z s) : Calm K z (s.answerCall p) := by
  unfold State.answerCall
  try dsimp only
  repeat' split
  all_goals first | exact h | simp (maxDischargeDepth := 40) [h, Reset.call]

@[simp] theorem calm_answerIntercom (y : Port) (h : Calm K z s) : Calm K z (s.answerIntercom y) := by
  unfold State.answerIntercom
  try dsimp only
  all_goals first | exact h | simp (maxDischargeDepth := 40) [h, Reset.call]

@[simp] theorem calm_ccOffHook (p : Port) (h : Calm K z s) : Calm K z (s.ccOffHook p) := by
  unfold State.ccOffHook
  try dsimp only
  repeat' split
  all_goals first | exact h | simp (maxDischargeDepth := 40) [h, Reset.call]

@[simp] theorem calm_ccOnHook (p : Port) (h : Calm K z s) : Calm K z (s.ccOnHook p) := by
  unfold State.ccOnHook
  try dsimp only
  repeat' split
  all_goals first | exact h | simp (maxDischargeDepth := 40) [h, Reset.call]

@[simp] theorem calm_ccDigit (p : Port) (h : Calm K z s) : Calm K z (s.ccDigit p) := by
  unfold State.ccDigit
  try dsimp only
  repeat' split
  all_goals first | exact h | simp (maxDischargeDepth := 40) [h, Reset.call]

@[simp] theorem calm_sendDigits (p : Port) (h : Calm K z s) : Calm K z (s.sendDigits p) := by
  unfold State.sendDigits
  try dsimp only
  repeat' split
  all_goals first | exact h | simp (maxDischargeDepth := 40) [h, Reset.call]

/-- The law of a port's hold set, open since a member joined, is established (R78). -/
theorem calm_portHeld (p : Port) (m : PortMember) (h : Calm (allBut K (.port p)) z s)
    (hn : (s.ports.get p).hold.isEmpty = false) : Calm K z (s.portHeld p m) := by
  have law : ∀ x : PP, x.feed = (s.ports.get p).hold.feed → x.hold = (s.ports.get p).hold → x.held := by
    intro x hf hh
    refine ⟨fun _ => by rw [hf, hh], fun he => ?_⟩
    rw [hh, hn] at he
    exact absurd he (by decide)
  unfold State.portHeld
  dsimp only
  repeat' split
  · exact calm_portGone _ _ (calm_modPort_close _ _ h rfl (law _ rfl rfl))
  · rename_i hf
    exact h.close (law _ hf rfl)
  · exact calm_modPort_close _ _ h rfl (law _ rfl rfl)

/-- The law of a port's hold set, open since a member left, is established (R78, R79). -/
theorem calm_portFreed (p : Port) (h : Calm (allBut K (.port p)) z s) : Calm K z (s.portFreed p) := by
  unfold State.portFreed
  dsimp only
  split
  · rename_i he
    have law : ∀ x : PP, x.feed.inService = true → x.hold = (s.ports.get p).hold → x.held := by
      intro x hf hh
      refine ⟨fun hn => ?_, fun _ => hf⟩
      rw [hh, show (s.ports.get p).hold.isEmpty = true from he] at hn
      exact absurd hn (by decide)
    split
    · rename_i hf
      exact h.close (law _ hf rfl)
    · exact calm_modPort_close _ _ h rfl (law _ rfl rfl)
  · rename_i he
    have law : ∀ x : PP, x.feed = (s.ports.get p).hold.feed → x.hold = (s.ports.get p).hold → x.held := by
      intro x hf hh
      refine ⟨fun _ => by rw [hf, hh], fun hx => ?_⟩
      rw [hh] at hx
      exact absurd hx he
    split
    · rename_i hf
      exact h.close (law _ hf rfl)
    · exact calm_modPort_close _ _ h rfl (law _ rfl rfl)

end Sys2Proof.Machine
end

