-- ==== Sys2Proof/Laws/CalmLine.lean ====
section
/-!
SUPPORT. What the shared operations of the tests, the gate, the line and the fault actions leave as it was (`Calm`).
-/

namespace Sys2Proof.Machine
variable {K : Side → Prop} {z s : State}
set_option linter.unusedSimpArgs false

@[simp] theorem calm_ownChannels (cs : List Chan) (v : Bool) (h : Calm K z s) : Calm K z (s.ownChannels cs v) := by
  unfold State.ownChannels
  try dsimp only
  all_goals first | exact h | simp (maxDischargeDepth := 40) [h, Reset.call]

@[simp] theorem calm_writeResult (c : CurrentTest) (o : Outcome) (cause : Option AbortCause) (vs : Option (List TestValue)) (h : Calm K z s) : Calm K z (s.writeResult c o cause vs) := by
  unfold State.writeResult
  try dsimp only
  repeat' split
  all_goals first | exact h | simp (maxDischargeDepth := 40) [h, Reset.call]

/-- The hold set from which a test takes its TEST away (R147, R148). -/
def CurrentTest.opens (c : CurrentTest) : Side → Prop
  | .line => c.kind = .lineInsulation
  | .port p => c.kind = .portLoop ∧ Target.port c.target = p

theorem calm_dropTestHold (c : CurrentTest) (h : Calm K z s) (hc : ∀ x, c.opens x → ¬K x) :
    Calm K z (s.dropTestHold c) := by
  unfold State.dropTestHold
  split
  · exact h
  · exact h
  · rename_i hk
    exact calm_raiseIf _ _ (calm_modLe_open _ h (hc .line hk))
  · rename_i hk
    exact calm_raiseIf _ _ (calm_modPort_open _ _ h rfl (hc (.port _) ⟨hk, rfl⟩))

@[simp] theorem calm_recordTest (c : CurrentTest) (o : Outcome) (cause : Option AbortCause) (vs : Option (List TestValue)) (h : Calm K z s) : Calm K z (s.recordTest c o cause vs) :=
  calm_writeResult _ _ _ _ (calm_ownChannels _ _ h)

theorem calm_endTest (c : CurrentTest) (h : Calm K z s) (hc : ∀ x, c.opens x → ¬K x) : Calm K z (s.endTest c) :=
  calm_raise _ (calm_modTu _ (calm_dropTestHold c h hc))

theorem calm_abortRaw (cause : AbortCause) (h : Calm K z s)
    (hc : ∀ c, s.tu.current = some c → ∀ x, c.opens x → ¬K x) : Calm K z (s.abortRaw cause) := by
  unfold State.abortRaw
  split
  · exact h
  · rename_i c e
    exact calm_endTest c (calm_recordTest _ _ _ _ h) (hc c e)

theorem calm_armedRaw (h : Calm K z s) (hk : ¬K .line) : Calm K z s.armedRaw := by
  unfold State.armedRaw
  repeat' split
  · exact calm_raise _ (calm_raise _ (calm_modLe_open _ (calm_modTu _ h) hk))
  · exact h
  · exact h

@[simp] theorem calm_ftUpd (f : FT → FT) (h : Calm K z s) : Calm K z (s.ftUpd f) := by
  unfold State.ftUpd
  try dsimp only
  all_goals first | exact h | simp (maxDischargeDepth := 40) [h, Reset.call]

@[simp] theorem calm_gateSetLaw (h : Calm K z s) : Calm K z (s.gateSetLaw) := by
  unfold State.gateSetLaw
  try dsimp only
  repeat' split
  all_goals first | exact h | simp (maxDischargeDepth := 40) [h, Reset.call]

@[simp] theorem calm_gateClearLaw (h : Calm K z s) : Calm K z (s.gateClearLaw) := by
  unfold State.gateClearLaw
  try dsimp only
  repeat' split
  all_goals first | exact h | simp (maxDischargeDepth := 40) [h, Reset.call]

@[simp] theorem calm_driftCheck (h : Calm K z s) : Calm K z (s.driftCheck) := by
  unfold State.driftCheck
  try dsimp only
  repeat' split
  all_goals first | exact h | simp (maxDischargeDepth := 40) [h, Reset.call]

@[simp] theorem calm_widthChanged (old : Nat) (h : Calm K z s) : Calm K z (s.widthChanged old) := by
  unfold State.widthChanged
  try dsimp only
  repeat' split
  all_goals first | exact h | simp (maxDischargeDepth := 40) [h, Reset.call]

/-! ## Link states -/

theorem State.setLink_le (s : State) (l : LinkState) :
    (s.setLink l).le = { s.le with link := l, phaseTimer := none, backoff := none, exchange := none } := by
  unfold State.setLink
  dsimp only
  repeat' split
  all_goals simp [State.ftUpd, State.setMaskInForce]

theorem calm_setLink (l : LinkState) (h : Calm K z s) (hk : ¬K .line) : Calm K z (s.setLink l) := by
  unfold State.setLink
  dsimp only
  repeat' split
  all_goals
    first
      | exact calm_raiseIf _ _ (calm_setMaskInForce _ (calm_ftUpd _ (calm_modLe_open _ h hk)))
      | exact calm_raiseIf _ _ (calm_setMaskInForce _ (calm_modLe_open _ h hk))
      | exact calm_raiseIf _ _ (calm_ftUpd _ (calm_modLe_open _ h hk))
      | exact calm_raiseIf _ _ (calm_modLe_open _ h hk)

/-- The line's law, open before, is established by the link state entered (R2, R3). -/
theorem calm_setLink_close (l : LinkState) (h : Calm (allBut K .line) z s)
    (h1 : s.le.hold.isEmpty = false → l = s.le.hold.state) (h2 : s.le.hold.isEmpty = true → l.driverOn = true) :
    Calm K z (s.setLink l) :=
  (calm_setLink l h fun hk => hk.2 rfl).close (by
    simp only [State.heldOn, LE.held, State.setLink_le]
    exact ⟨h1, h2⟩)

/-- A link whose driver runs under the line's law has an empty hold set, and may enter any such state. -/
theorem LE.held.train {x y : LE} (h : x.held) (hx : x.link.driverOn = true) (hy : y.link.driverOn = true)
    (hh : y.hold = x.hold) : y.held := by
  have he : x.hold.isEmpty = true := by
    cases e : x.hold.isEmpty
    · rw [h.1 e, LineHold.state] at hx
      split at hx <;> exact absurd hx (by decide)
    · rfl
  exact ⟨fun hn => absurd (hh ▸ hn) (by rw [he]; decide), fun _ => hy⟩

theorem calm_setLink_train (l : LinkState) (h : Calm K z s) (hs : s.le.link.driverOn = true)
    (hl : l.driverOn = true) : Calm K z (s.setLink l) :=
  (calm_setLink l (h.but .line) fun hk => hk.2 rfl).closeIf fun hk hz => by
    have := h.held .line hk hz
    simp only [State.heldOn, State.setLink_le] at this ⊢
    exact this.train hs hl rfl

theorem calm_enterQuiet_close (h : Calm (allBut K .line) z s) (he : s.le.hold.isEmpty = true) :
    Calm K z s.enterQuiet :=
  calm_modLe _ (calm_setLink_close _ h (fun hn => absurd hn (by rw [he]; decide)) fun _ => rfl) rfl rfl

theorem calm_enterQuiet_train (h : Calm K z s) (hs : s.le.link.driverOn = true) : Calm K z s.enterQuiet :=
  calm_modLe _ (calm_setLink_train _ h hs rfl) rfl rfl

theorem calm_enterRetrainWait_close (h : Calm (allBut K .line) z s) (he : s.le.hold.isEmpty = true) :
    Calm K z s.enterRetrainWait :=
  calm_modLe _ (calm_setLink_close _ h (fun hn => absurd hn (by rw [he]; decide)) fun _ => rfl) rfl rfl

theorem calm_enterRetrainWait_train (h : Calm K z s) (hs : s.le.link.driverOn = true) :
    Calm K z s.enterRetrainWait :=
  calm_modLe _ (calm_setLink_train _ h hs rfl) rfl rfl

@[simp] theorem calm_undelivered (tag : Nat) (h : Calm K z s) : Calm K z (s.undelivered tag) := by
  unfold State.undelivered
  try dsimp only
  repeat' split
  all_goals first | exact h | simp (maxDischargeDepth := 40) [h, Reset.call]

@[simp] theorem calm_flush (h : Calm K z s) : Calm K z s.flush := by
  have hu : ∀ (l : List TxReq) {s : State}, Calm K z s → Calm K z (l.foldl (fun s r => s.undelivered r.tag) s) := by
    intro l
    induction l with
    | nil => exact fun h => h
    | cons r l ih => exact fun h => ih (calm_undelivered _ h)
  unfold State.flush
  extract_lets reqs lost units s1 s2 s3
  have hf : Calm K z s1 :=
    calm_modSs _ h (fun _ => Nat.zero_le _) (fun _ _ => .empty rfl rfl) rfl rfl (.inr rfl)
  refine hu _ ?_
  show Calm K z (if _ then _ else _)
  split
  · refine calm_modSup _ ?_ rfl rfl
    show Calm K z (if _ then _ else _)
    split
    · exact calm_modFs _ hf id
    · exact hf
  · show Calm K z (if _ then _ else _)
    split
    · exact calm_modFs _ hf id
    · exact hf

/-- What leaving service does after the link has changed state. -/
theorem calm_leaveService_of (l : LinkState) (cause : RelCause) (h : Calm K z (s.armedRaw.setLink l)) :
    Calm K z (s.leaveService l cause) := by
  unfold State.leaveService
  simp (maxDischargeDepth := 40) [h]

theorem calm_leaveService (l : LinkState) (cause : RelCause) (h : Calm K z s) (hk : ¬K .line) :
    Calm K z (s.leaveService l cause) :=
  calm_leaveService_of l cause (calm_setLink l (calm_armedRaw h hk) hk)

/-- TEST joining a non-empty line hold set asks for no other state (R2). -/
theorem LineHold.state_test (h : LineHold) (hn : h.isEmpty = false) :
    (h.put .test true).isEmpty = false ∧ (h.put .test true).state = h.state := by
  rcases h with ⟨a, b, c, d, e, f⟩
  revert a b c d e f
  decide

theorem State.armedRaw_le (s : State) :
    s.armedRaw.le = s.le ∨ s.armedRaw.le = { s.le with hold := s.le.hold.put .test true } := by
  unfold State.armedRaw
  repeat' split
  all_goals simp

/-- A held line leaves service for the state its hold set requires (R2). -/
theorem calm_leaveService_close (cause : RelCause) (h : Calm (allBut K .line) z s) (hn : s.le.hold.isEmpty = false) :
    Calm K z (s.leaveService s.le.hold.state cause) := by
  have hs := s.le.hold.state_test hn
  refine calm_leaveService_of _ cause (calm_setLink_close _ (calm_armedRaw h fun hk => hk.2 rfl) ?_ ?_) <;>
    rcases s.armedRaw_le with e | e <;> rw [e] <;> simp_all

/-! ## The hold sets -/

/-- The line's law, open since a member joined or left, is established (R2, R3). -/
theorem calm_lineLaw (h : Calm (allBut K .line) z s) : Calm K z s.lineLaw := by
  unfold State.lineLaw
  dsimp only
  split
  · rename_i he
    split
    · rename_i hd
      exact h.close ⟨fun hn => absurd hn (by rw [he]; decide), fun _ => hd⟩
    · exact calm_enterQuiet_close h he
  · rename_i he
    have hn : s.le.hold.isEmpty = false := Bool.eq_false_iff.mpr he
    repeat' split
    · rename_i hl
      exact h.close ⟨fun _ => hl, fun hx => absurd hx he⟩
    · exact calm_leaveService_close _ h hn
    · exact calm_setLink_close _ h (fun _ => rfl) fun hx => absurd hx he

/-- The TEST that a LINE_INSULATION in RUNNING holds is the line's. -/
theorem State.insulating_opens (h : s.insulating = true) (c : CurrentTest) (hc : s.tu.current = some c) (x : Side)
    (hx : c.opens x) : x = .line := by
  have hk : c.kind = .lineInsulation := by
    simp only [State.insulating, State.testing, hc, Option.map_some, Option.getD_some, Bool.and_eq_true,
      beq_iff_eq] at h
    exact h.1
  cases x with
  | line => rfl
  | port p => exact absurd (hk.symm.trans hx.1) (by decide)

/-- The TEST that a port's PORT_LOOP holds is the port's. -/
theorem State.looping_opens {p : Port} (h : s.looping p = true) (c : CurrentTest) (hc : s.tu.current = some c)
    (x : Side) (hx : c.opens x) : x = .port p := by
  simp only [State.looping, State.testing, hc, Option.map_some, Option.getD_some, Bool.and_eq_true, beq_iff_eq] at h
  cases x with
  | line => exact absurd (h.1.symm.trans hx) (by decide)
  | port q => rw [← h.2, hx.2]

@[simp] theorem calm_lineHoldAdd (m : LineMember) (h : Calm K z s) : Calm K z (s.lineHoldAdd m) := by
  unfold State.lineHoldAdd
  extract_lets s1 s2
  split
  · exact h
  · have h1 : Calm (allBut K .line) z s1 := calm_raise _ (calm_modLe_open _ (h.but _) fun hk => hk.2 rfl)
    refine calm_lineLaw (calm_ite _ (fun hc => calm_abortRaw _ h1 fun c e x hx hk => hk.2 ?_) fun _ => h1)
    simp only [Bool.and_eq_true] at hc
    exact State.insulating_opens hc.2 c e x hx

@[simp] theorem calm_lineHoldRemove (m : LineMember) (h : Calm K z s) : Calm K z (s.lineHoldRemove m) := by
  unfold State.lineHoldRemove
  split
  · exact calm_lineLaw (calm_raise _ (calm_modLe_open _ (h.but _) fun hk => hk.2 rfl))
  · exact h

theorem State.granted_ports (s : State) (r : TxReq) (n : Nat) : (s.granted r n).ports = s.ports := by
  unfold State.granted
  repeat' split
  all_goals try rfl
  dsimp only
  split <;> rfl

theorem State.requestTx_ports (s : State) (kind : TxKind) (p : Option Port) (b : List Byte) (t : Nat) :
    (s.requestTx kind p b t).ports = s.ports := by
  unfold State.requestTx State.grant
  dsimp only
  split
  · rw [State.granted_ports, State.modSs_ports]
  · rfl

theorem State.recordTest_ports (s : State) (c : CurrentTest) (o : Outcome) (a : Option AbortCause)
    (v : Option (List TestValue)) : (s.recordTest c o a v).ports = s.ports := by
  unfold State.recordTest State.writeResult
  dsimp only
  split
  · rw [State.requestTx_ports]
    simp [State.withdraw, State.ownChannels]
  · simp [State.ownChannels]

/-- A port's hold set that a member other than TEST has joined stays non-empty when a test drops its TEST. -/
theorem State.abortRaw_hold (s : State) (cause : AbortCause) (p : Port)
    (hn : ((s.ports.get p).hold.put .test false).isEmpty = false) :
    ((s.abortRaw cause).ports.get p).hold.isEmpty = false := by
  have he : (s.ports.get p).hold.isEmpty = false := by
    have key : ∀ h : PortHold, (h.put .test false).isEmpty = false → h.isEmpty = false := by
      rintro ⟨a, b, c, d, e⟩
      revert a b c d e
      decide
    exact key _ hn
  have other : ∀ {q r : Port}, q ≠ r → r = q.other := by
    intro q r
    cases q <;> cases r <;> simp [Port.other]
  unfold State.abortRaw
  split
  · exact he
  · rename_i k _
    simp only [State.endTest, State.raise_ports, State.modTu_ports, State.dropTestHold]
    split
    · rw [State.recordTest_ports]; exact he
    · rw [State.recordTest_ports]; exact he
    · simp only [State.raiseIf_ports, State.modLe_ports, State.recordTest_ports]; exact he
    · simp only [State.raiseIf_ports, State.modPort_ports, State.recordTest_ports]
      by_cases e : Target.port k.target = p
      · rw [e, perPort_get_set]; exact hn
      · rw [other e, perPort_get_set_other, ← other e]; exact he

@[simp] theorem calm_portHoldAdd (p : Port) (m : PortMember) (h : Calm K z s) : Calm K z (s.portHoldAdd p m) := by
  unfold State.portHoldAdd
  extract_lets s1 s2
  split
  · exact h
  · have h1 : Calm (allBut K (.port p)) z s1 := calm_raise _ (calm_modPort_open _ _ (h.but _) rfl fun hk => hk.2 rfl)
    have e1 : (s1.ports.get p).hold = (s.ports.get p).hold.put m true := by
      show (((s.modPort p _).raise _).ports.get p).hold = _
      simp
    refine calm_portHeld _ _ (calm_ite _ (fun hc => calm_abortRaw _ h1 fun c e x hx hk => hk.2 ?_) fun _ => h1) ?_
    · simp only [Bool.and_eq_true] at hc
      exact State.looping_opens hc.2 c e x hx
    · show ((if _ then _ else _ : State).ports.get p).hold.isEmpty = false
      split
      · rename_i hc
        simp only [Bool.and_eq_true, bne_iff_ne] at hc
        refine State.abortRaw_hold _ _ _ ?_
        rw [e1]
        cases m <;> simp_all [PortHold.put, PortHold.isEmpty]
      · rw [e1]
        cases m <;> simp [PortHold.put, PortHold.isEmpty]

@[simp] theorem calm_portHoldRemove (p : Port) (m : PortMember) (h : Calm K z s) : Calm K z (s.portHoldRemove p m) := by
  unfold State.portHoldRemove
  split
  · exact calm_portFreed _ (calm_raise _ (calm_modPort_open _ _ (h.but _) rfl fun hk => hk.2 rfl))
  · exact h

/-- The target of a test just ended follows its hold set again (R147, R148). -/
theorem calm_afterTest (c : CurrentTest) (h : Calm (fun x => K x ∧ ¬c.opens x) z s) : Calm K z (s.afterTest c) := by
  unfold State.afterTest
  split
  · rename_i hk
    refine h.weaken fun x hx => ⟨hx, ?_⟩
    cases x <;> simp [CurrentTest.opens, hk]
  · rename_i hk
    refine calm_lineLaw (h.weaken fun x hx => ⟨hx.1, fun ho => ?_⟩)
    cases x with
    | line => exact hx.2 rfl
    | port q => exact absurd (hk.symm.trans ho.1) (by decide)
  · rename_i hk
    refine calm_portFreed _ (h.weaken fun x hx => ⟨hx.1, ?_⟩)
    cases x with
    | line => simp [CurrentTest.opens, hk]
    | port q => exact fun ho => hx.2 (by rw [ho.2])

@[simp] theorem calm_abortTest (cause : AbortCause) (h : Calm K z s) : Calm K z (s.abortTest cause) := by
  unfold State.abortTest
  split
  · exact h
  · rename_i c e
    refine calm_afterTest c (calm_abortRaw _ (h.weaken fun x hx => hx.1) fun d hd x hx hk => hk.2 ?_)
    rw [e, Option.some.injEq] at hd
    exact hd ▸ hx

@[simp] theorem calm_abortIf (f : CurrentTest → Bool) (cause : AbortCause) (h : Calm K z s) :
    Calm K z (s.abortIf f cause) := by
  unfold State.abortIf
  split
  · exact calm_abortTest _ h
  · exact h

@[simp] theorem calm_loss (c : LossCause) (h : Calm K z s) : Calm K z (s.loss c) := by
  unfold State.loss
  split
  · exact h
  · extract_lets p s1 s2 s3 waits s4
    have hk : ¬allBut K .line .line := fun hk => hk.2 rfl
    have h1 : Calm (allBut K .line) z s1 := calm_raise _ (calm_modLe _ (h.but _) rfl rfl)
    have h2 : Calm (allBut K .line) z s2 := calm_faultEventCore _ _ h1
    have h3 : Calm (allBut K .line) z s3 :=
      calm_ite _ (fun _ => calm_raiseIf _ _ (calm_modLe_open _ h2 hk)) (fun _ => h2)
    have h4 : Calm (allBut K .line) z s4 := calm_leaveService _ _ h3 hk
    split
    · rename_i hn
      rw [Bool.not_eq_true'] at hn
      exact calm_setLink_close _ h4 (fun _ => rfl) fun he => absurd he (by rw [hn]; decide)
    · rename_i hn
      have he : s4.le.hold.isEmpty = true := by simpa using hn
      split
      · exact calm_enterRetrainWait_close h4 he
      · exact calm_enterQuiet_close h4 he

@[simp] theorem calm_trainFail (present : Bool) (h : Calm K z s) : Calm K z (s.trainFail present) := by
  unfold State.trainFail
  try dsimp only
  repeat' split
  all_goals first | exact h | simp (maxDischargeDepth := 40) [h, Reset.call]

theorem calm_attemptFail (c : AttemptCause) (h : Calm K z s) (hs : s.le.link.driverOn = true) :
    Calm K z (s.attemptFail c) := by
  unfold State.attemptFail
  extract_lets n s1 s2
  have h1 : Calm K z s1 := calm_modLe _ h rfl rfl
  have h2 : Calm K z s2 := calm_raise _ (calm_linkLossFailed (calm_enterRetrainWait_train h1 hs))
  exact calm_ite _ (fun _ => calm_trainFail _ h2) fun _ => h2

@[simp] theorem calm_rateOut (r : RateReason) (bits : List Nat) (h : Calm K z s) : Calm K z (s.rateOut r bits) := by
  unfold State.rateOut
  try dsimp only
  repeat' split
  all_goals first | exact h | simp (maxDischargeDepth := 40) [h, Reset.call]

@[simp] theorem calm_oweRate (r : RateReason) (h : Calm K z s) : Calm K z (s.oweRate r) := by
  unfold State.oweRate
  try dsimp only
  repeat' split
  all_goals first | exact h | simp (maxDischargeDepth := 40) [h, Reset.call]

@[simp] theorem calm_changeEnded (r : ChangeResult) (h : Calm K z s) : Calm K z (s.changeEnded r) := by
  unfold State.changeEnded
  try dsimp only
  repeat' split
  all_goals first | exact h | simp (maxDischargeDepth := 40) [h, Reset.call]

@[simp] theorem calm_beginProfile (h : Calm K z s) : Calm K z (s.beginProfile) := by
  unfold State.beginProfile
  try dsimp only
  repeat' split
  all_goals first | exact h | simp (maxDischargeDepth := 40) [h, Reset.call]

@[simp] theorem calm_profileLaw (h : Calm K z s) : Calm K z (s.profileLaw) := by
  unfold State.profileLaw
  try dsimp only
  repeat' split
  all_goals first | exact h | simp (maxDischargeDepth := 40) [h, Reset.call]

@[simp] theorem calm_needLaw (h : Calm K z s) : Calm K z (s.needLaw) := by
  unfold State.needLaw
  try dsimp only
  repeat' split
  all_goals first | exact h | simp (maxDischargeDepth := 40) [h, Reset.call]

@[simp] theorem calm_setInForce (p : Profile) (h : Calm K z s) : Calm K z (s.setInForce p) := by
  unfold State.setInForce
  try dsimp only
  repeat' split
  all_goals first | exact h | simp (maxDischargeDepth := 40) [h, Reset.call]

theorem calm_profileInput (f : State → State) (h : Calm K z s) (hf : ∀ t, Calm K z t → Calm K z (f t)) :
    Calm K z (s.profileInput f) := by
  unfold State.profileInput
  dsimp only
  split
  · exact hf _ h
  · exact calm_profileLaw (calm_evaluateCapacity (calm_raise _ (hf _ h)))

@[simp] theorem calm_setThermal (on : Bool) (h : Calm K z s) : Calm K z (s.setThermal on) :=
  calm_profileInput _ h fun _ h => calm_modLe _ h rfl rfl

@[simp] theorem calm_applyAct (i : FaultId) (h : Calm K z s) : Calm K z (s.applyAct i) := by
  unfold State.applyAct
  try dsimp only
  repeat' split
  all_goals first | exact h | simp (maxDischargeDepth := 40) [h, Reset.call]

@[simp] theorem calm_liftAct (i : FaultId) (h : Calm K z s) : Calm K z (s.liftAct i) := by
  unfold State.liftAct
  try dsimp only
  repeat' split
  all_goals first | exact h | simp (maxDischargeDepth := 40) [h, Reset.call]

@[simp] theorem calm_act (r : State × Act) (i : FaultId) (h : Calm K z r.1) : Calm K z (State.act r i) := by
  unfold State.act
  split <;> simp [h]

@[simp] theorem calm_portEvent (i : FaultId) (v : Int) (h : Calm K z s) : Calm K z (s.portEvent i v) := by
  unfold State.portEvent
  try dsimp only
  all_goals first | exact h | simp (maxDischargeDepth := 40) [h, Reset.call]

@[simp] theorem calm_actCondition (i : FaultId) (present : Bool) (v : Int) (h : Calm K z s) : Calm K z (s.actCondition i present v) := by
  unfold State.actCondition
  try dsimp only
  all_goals first | exact h | simp (maxDischargeDepth := 40) [h, Reset.call]

@[simp] theorem calm_retryExpired (i : FaultId) (h : Calm K z s) : Calm K z (s.retryExpired i) := by
  unfold State.retryExpired
  try dsimp only
  all_goals first | exact h | simp (maxDischargeDepth := 40) [h, Reset.call]

@[simp] theorem calm_clearRecord (i : FaultId) (h : Calm K z s) : Calm K z (s.clearRecord i) := by
  unfold State.clearRecord
  try dsimp only
  all_goals first | exact h | simp (maxDischargeDepth := 40) [h, Reset.call]

@[simp] theorem calm_policyRaise (i : FaultId) (h : Calm K z s) : Calm K z (s.policyRaise i) := by
  unfold State.policyRaise
  try dsimp only
  repeat' split
  all_goals first | exact h | simp (maxDischargeDepth := 40) [h, Reset.call]

/-- The measuring source is applied exactly by an active test that is RUNNING, to its target (R146). -/
theorem measuringSource_eq_some (s : State) (t : Target) : s.measuringSource = some t ↔
    ∃ c, s.tu.current = some c ∧ c.phase = .running ∧ TestKind.isActive c.kind = true ∧ c.target = t := by
  unfold State.measuringSource
  cases s.tu.current <;> simp [and_assoc]

end Sys2Proof.Machine
end

