-- ==== Sys2Proof/Laws/CalmLink.lean ====
section
/-!
SUPPORT. What the shared operations of the link, the supply, the settings and the service leave as it was (`Calm`).
-/

namespace Sys2Proof.Machine
variable {K : Side → Prop} {z s : State}
set_option linter.unusedSimpArgs false

/-- The flow state moves; a closed link has all its cells free and stays at XON (R62, R66). -/
theorem calm_setXon (v : Bool) (h : Calm K z s) (hv : s.ss.upQueue = [] → s.ss.xon = true → v = true) :
    Calm K z (s.modSs fun x => { x with xon := v }) :=
  h.step (by
    constructor <;> first
      | rfl | exact .inl rfl | exact id | exact fun _ => id | (rintro (_ | _) _ <;> exact id) | skip
    rintro ⟨hp, hc⟩
    refine ⟨hp, fun ho => ?_⟩
    obtain ⟨a1, a2, a3, a4, a5, a6, a7, a8, a9, a10⟩ := hc ho
    exact ⟨a1, a2, a3, a4, a5, a6, a7, a8, hv a8 a9, a10⟩)

@[simp] theorem calm_flowLaw (h : Calm K z s) : Calm K z s.flowLaw := by
  unfold State.flowLaw
  repeat' split
  · rename_i hc
    refine calm_raise _ (calm_setXon _ h fun hq _ => ?_)
    simp [SS.free, hq, Config.upQueueCells] at hc
  · exact calm_raise _ (calm_setXon _ h fun _ _ => rfl)
  · exact h

@[simp] theorem calm_frameErr (e : FrameErr) (h : Calm K z s) : Calm K z (s.frameErr e) :=
  calm_raise _ (h.step (by
    constructor <;> first | rfl | exact .inl rfl | exact id | exact fun _ => id | (rintro (_ | _) _ <;> exact id)))

@[simp] theorem calm_shedPort (p : Port) (h : Calm K z s) : Calm K z (s.shedPort p) := by
  unfold State.shedPort
  try dsimp only
  repeat' split
  all_goals first | exact h | simp (maxDischargeDepth := 40) [h, Reset.call]

@[simp] theorem calm_shedLaw (h : Calm K z s) : Calm K z (s.shedLaw) := by
  unfold State.shedLaw
  try dsimp only
  all_goals first | exact h | simp (maxDischargeDepth := 40) [h, Reset.call]

@[simp] theorem calm_retestRing (p : Port) (h : Calm K z s) : Calm K z (s.retestRing p) := by
  unfold State.retestRing
  try dsimp only
  repeat' split
  all_goals first | exact h | simp (maxDischargeDepth := 40) [h, Reset.call]

@[simp] theorem calm_testsByMode (m : SupplyMode) (h : Calm K z s) : Calm K z (s.testsByMode m) := by
  unfold State.testsByMode
  try dsimp only
  repeat' split
  all_goals first | exact h | simp (maxDischargeDepth := 40) [h, Reset.call]

@[simp] theorem calm_powerLoss (left : SupplyMode) (h : Calm K z s) : Calm K z (s.powerLoss left) := by
  unfold State.powerLoss
  try dsimp only
  repeat' split
  all_goals first | exact h | simp (maxDischargeDepth := 40) [h, Reset.call]

@[simp] theorem calm_debounced (k : Handed) (h : Calm K z s) : Calm K z (s.debounced k) := by
  unfold State.debounced
  exact calm_modSup _ h rfl rfl

@[simp] theorem calm_setBatteryFault (v : Bool) (h : Calm K z s) : Calm K z (s.setBatteryFault v) := by
  unfold State.setBatteryFault
  try dsimp only
  all_goals first | exact h | simp (maxDischargeDepth := 40) [h, Reset.call]

@[simp] theorem calm_applyLinkEnable (h : Calm K z s) : Calm K z (s.applyLinkEnable) := by
  unfold State.applyLinkEnable
  try dsimp only
  repeat' split
  all_goals first | exact h | simp (maxDischargeDepth := 40) [h, Reset.call]

@[simp] theorem calm_applyPortEnable (p : Port) (h : Calm K z s) : Calm K z (s.applyPortEnable p) := by
  unfold State.applyPortEnable
  try dsimp only
  repeat' split
  all_goals first | exact h | simp (maxDischargeDepth := 40) [h, Reset.call]

@[simp] theorem calm_restartLine (h : Calm K z s) : Calm K z s.restartLine := by
  unfold State.restartLine
  extract_lets s1 s2 s3 s4 s5 s6
  have hk : ¬allBut K .line .line := fun hk => hk.2 rfl
  have h1 : Calm (allBut K .line) z s1 := calm_ite _ (fun _ => calm_leaveService _ _ (h.but _) hk) (fun _ => h.but _)
  have h2 : Calm (allBut K .line) z s2 :=
    calm_ite _ (fun hc => calm_abortRaw _ h1 fun c e x hx hl => hl.2 (by
      simp only [State.testing, e, Option.map_some, Option.getD_some, bne_iff_ne, ne_eq] at hc
      cases x with
      | line => rfl
      | port q => exact absurd hx.1 hc)) (fun _ => h1)
  have h5 : Calm (allBut K .line) z s5 := calm_trainFail _ (calm_ftUpd _ (calm_modLe _ h2 rfl rfl))
  exact calm_modTt _ (calm_ite _ (fun he => calm_enterQuiet_close h5 he)
    (fun he => calm_setLink_close _ h5 (fun _ => rfl) fun hx => absurd hx he))

@[simp] theorem calm_restartPort (p : Port) (h : Calm K z s) : Calm K z (s.restartPort p) := by
  refine calm_raiseIf _ _ (calm_modPort _ _ h ?_ fun _ x => ?_)
  · unfold PP.restart
    dsimp only
    split <;> exact fun _ => Nat.zero_le _
  · unfold PP.restart
    dsimp only
    split
    · rename_i he
      exact ⟨fun hn => absurd he (Bool.eq_false_iff.mp hn), fun _ => rfl⟩
    · exact x.same rfl rfl

@[simp] theorem calm_restartPorts (h : Calm K z s) : Calm K z (s.restartPorts) := by
  unfold State.restartPorts
  try dsimp only
  all_goals first | exact h | simp (maxDischargeDepth := 40) [h, Reset.call]

@[simp] theorem calm_releaseForTest (p : Port) (h : Calm K z s) : Calm K z (s.releaseForTest p) := by
  unfold State.releaseForTest
  try dsimp only
  repeat' split
  all_goals first | exact h | simp (maxDischargeDepth := 40) [h, Reset.call]

@[simp] theorem calm_startTest (k : TestKind) (t : Target) (r : Requester) (priority : Bool) (n : Option Byte) (h : Calm K z s) : Calm K z (s.startTest k t r priority n) := by
  unfold State.startTest
  try dsimp only
  repeat' split
  all_goals first | exact h | simp (maxDischargeDepth := 40) [h, Reset.call]

theorem calm_enterExchange (d u : List Nat) (h : Calm K z s) (hs : s.le.link.driverOn = true) :
    Calm K z (s.enterExchange d u) := by
  have h1 : Calm K z (s.setLink .exchange) := calm_setLink_train _ h hs rfl
  unfold State.enterExchange
  dsimp only
  split
  · exact calm_attemptFail _ h1 (by rw [State.setLink_le]; rfl)
  · exact calm_modTt _ (calm_modLe _ h1 rfl rfl)

theorem calm_enterService (x : Exchange) (up : List Nat) (accepted : Bool) (h : Calm K z s)
    (hs : s.le.link.driverOn = true) : Calm K z (s.enterService x up accepted) := by
  unfold State.enterService
  exact calm_handPMin (calm_grantWaiting (calm_trainFail _ (calm_linkLossOver (calm_ftUpd _ (calm_setInForce _
    (calm_modLe _ (calm_modTt _ (calm_setLink_train _ h hs rfl)) rfl rfl))))))

@[simp] theorem calm_newBurst (c : Sym) (gated : Bool) (h : Calm K z s) : Calm K z (s.newBurst c gated) := by
  unfold State.newBurst
  try dsimp only
  repeat' split
  all_goals first | exact h | simp (maxDischargeDepth := 40) [h, Reset.call]

@[simp] theorem LE.probeSymbol_link (x : LE) (i : SymbolIn) (hit : Bool) : (x.probeSymbol i hit).link = x.link := by
  unfold LE.probeSymbol
  dsimp only
  split <;> rfl
@[simp] theorem LE.probeSymbol_hold (x : LE) (i : SymbolIn) (hit : Bool) : (x.probeSymbol i hit).hold = x.hold := by
  unfold LE.probeSymbol
  dsimp only
  split <;> rfl
@[simp] theorem calm_lineSymbol (i : SymbolIn) (c : Sym) (hit gated : Bool) (h : Calm K z s) :
    Calm K z (s.lineSymbol i c hit gated) := by
  unfold State.lineSymbol
  split
  · refine calm_modLe _ h ?_ ?_ <;> split <;> simp
  · dsimp only
    have h1 : Calm K z (if gated = true then s else
        s.modLe fun x => x.lossCounts i ((c - s.le.sfStart).toNat % 40 == 0)) :=
      calm_ite _ (fun _ => h) fun _ => calm_modLe _ h rfl rfl
    exact calm_ite _ (fun _ => calm_modTt _ h1) fun _ => h1
  · exact h

@[simp] theorem calm_symbol (i : SymbolIn) (h : Calm K z s) : Calm K z (s.symbol i) := by
  unfold State.symbol
  extract_lets c s1 e gated hit s2 opens s3 s4 s5 s6
  have h3 : Calm K z s3 := calm_modFt _ (calm_modFt _ (calm_modFt _ h))
  have h4 : Calm K z s4 := calm_ite _ (fun _ => calm_newBurst _ _ h3) fun _ => h3
  exact calm_modLe _ (calm_modFt _ (calm_lineSymbol _ _ _ _ h4)) rfl rfl

@[simp] theorem calm_proposeSwap (d r : Nat) (h : Calm K z s) : Calm K z (s.proposeSwap d r) := by
  unfold State.proposeSwap
  try dsimp only
  all_goals first | exact h | simp (maxDischargeDepth := 40) [h, Reset.call]

@[simp] theorem calm_evaluate (h : Calm K z s) : Calm K z (s.evaluate) := by
  unfold State.evaluate
  try dsimp only
  repeat' split
  all_goals first | exact h | simp (maxDischargeDepth := 40) [h, Reset.call]

@[simp] theorem calm_needMet (h : Calm K z s) : Calm K z (s.needMet) := by
  unfold State.needMet
  try dsimp only
  repeat' split
  all_goals first | exact h | simp (maxDischargeDepth := 40) [h, Reset.call]

@[simp] theorem calm_applyRate (m : RateMsg) (h : Calm K z s) : Calm K z (s.applyRate m) := by
  unfold State.applyRate
  try dsimp only
  repeat' split
  all_goals first | exact h | simp (maxDischargeDepth := 40) [h, Reset.call]

@[simp] theorem calm_applyUp (u : UpChange) (h : Calm K z s) : Calm K z (s.applyUp u) := by
  unfold State.applyUp
  dsimp only
  refine calm_needMet (calm_handPMin ?_)
  repeat' split
  · exact calm_setInForce _ (calm_modLe _ (calm_modTt _ h) rfl rfl)
  · exact calm_modTt _ h
  · exact calm_modTt _ h

end Sys2Proof.Machine
end

