-- ==== Sys2Proof/Laws/CalmFrames.lean ====
section
/-!
SUPPORT. What the shared operations of the owner, the messages, the superframes, the ports and the supply leave as it was (`Calm`).
-/

namespace Sys2Proof.Machine
variable {K : Side → Prop} {z s : State}
set_option linter.unusedSimpArgs false

@[simp] theorem calm_seizeRefused (p : Port) (cause : RelCause) (h : Calm K z s) : Calm K z (s.seizeRefused p cause) := by
  unfold State.seizeRefused
  try dsimp only
  repeat' split
  all_goals first | exact h | simp (maxDischargeDepth := 40) [h, Reset.call]

/-- An update that takes a channel the other record does not hold (R99). -/
theorem calm_updCall_take (p : Port) (ch : Nat) (f : CallRec → CallRec) (h : Calm K z s)
    (hf : s.channelTaken p ch = false)
    (hc : ∀ c ∈ (f (s.call p)).channels, c = ch ∨ c ∈ (s.call p).channels) : Calm K z (s.updCall p f) := by
  have hraw : Calm K s (s.modCallRaw p f) := by
    simp only [State.channelTaken, Bool.or_eq_false_iff, beq_eq_false_iff_ne, ne_eq] at hf
    have ho : ch ∉ (s.call p.other).channels := by
      simp only [CallRec.channels, List.mem_append, Option.mem_toList, not_or]
      exact hf
    cases p <;> constructor <;> first
      | rfl
      | exact .inl rfl
      | exact id
      | exact fun _ => id
      | (rintro (_ | _) _ <;> exact id)
      | (intro x c h1 h2
         rcases hc c h1 with rfl | h1
         · exact ho h2
         · exact x c h1 h2)
      | (intro x c h1 h2
         rcases hc c h2 with rfl | h2
         · exact ho h1
         · exact x c h1 h2)
  have hr := calm_raiseIf (decide ((s.call p).shown ≠ (f (s.call p)).shown)) (.call p) (h.step hraw)
  unfold State.updCall
  dsimp only
  split
  · exact hr
  · exact calm_nameAudio p hr

theorem State.faultEvent_cc (s : State) (i : FaultId) : (s.faultEvent i).cc = s.cc := by
  unfold State.faultEvent State.faultEventCore
  dsimp only
  repeat' split
  all_goals simp [State.faultMove, State.faultOccur, State.historyAdd]

@[simp] theorem calm_seizeAcked (p : Port) (ch : Nat) (coding : Enum Coding) (h : Calm K z s) :
    Calm K z (s.seizeAcked p ch coding) := by
  have take : ∀ {t : State} (f : CallRec → CallRec), Calm K z t → t.channelTaken p ch = false →
      (f (t.call p)).channel = some ch → (f (t.call p)).alertChannel = (t.call p).alertChannel →
      Calm K z (t.updCall p f) := by
    intro t f ht hf h1 h2
    refine calm_updCall_take p ch f ht hf ?_
    intro c hc
    simp only [CallRec.channels, h1, h2, List.mem_append, Option.mem_toList, Option.mem_def,
      Option.some.injEq] at hc ⊢
    rcases hc with rfl | hc
    · exact .inl rfl
    · exact .inr (.inr hc)
  unfold State.seizeAcked
  dsimp only
  split
  · split
    · rename_i hfree
      simp only [Bool.and_eq_true, Bool.not_eq_true'] at hfree
      split
      · exact calm_evaluateCapacity (take _ h hfree.2 rfl rfl)
      · exact calm_releaseCall _ _ (take _ h hfree.2 rfl rfl)
    · simp [h]
  · split
    · rename_i hfree
      simp only [Bool.and_eq_true, Bool.not_eq_true'] at hfree
      refine calm_releaseCall _ _ (take _ (calm_faultEvent _ h) ?_ rfl rfl)
      simpa [State.channelTaken, State.call, State.faultEvent_cc] using hfree.2
    · simp [h]

@[simp] theorem calm_seizeEnded (p : Port) (e : TxEnd) (h : Calm K z s) : Calm K z (s.seizeEnded p e) := by
  unfold State.seizeEnded
  try dsimp only
  repeat' split
  all_goals first | exact h | simp (maxDischargeDepth := 40) [h, Reset.call]

@[simp] theorem calm_releaseEnded (p : Port) (h : Calm K z s) : Calm K z (s.releaseEnded p) := by
  unfold State.releaseEnded
  try dsimp only
  repeat' split
  all_goals first | exact h | simp (maxDischargeDepth := 40) [h, Reset.call]

@[simp] theorem calm_answerEnded (p : Port) (e : TxEnd) (h : Calm K z s) : Calm K z (s.answerEnded p e) := by
  unfold State.answerEnded
  try dsimp only
  repeat' split
  all_goals first | exact h | simp (maxDischargeDepth := 40) [h, Reset.call]

@[simp] theorem calm_digitEnded (p : Port) (e : TxEnd) (h : Calm K z s) : Calm K z (s.digitEnded p e) := by
  unfold State.digitEnded
  try dsimp only
  repeat' split
  all_goals first | exact h | simp (maxDischargeDepth := 40) [h, Reset.call]

@[simp] theorem calm_codingEnded (p : Port) (e : TxEnd) (h : Calm K z s) : Calm K z (s.codingEnded p e) := by
  unfold State.codingEnded
  try dsimp only
  repeat' split
  all_goals first | exact h | simp (maxDischargeDepth := 40) [h, Reset.call]

@[simp] theorem calm_callTxEnded (k : TxKind) (p : Port) (tag : Nat) (e : TxEnd) (h : Calm K z s) : Calm K z (s.callTxEnded k p tag e) := by
  unfold State.callTxEnded
  try dsimp only
  repeat' split
  all_goals first | exact h | simp (maxDischargeDepth := 40) [h, Reset.call]

@[simp] theorem calm_swapEnded (n : Nat) (e : TxEnd) (h : Calm K z s) : Calm K z (s.swapEnded n e) := by
  unfold State.swapEnded
  try dsimp only
  repeat' split
  all_goals first | exact h | simp (maxDischargeDepth := 40) [h, Reset.call]

@[simp] theorem calm_rateEnded (n : Nat) (e : TxEnd) (h : Calm K z s) : Calm K z (s.rateEnded n e) := by
  unfold State.rateEnded
  try dsimp only
  repeat' split
  all_goals first | exact h | simp (maxDischargeDepth := 40) [h, Reset.call]

@[simp] theorem calm_profileEnded (tag : Nat) (e : TxEnd) (h : Calm K z s) : Calm K z (s.profileEnded tag e) := by
  unfold State.profileEnded
  try dsimp only
  repeat' split
  all_goals first | exact h | simp (maxDischargeDepth := 40) [h, Reset.call]

@[simp] theorem calm_gateSetEnded (e : TxEnd) (h : Calm K z s) : Calm K z (s.gateSetEnded e) := by
  unfold State.gateSetEnded
  try dsimp only
  repeat' split
  all_goals first | exact h | simp (maxDischargeDepth := 40) [h, Reset.call]

@[simp] theorem calm_gateClearEnded (e : TxEnd) (h : Calm K z s) : Calm K z (s.gateClearEnded e) := by
  unfold State.gateClearEnded
  try dsimp only
  repeat' split
  all_goals first | exact h | simp (maxDischargeDepth := 40) [h, Reset.call]

@[simp] theorem calm_reportEnded (tag : Nat) (e : TxEnd) (h : Calm K z s) : Calm K z (s.reportEnded tag e) := by
  unfold State.reportEnded
  try dsimp only
  repeat' split
  all_goals first | exact h | simp (maxDischargeDepth := 40) [h, Reset.call]

@[simp] theorem calm_txEnded (q : TxReq) (n : Nat) (e : TxEnd) (h : Calm K z s) : Calm K z (s.txEnded q n e) := by
  unfold State.txEnded
  try dsimp only
  repeat' split
  all_goals first | exact h | simp (maxDischargeDepth := 40) [h, Reset.call]

@[simp] theorem calm_endTx (t : Tx) (e : TxEnd) (h : Calm K z s) : Calm K z (s.endTx t e) := by
  unfold State.endTx
  try dsimp only
  all_goals first | exact h | simp (maxDischargeDepth := 40) [h, Reset.call]

@[simp] theorem calm_failTx (t : Tx) (h : Calm K z s) : Calm K z (s.failTx t) := by
  unfold State.failTx
  try dsimp only
  all_goals first | exact h | simp (maxDischargeDepth := 40) [h, Reset.call]

/-- A timeout's resend: the entry counts a send more, and its message joins the queue (R71). -/
theorem SS.queueLaw.resend {x : SS} (h : x.queueLaw) {t : Tx} (n : Nat) (m : List Byte) (ht : t ∈ x.txs)
    (hn : t.number = n) (hl : t.timeLeft ≠ none) :
    SS.queueLaw (SS.enqueue
      { x with txs := x.txs.map fun u => if u.number = n then { u with sends := u.sends + 1, timeLeft := none } else u }
      (.send n) m) := by
  have base : SS.queueLaw
      { x with txs := x.txs.map fun u => if u.number = n then { u with sends := u.sends + 1, timeLeft := none } else u } :=
    h.retime _ rfl rfl (fun u => by split <;> rfl) fun u _ _ h => by split <;> simp [h]
  refine base.send n m (fun hm => ?_) ?_
  · obtain ⟨u, h1, h2, h3⟩ := h.2.2.2.2.2 n hm
    exact hl (h.entry_unique ht h1 (hn.trans h2.symm) ▸ h3)
  · exact ⟨_, List.mem_map_of_mem ht, by simp [hn], by simp [hn]⟩

@[simp] theorem calm_txTimeout (n : Nat) (h : Calm K z s) : Calm K z (s.txTimeout n) := by
  unfold State.txTimeout
  split
  · exact h
  · rename_i t ht
    repeat' split
    · exact h
    · rename_i hl _
      refine calm_modSs _ h (by simp) (fun _ x => ?_) rfl rfl (.inl rfl)
      refine x.resend n _ (List.mem_of_find?_eq_some ht) (by simpa using List.find?_some ht) ?_
      simpa using hl
    · exact calm_failTx _ h

theorem calm_receive (m : Msg) (f : State → State) (h : Calm K z s) (hf : ∀ t, Calm K z t → Calm K z (f t)) :
    Calm K z (s.receive m f) := by
  unfold State.receive
  dsimp only
  repeat' split
  · exact h
  · exact hf _ (calm_modCounts _ h)
  · simp [h]

@[simp] theorem calm_plainNak (n : Byte) (c : NakCause) (h : Calm K z s) : Calm K z (s.plainNak n c) := by
  unfold State.plainNak
  try dsimp only
  all_goals first | exact h | simp (maxDischargeDepth := 40) [h, Reset.call]

theorem calm_fresh (t : FarType) (n : Byte) (f : State → State) (h : Calm K z s) (hf : ∀ t, Calm K z t → Calm K z (f t)) :
    Calm K z (s.fresh t n f) := by
  unfold State.fresh
  dsimp only
  repeat' split
  · simp [h]
  · exact h
  · exact h
  · exact hf _ (by simp [h])

theorem calm_farRequest {α : Type} (t : FarType) (m : Msg) (layout : List Byte → Option α) (act : State → α → State)
    (h : Calm K z s) (hf : ∀ t a, Calm K z t → Calm K z (act t a)) : Calm K z (s.farRequest t m layout act) := by
  refine calm_receive m _ h fun t ht => ?_
  split
  · exact calm_faultEvent _ (calm_modCounts _ (calm_plainNak _ _ ht))
  · exact calm_fresh _ _ _ ht fun t ht => hf t _ ht

theorem calm_answerTo (m : Msg) (f : State → Tx → State) (h : Calm K z s) (hf : ∀ t x, Calm K z t → Calm K z (f t x)) :
    Calm K z (s.answerTo m f) := by
  refine calm_receive m _ h fun t ht => ?_
  split
  · simp [ht]
  · exact hf _ _ ht

@[simp] theorem calm_ackMsg (m : Msg) (h : Calm K z s) : Calm K z (s.ackMsg m) :=
  calm_answerTo _ _ h fun t x ht => by split <;> simp [ht]

@[simp] theorem calm_nakMsg (m : Msg) (h : Calm K z s) : Calm K z (s.nakMsg m) :=
  calm_answerTo _ _ h fun t x ht => by simp [ht]

@[simp] theorem calm_unknownMsg (m : Msg) (h : Calm K z s) : Calm K z (s.unknownMsg m) :=
  calm_receive _ _ h fun _ ht => calm_modCounts _ (calm_plainNak _ _ ht)

@[simp] theorem calm_retrainMsg (m : Msg) (h : Calm K z s) : Calm K z (s.retrainMsg m) :=
  calm_farRequest _ _ _ _ h fun _ _ ht => calm_modLe _ (calm_answerAck _ _ _ ht) rfl rfl

@[simp] theorem calm_upTableMsg (m : Msg) (h : Calm K z s) : Calm K z (s.upTableMsg m) :=
  calm_farRequest _ _ _ _ h fun t a ht => by
    try dsimp only
    repeat' split
    all_goals simp (maxDischargeDepth := 40) [ht]

theorem calm_admitAlert (n : Byte) (p : Port) (ch : Nat) (caller : Option (List Digit)) (h : Calm K z s)
    (hf : s.channelTaken p ch = false) : Calm K z (s.admitAlert n p ch caller) := by
  have hs : Calm K z s.takeSerial.1 := calm_takeSerial h
  have hf' : s.takeSerial.1.channelTaken p ch = false := hf
  unfold State.admitAlert
  split
  · simp [h]
  · refine calm_evaluateCapacity (calm_ringDecision _ (calm_answerAck _ _ _ (calm_updCall_take p ch _ hs hf' ?_)))
    intro c hc
    simp [CallRec.channels, Reset.call] at hc
    exact .inl hc
  · refine calm_updCall_take p ch _ hs hf' ?_
    intro c hc
    simp [CallRec.channels, Reset.call] at hc
    exact .inl hc

theorem State.granted_cc (s : State) (r : TxReq) (n : Nat) : (s.granted r n).cc = s.cc := by
  unfold State.granted
  repeat' split
  all_goals try rfl
  dsimp only
  split <;> rfl

theorem State.requestTx_cc (s : State) (k : TxKind) (p : Option Port) (b : List Byte) (t : Nat) :
    (s.requestTx k p b t).cc = s.cc := by
  unfold State.requestTx State.grant
  dsimp only
  split
  · rw [State.granted_cc]; rfl
  · rfl

/-- Aborting a PORT_LOOP touches no call record. -/
theorem State.abortTest_cc (s : State) (c : AbortCause) (h : (s.testing fun x => x.kind == .portLoop) = true) :
    (s.abortTest c).cc = s.cc := by
  unfold State.abortTest
  split
  · rfl
  · rename_i k hk
    have hkind : k.kind = .portLoop := by
      simpa [State.testing, hk] using h
    have hp : ∀ (t : State) (p : Port), (t.portFreed p).cc = t.cc := by
      intro t p
      unfold State.portFreed
      dsimp only
      repeat' split
      all_goals rfl
    have hw : ∀ (t : State) o a v, (t.writeResult k o a v).cc = t.cc := by
      intro t o a v
      unfold State.writeResult
      dsimp only
      split
      · rw [State.requestTx_cc]; split <;> rfl
      · rfl
    have hd : ∀ t : State, (t.dropTestHold k).cc = t.cc := by
      intro t
      unfold State.dropTestHold
      split <;> simp
    have ha : (s.abortRaw c).cc = s.cc := by
      unfold State.abortRaw
      rw [hk]
      unfold State.endTest State.recordTest
      simp only [State.raise_cc, State.modTu_cc, hd, hw]
      rfl
    unfold State.afterTest
    rw [hkind]
    simp only
    rw [hp, ha]

@[simp] theorem calm_alertMsg (m : Msg) (h : Calm K z s) : Calm K z (s.alertMsg m) :=
  calm_farRequest _ _ _ _ h fun t a ht => by
    try dsimp only
    split
    · simp [ht]
    · rename_i p _
      split
      · simp [ht]
      · rename_i hfree
        have hf : t.channelTaken p a.channel = false := by
          cases hx : t.channelTaken p a.channel
          · rfl
          · exact absurd (.inr hx) hfree
        split
        · simp [ht]
        · split
          · exact calm_admitAlert _ _ _ _ ht hf
          · split
            · rename_i hl
              refine calm_admitAlert _ _ _ _ (calm_abortTest _ ht) ?_
              have hk : (t.testing fun x => x.kind == .portLoop) = true := by
                simp only [State.hostLoop, Bool.and_eq_true] at hl
                have := hl.1.2
                simp only [State.looping, State.testing] at this ⊢
                cases hc : t.tu.current <;> simp_all
              simpa [State.channelTaken, State.call, State.abortTest_cc t .alert hk] using hf
            · simp [ht]

@[simp] theorem calm_farClear (p : Port) (ch : Nat) (h : Calm K z s) : Calm K z (s.farClear p ch) := by
  unfold State.farClear
  try dsimp only
  repeat' split
  all_goals first | exact h | simp (maxDischargeDepth := 40) [h, Reset.call]

@[simp] theorem calm_clearMsg (m : Msg) (h : Calm K z s) : Calm K z (s.clearMsg m) :=
  calm_farRequest _ _ _ _ h fun t a ht => by
    try dsimp only
    repeat' split
    all_goals simp (maxDischargeDepth := 40) [ht]

@[simp] theorem calm_farAnswered (p : Port) (ch : Nat) (h : Calm K z s) : Calm K z (s.farAnswered p ch) := by
  unfold State.farAnswered
  try dsimp only
  repeat' split
  all_goals first | exact h | simp (maxDischargeDepth := 40) [h, Reset.call]

@[simp] theorem calm_answeredMsg (m : Msg) (h : Calm K z s) : Calm K z (s.answeredMsg m) :=
  calm_farRequest _ _ _ _ h fun t a ht => by
    try dsimp only
    repeat' split
    all_goals simp (maxDischargeDepth := 40) [ht]

@[simp] theorem calm_operatorStart (n : Byte) (k : TestKind) (t : Target) (priority : Bool) (h : Calm K z s) : Calm K z (s.operatorStart n k t priority) := by
  unfold State.operatorStart
  try dsimp only
  repeat' split
  all_goals first | exact h | simp (maxDischargeDepth := 40) [h, Reset.call]

@[simp] theorem calm_testReqMsg (m : Msg) (h : Calm K z s) : Calm K z (s.testReqMsg m) :=
  calm_farRequest _ _ _ _ h fun t a ht => by
    try dsimp only
    repeat' split
    all_goals simp (maxDischargeDepth := 40) [ht]

@[simp] theorem calm_beaconClearMsg (m : Msg) (h : Calm K z s) : Calm K z (s.beaconClearMsg m) :=
  calm_farRequest _ _ _ _ h fun t a ht => by
    try dsimp only
    repeat' split
    all_goals simp (maxDischargeDepth := 40) [ht]

@[simp] theorem calm_takeMessage (unit : List Byte) (h : Calm K z s) : Calm K z (s.takeMessage unit) := by
  unfold State.takeMessage
  dsimp only
  repeat' split
  all_goals first
    | exact calm_receive _ _ h fun _ ht => ht
    | simp [h]

@[simp] theorem calm_carried (w : Sender) (h : Calm K z s) : Calm K z (s.carried w) := by
  unfold State.carried
  repeat' split
  all_goals first
    | exact h
    | exact calm_lineLaw (calm_armedRaw (h.but _) fun hk => hk.2 rfl)
    | simp [h]
    | skip
  rename_i n hq
  refine calm_modSs _ h (by simp) (fun _ x => ?_) rfl rfl (.inl rfl)
  refine x.retime (fun t => if t.number = n then { t with timeLeft := some Config.answerMs } else t) rfl rfl
    (fun t => by split <;> rfl) fun t _ hu hl => ?_
  obtain ⟨m, hm, e⟩ := List.mem_filterMap.mp hu
  split
  · rename_i hn
    refine absurd (List.any_eq_true.mpr ⟨m, hm, ?_⟩) hq
    rw [OutMsg.who_of_unsent e, hn]
    exact beq_self_eq_true _
  · exact hl

@[simp] theorem calm_placeMgmt (h : Calm K z s) : Calm K z s.placeMgmt.1 := by
  unfold State.placeMgmt
  split
  · exact h
  · rename_i m t hq
    extract_lets s1
    have h1 : Calm K z s1 := calm_modCounts _ h
    have hq1 : s1.ss.outQueue = m :: t := hq
    split
    · dsimp only
      refine calm_modSs _ h1 id (fun _ x => ?_) rfl rfl (.inl rfl)
      exact x.head hq1 (u := [_]) rfl (.inr ⟨_, rfl, rfl, rfl⟩) rfl
    · refine calm_carried _ (calm_modSs _ h1 id (fun _ x => ?_) rfl rfl (.inl rfl))
      exact x.head hq1 (u := []) rfl (.inl rfl) rfl

@[simp] theorem calm_dropForCheck (h : Calm K z s) : Calm K z (s.dropForCheck) := by
  unfold State.dropForCheck
  try dsimp only
  repeat' split
  all_goals first | exact h | simp (maxDischargeDepth := 40) [h, Reset.call]

@[simp] theorem calm_noRoomDown (h : Calm K z s) : Calm K z (s.noRoomDown) := by
  unfold State.noRoomDown
  try dsimp only
  all_goals first | exact h | simp (maxDischargeDepth := 40) [h, Reset.call]

@[simp] theorem calm_keepMgmt (c : Cell) (p : Partial) (h : Calm K z s) : Calm K z (s.keepMgmt c p) := by
  unfold State.keepMgmt
  try dsimp only
  repeat' split
  all_goals first | exact h | simp (maxDischargeDepth := 40) [h, Reset.call]

@[simp] theorem calm_mgmtCell (c : Cell) (h : Calm K z s) : Calm K z (s.mgmtCell c) := by
  unfold State.mgmtCell
  try dsimp only
  repeat' split
  all_goals first | exact h | simp (maxDischargeDepth := 40) [h, Reset.call]

@[simp] theorem calm_endTrain (p : Port) (h : Calm K z s) : Calm K z (s.endTrain p) := by
  unfold State.endTrain
  try dsimp only
  repeat' split
  all_goals first | exact h | simp (maxDischargeDepth := 40) [h, Reset.call]

@[simp] theorem calm_endBreak (p : Port) (l : Nat) (h : Calm K z s) : Calm K z (s.endBreak p l) := by
  unfold State.endBreak
  try dsimp only
  repeat' split
  all_goals first | exact h | simp (maxDischargeDepth := 40) [h, Reset.call]

@[simp] theorem calm_hookUnblanked (p : Port) (t loop : Nat) (h : Calm K z s) : Calm K z (s.hookUnblanked p t loop) := by
  unfold State.hookUnblanked
  try dsimp only
  repeat' split
  all_goals first | exact h | simp (maxDischargeDepth := 40) [h, Reset.call]

@[simp] theorem PP.overcurrentSample_digits (x : PP) (l : Nat) : (x.overcurrentSample l).digits = x.digits := by
  unfold PP.overcurrentSample
  dsimp only
  repeat' split
  all_goals rfl

@[simp] theorem PP.overloadSample_digits (x : PP) (l : Nat) : (x.overloadSample l).digits = x.digits := by
  unfold PP.overloadSample
  split <;> rfl

@[simp] theorem PP.overcurrentSample_feed (x : PP) (l : Nat) :
    (x.overcurrentSample l).feed = x.feed ∧ (x.overcurrentSample l).hold = x.hold := by
  unfold PP.overcurrentSample
  dsimp only
  repeat' split
  all_goals exact ⟨rfl, rfl⟩

@[simp] theorem PP.overloadSample_feed (x : PP) (l : Nat) :
    (x.overloadSample l).feed = x.feed ∧ (x.overloadSample l).hold = x.hold := by
  unfold PP.overloadSample
  split <;> exact ⟨rfl, rfl⟩

@[simp] theorem calm_hookSample (p : Port) (loop ring : Nat) (h : Calm K z s) : Calm K z (s.hookSample p loop ring) := by
  have h1 : Calm K z (s.modPort p fun x => ((x.passMs).overcurrentSample loop).overloadSample ring) :=
    calm_modPort_keep _ _ h (by simp [PP.passMs]) (by simp [PP.passMs]) (by simp [PP.passMs])
  unfold State.hookSample
  dsimp only
  split
  · exact calm_hookUnblanked _ _ _ h1
  · exact h1

theorem calm_lift (p : Port) (trip : Bool) (h : Calm K z s) (hf : (s.ports.get p).feed.inService = true) :
    Calm K z (s.lift p trip) :=
  calm_ccOffHook _ (calm_raise _ (calm_port_serve p _ h hf (fun _ => Nat.zero_le _) rfl rfl))

@[simp] theorem calm_thermalOne (i : FaultId) (v on off : Int) (h : Calm K z s) : Calm K z (s.thermalOne i v on off) := by
  unfold State.thermalOne
  try dsimp only
  all_goals first | exact h | simp (maxDischargeDepth := 40) [h, Reset.call]

@[simp] theorem calm_thermal (v : Option Int) (h : Calm K z s) : Calm K z (s.thermal v) := by
  unfold State.thermal
  try dsimp only
  repeat' split
  all_goals first | exact h | simp (maxDischargeDepth := 40) [h, Reset.call]

@[simp] theorem calm_foreign (tip ring : Option Int) (h : Calm K z s) : Calm K z (s.foreign tip ring) := by
  unfold State.foreign
  try dsimp only
  all_goals first | exact h | simp (maxDischargeDepth := 40) [h, Reset.call]

@[simp] theorem calm_reportLeakage (k : TestKind) (fails : Bool) (vs : List Int) (h : Calm K z s) : Calm K z (s.reportLeakage k fails vs) := by
  unfold State.reportLeakage
  try dsimp only
  repeat' split
  all_goals first | exact h | simp (maxDischargeDepth := 40) [h, Reset.call]

@[simp] theorem calm_finishTest (c : CurrentTest) (h : Calm K z s) : Calm K z (s.finishTest c) := by
  refine calm_afterTest c (calm_endTest c (calm_reportLeakage _ _ _ (calm_recordTest _ _ _ _ ?_)) fun x hx hk => hk.2 hx)
  exact h.weaken fun x hx => hx.1

end Sys2Proof.Machine
end

