-- ==== Sys2Proof/Laws/Kept.lean ====
section
/-!
SUPPORT. What every shared operation keeps: the command queue, the limits of the lists, the laws of the hold sets, the
outbound queue, the pool, the pending notices and the processor link, the voice channels apart and the law of host power
as it stands inside a step (`Kept`); and what the end of a step restores (`settle_safe`, `live_safe`).
-/

namespace Sys2Proof.Machine
set_option linter.unusedSimpArgs false

/-- The law of host power as it stands inside a step (R136). -/
abbrev State.midPower (s : State) : Prop :=
  (s.sup.procPwr = false → s.cc.custody = .part)
  ∧ (s.sup.mode = .mains ∨ s.sup.mode = .battery → s.sup.procPwr = true)
  ∧ (s.sup.mode = .start ∨ s.sup.mode = .depleted → s.sup.procPwr = false)

theorem State.hostPowered.mid {s : State} (h : s.hostPowered) : s.midPower := by
  obtain ⟨h1, h2⟩ := h
  refine ⟨h2, fun x => h1.2 ?_, fun x => ?_⟩
  · rcases x with x | x <;> simp [x]
  · cases hp : s.sup.procPwr
    · rfl
    · rcases x with x | x <;> simp [x] at h1 <;> simp_all

/-- What every operation keeps but the law of host power: the queue of commands, and with it the limits and the laws. -/
structure Base (z s : State) : Prop where
  pending : s.pending = z.pending
  bounded : z.bounded → s.bounded
  apart : z.channelsApart → s.channelsApart
  held : ∀ x, z.heldOn x → s.heldOn x
  queue : z.bounded → z.ss.queueLaw → s.ss.queueLaw
  pool : z.poolLaw → s.poolLaw
  notices : z.plk.notices.Nodup → s.plk.notices.Nodup
  shut : z.linkLaw → s.linkLaw

/-- What every operation keeps. -/
structure Kept (z s : State) : Prop extends Base z s where
  power : z.midPower → s.midPower

variable {z s t : State}

@[simp] theorem Base.refl (z : State) : Base z z := ⟨rfl, id, id, fun _ => id, fun _ => id, id, id, id⟩

@[simp] theorem Kept.refl (z : State) : Kept z z := ⟨.refl z, id⟩

theorem Base.step (h : Base z s) (k : Base s t) : Base z t :=
  ⟨k.pending.trans h.pending, fun x => k.bounded (h.bounded x), fun x => k.apart (h.apart x),
    fun x y => k.held x (h.held x y), fun x y => k.queue (h.bounded x) (h.queue x y), fun x => k.pool (h.pool x),
    fun x => k.notices (h.notices x), fun x => k.shut (h.shut x)⟩

theorem Kept.step (h : Kept z s) (k : Kept s t) : Kept z t := ⟨h.toBase.step k.toBase, fun x => k.power (h.power x)⟩

/-- All three hold sets are asked about. -/
abbrev allSides : Side → Prop := fun _ => True

theorem Calm.base (h : Calm allSides z s) : Base z s where
  pending := h.pending
  bounded := fun ⟨a, b, c, d, e, f, g⟩ =>
    ⟨h.history a, by rw [h.requests]; exact b, by rw [h.busy]; exact c, h.txs d, by rw [h.upQueue]; exact e,
      h.digitsA f, h.digitsB g⟩
  apart := h.apart
  held := fun x => h.held x trivial
  queue := fun x => h.queue x.2.2.2.1
  pool := fun ⟨a, b⟩ => by
    unfold State.poolLaw State.poolUsed at *
    rw [h.dataDown]
    rcases h.dataPartial with e | e <;> rw [e]
    · exact ⟨a, b⟩
    · exact ⟨Nat.le_trans (Nat.add_le_add_right (Nat.zero_le _) _) a, by simp⟩
  notices := h.notices
  shut := h.shut

theorem Calm.kept (h : Calm allSides z s) : Kept z s :=
  ⟨h.base, fun x => by simpa only [State.midPower, h.procPwr, h.mode, h.custody] using x⟩

theorem Kept.calm (h : Kept z s) (k : Calm allSides s t) : Kept z t := h.step k.kept

/-! ## Updates -/

@[simp] theorem kept_modSettings (f : Settings → Settings) (h : Kept z s) : Kept z (s.modSettings f) :=
  h.step ⟨⟨rfl, id, id, by rintro (_ | _) <;> exact id, fun _ => id, id, id, id⟩, id⟩
@[simp] theorem kept_modSts (f : STS → STS) (h : Kept z s) : Kept z (s.modSts f) :=
  h.step ⟨⟨rfl, id, id, by rintro (_ | _) <;> exact id, fun _ => id, id, id, id⟩, id⟩
@[simp] theorem kept_modMu (f : MU → MU) (h : Kept z s) : Kept z (s.modMu f) :=
  h.step ⟨⟨rfl, id, id, by rintro (_ | _) <;> exact id, fun _ => id, id, id, id⟩, id⟩
@[simp] theorem kept_modTt (f : Tables → Tables) (h : Kept z s) : Kept z (s.modTt f) := h.calm (calm_modTt _ (.refl _ _))
@[simp] theorem kept_raise (n : Notice) (h : Kept z s) : Kept z (s.raise n) := h.calm (calm_raise _ (.refl _ _))
@[simp] theorem kept_raiseIf (c : Bool) (n : Notice) (h : Kept z s) : Kept z (s.raiseIf c n) :=
  h.calm (calm_raiseIf _ _ (.refl _ _))

/-- What a closed link holds (R176). -/
abbrev PLK.shut (k : PLK) : Prop :=
  k.rx = .hunt ∧ k.rxBytes = [] ∧ k.requests = [] ∧ k.busy = [] ∧ k.notices = [] ∧ k.dataDown = [] ∧ k.frame = none

/-- An update of the link that adds to none of its lists and leaves a closed link empty. -/
theorem kept_modPlk (f : PLK → PLK) (h : Kept z s)
    (hr : (f s.plk).requests.length ≤ s.plk.requests.length) (hb : (f s.plk).busy.length ≤ s.plk.busy.length)
    (hd : ((f s.plk).dataDown.map fun u => ceilDiv u.length 60).sum
      ≤ (s.plk.dataDown.map fun u => ceilDiv u.length 60).sum)
    (hn : (f s.plk).notices.Sublist s.plk.notices) (ho : (f s.plk).isOpen = s.plk.isOpen)
    (hs : s.plk.isOpen = false → s.plk.shut → (f s.plk).shut) : Kept z (s.modPlk f) :=
  h.step
    ⟨⟨rfl, fun ⟨a, b, c, d⟩ => ⟨a, Nat.le_trans hr b, Nat.le_trans hb c, d⟩, id, by rintro (_ | _) <;> exact id,
      fun _ => id, fun ⟨a, b⟩ => ⟨Nat.le_trans (Nat.add_le_add_left hd _) a, b⟩, fun x => x.sublist hn,
      fun ⟨a, b⟩ => ⟨ho.trans a, fun e => by
        have e' : s.plk.isOpen = false := ho.symm.trans e
        obtain ⟨a1, a2, a3, a4, a5, a6, a7, a8, a9, a10⟩ := b e'
        obtain ⟨b1, b2, b3, b4, b5, b6, b7⟩ := hs e' ⟨a1, a2, a3, a4, a5, a6, a7⟩
        exact ⟨b1, b2, b3, b4, b5, b6, b7, a8, a9, a10⟩⟩⟩, id⟩

/-! ## The processor link -/

theorem attachTo_length (r : Reply) (l : List ReqEntry) : (attachTo r l).length = l.length := by
  induction l with
  | nil => rfl
  | cons e t ih => unfold attachTo; split <;> simp [ih]

theorem markExecuting_length (l : List ReqEntry) : (markExecuting l).length = l.length := by
  induction l with
  | nil => rfl
  | cons e t ih => unfold markExecuting; split <;> simp [ih]

@[simp] theorem kept_reply (a : Answer) (h : Kept z s) : Kept z (s.reply a) := by
  unfold State.reply
  split
  · exact h
  · rename_i e he
    refine kept_modPlk _ h (by simp [attachTo_length]) (Nat.le_refl _) (Nat.le_refl _) (.refl _) rfl fun _ hs => ?_
    rw [PLK.front, hs.2.2.1] at he
    exact absurd he (by simp)

@[simp] theorem kept_hold (h : Kept z s) : Kept z s.hold := by
  refine kept_modPlk _ h (by simp [markExecuting_length]) (Nat.le_refl _) (Nat.le_refl _) (.refl _) rfl fun _ hs => ?_
  obtain ⟨b1, b2, b3, b⟩ := hs
  exact ⟨b1, b2, by rw [b3]; rfl, b⟩

@[simp] theorem kept_writeReply (a : Answer) (h : Kept z s) : Kept z (s.writeReply a) := by
  unfold State.writeReply
  repeat' split
  all_goals simp [h]

@[simp] theorem kept_frameErr (e : FrameErr) (h : Kept z s) : Kept z (s.frameErr e) :=
  h.calm (calm_frameErr _ (.refl _ _))

theorem kept_takeRequest (tag : Byte) (body : List Byte) (h : Kept z s) (ho : s.plk.isOpen = true) :
    Kept z (s.takeRequest tag body) := by
  have hs : ∀ f : PLK → PLK, (f s.plk).isOpen = s.plk.isOpen → s.linkLaw → (s.modPlk f).linkLaw := fun f hf x =>
    ⟨hf.trans x.1, fun e => absurd (hf.symm.trans e) (by rw [ho]; decide)⟩
  unfold State.takeRequest
  split
  · refine h.step ⟨⟨rfl, fun ⟨a, b, c, d⟩ => ⟨a, ?_, c, d⟩, id, by rintro (_ | _) <;> exact id, fun _ => id, id, id,
      hs _ rfl⟩, id⟩
    simp only [State.modPlk_plk, List.length_append, List.length_cons, List.length_nil]; omega
  · split
    · refine h.step ⟨⟨rfl, fun ⟨a, b, c, d⟩ => ⟨a, b, ?_, d⟩, id, by rintro (_ | _) <;> exact id, fun _ => id, id, id,
        hs _ rfl⟩, id⟩
      simp only [State.modPlk_plk, List.length_append, List.length_cons, List.length_nil]; omega
    · exact kept_frameErr _ h

theorem cutCells_length (seq : Nat) : ∀ (k i : Nat) (l : List Byte), l ≠ [] → (cutCells seq k i l).length ≤ ceilDiv l.length 60 := by
  intro k
  induction k with
  | zero => exact fun _ _ _ => Nat.zero_le _
  | succ k ih =>
    intro i l hl
    have hpos : 0 < l.length := List.length_pos_iff.mpr hl
    unfold cutCells
    dsimp only
    split
    · simp only [List.length_cons, List.length_nil, ceilDiv]; omega
    · rename_i hr
      have hne : l.drop 60 ≠ [] := by simpa using hr
      have := ih (i + 1) (l.drop 60) hne
      have hlen : 0 < (l.drop 60).length := List.length_pos_iff.mpr hne
      simp only [List.length_cons, List.length_drop, ceilDiv] at this hlen ⊢
      omega

theorem kept_takeData (body : List Byte) (h : Kept z s) (ho : s.plk.isOpen = true) : Kept z (s.takeData body) := by
  unfold State.takeData
  split
  · exact h.calm (calm_modCounts _ (.refl _ _))
  · rename_i hb
    split
    · rename_i hr
      refine Kept.calm ?_ (calm_flowLaw (.refl _ _))
      refine h.step ⟨⟨rfl, fun ⟨a, b, c, d, e, f, g⟩ => ⟨a, b, c, d, ?_, f, g⟩, id, by rintro (_ | _) <;> exact id,
        fun _ => id, id, id, fun x => ⟨x.1, fun e => absurd e (by simp [ho])⟩⟩, id⟩
      have := cutCells_length s.ss.dataSeq (body.length + 1) 0 body (by simpa using hb)
      simp only [State.modSs_ss, List.length_append, cellsOf]
      simp only [SS.free, Config.upQueueCells] at hr
      omega
    · exact h.calm (calm_modCounts _ (.refl _ _))

theorem kept_takeFrame (l : List Byte) (h : Kept z s) (ho : s.plk.isOpen = true) : Kept z (s.takeFrame l) := by
  unfold State.takeFrame
  dsimp only
  repeat' split
  · exact kept_frameErr _ h
  · exact kept_takeRequest _ _ h ho
  · exact kept_takeData _ h ho
  · exact kept_frameErr _ h

/-- An update of the receiver of an open link. -/
theorem kept_receiver (st : Rx) (l : List Byte) (h : Kept z s) (ho : s.plk.isOpen = true) :
    Kept z (s.modPlk fun k => { k with rx := st, rxBytes := l }) :=
  kept_modPlk _ h (Nat.le_refl _) (Nat.le_refl _) (Nat.le_refl _) (.refl _) rfl
    fun e => absurd e (by rw [ho]; decide)

@[simp] theorem kept_rxByte (b : Byte) (h : Kept z s) : Kept z (s.rxByte b) := by
  unfold State.rxByte
  dsimp only
  split
  · exact h
  · rename_i hc
    have ho : s.plk.isOpen = true := by simpa using hc
    repeat' split
    all_goals first
      | exact h
      | exact kept_receiver _ _ h ho
      | exact kept_frameErr _ (kept_receiver _ _ h ho)
      | exact kept_takeFrame _ (kept_receiver _ _ h ho) ho

@[simp] theorem kept_rxStream (l : List Byte) (h : Kept z s) : Kept z (s.rxStream l) := by
  unfold State.rxStream
  induction l generalizing s with
  | nil => exact h
  | cons b l ih => exact ih (kept_rxByte b h)

theorem kept_hostFrame (k : FrameKind) (tag : Byte) (body : List Byte) (take : State → State) (h : Kept z s)
    (ht : s.plk.isOpen = true → Kept z (take s)) : Kept z (s.hostFrame k tag body take) := by
  unfold State.hostFrame
  split
  · rename_i hc
    simp only [Bool.and_eq_true] at hc
    exact ht hc.1.1
  · exact kept_rxStream _ h

theorem kept_request {α : Type} [DecidableEq α] (code : Nat) (f : Reader α) (args : α) (run : State → State)
    (h : Kept z s) (hr : Kept z (run s)) : Kept z (s.request code f args run) := by
  unfold State.request
  repeat' split
  all_goals first | exact h | exact hr | exact kept_reply _ h

@[simp] theorem kept_arbiter (h : Kept z s) : Kept z s.arbiter := by
  unfold State.arbiter
  split
  · exact h
  · rename_i hc
    have ho : s.plk.isOpen = true := by
      simp only [Bool.or_eq_true, Bool.not_eq_true', not_or, Bool.not_eq_false] at hc
      exact hc.1
    repeat' split
    · exact kept_modPlk _ h (Nat.le_refl _) (Nat.le_refl _) (Nat.le_refl _) (.refl _) rfl
        fun e => absurd e (by rw [ho]; decide)
    · rename_i hn
      refine kept_modPlk _ h (Nat.le_refl _) (Nat.le_refl _) (Nat.le_refl _) ?_ rfl
        fun e => absurd e (by rw [ho]; decide)
      rw [hn]
      exact List.sublist_cons_self _ _
    · exact kept_modPlk _ h (Nat.le_refl _) (Nat.le_refl _) (Nat.le_refl _) (.refl _) rfl
        fun e => absurd e (by rw [ho]; decide)
    · exact h

@[simp] theorem kept_frameDone (h : Kept z s) : Kept z s.frameDone := by
  have h1 : Kept z (s.modPlk fun k => { k with frame := none }) :=
    kept_modPlk _ h (Nat.le_refl _) (Nat.le_refl _) (Nat.le_refl _) (.refl _) rfl
      fun _ ⟨b1, b2, b3, b4, b5, b6, _⟩ => ⟨b1, b2, b3, b4, b5, b6, rfl⟩
  unfold State.frameDone
  split
  · exact h
  · dsimp only
    split
    · refine kept_modPlk _ h1 (List.length_filter_le _ _) (List.length_filter_le _ _) (Nat.le_refl _) (.refl _) rfl ?_
      rintro _ ⟨b1, b2, b3, b4, b⟩
      exact ⟨b1, b2, by rw [b3]; rfl, by rw [b4]; rfl, b⟩
    · exact h1
    · refine (kept_modPlk _ h1 (Nat.le_refl _) (Nat.le_refl _) ?_ (.refl _) rfl ?_).calm
        (calm_modCounts _ (.refl _ _))
      · exact List.Sublist.sum_le_sum ((List.drop_sublist _ _).map _) fun _ _ => Nat.zero_le _
      · rintro _ ⟨b1, b2, b3, b4, b5, b6, b⟩
        exact ⟨b1, b2, b3, b4, b5, by rw [b6]; rfl, b⟩

/-! ## Host power and custody -/

@[simp] theorem kept_setPart (h : Kept z s) : Kept z (s.setCustody .part) := by
  unfold State.setCustody
  split
  · exact h
  · exact kept_raise _ (h.step ⟨⟨rfl, id, id, by rintro (_ | _) <;> exact id, fun _ => id, id, id, id⟩,
      fun ⟨_, b, c⟩ => ⟨fun _ => rfl, b, c⟩⟩)

@[simp] theorem kept_lastDecision (h : Kept z s) : Kept z s.lastDecision := by
  unfold State.lastDecision
  dsimp only
  split
  · exact kept_setPart h
  · exact h

@[simp] theorem kept_stopGrace (h : Kept z s) : Kept z s.stopGrace := by
  unfold State.stopGrace
  split
  · exact kept_raise _ (h.calm (calm_modCc _ (.refl _ _) rfl rfl))
  · exact h

theorem hostOn_sup : s.hostOn.sup = { s.sup with procPwr := true } := by simp [State.hostOn]
theorem hostOff_sup : s.hostOff.sup = { s.sup with procPwr := false } := by simp [State.hostOff]
@[simp] theorem hostOn_cc : s.hostOn.cc = s.cc := by simp [State.hostOn]
@[simp] theorem hostOff_cc : s.hostOff.cc = s.cc := by simp [State.hostOff]

theorem hostOn_bounded (h : s.bounded) : s.hostOn.bounded := by
  obtain ⟨a, _, _, d, e, f, g⟩ := h
  simp [State.bounded, State.hostOn, a, d, e, f, g]

theorem hostOff_bounded (h : s.bounded) : s.hostOff.bounded := by
  obtain ⟨a, _, _, d, _, f, g⟩ := h
  simp [State.bounded, State.hostOff, a, d, f, g]

/-- R136 asks for nothing, or turns the host's power on or off. -/
theorem hostPowerLaw_cases (s : State) : s.hostPowerLaw = s ∨ s.hostPowerLaw = s.hostOn ∨ s.hostPowerLaw = s.hostOff := by
  unfold State.hostPowerLaw
  repeat' split
  all_goals simp

/-- The lists of the host's data path at an edge of host power (R66, R176). -/
theorem hostOn_base (s : State) : Base s s.hostOn where
  pending := by simp [State.hostOn]
  bounded := hostOn_bounded
  apart := fun x => by simpa only [State.channelsApart, hostOn_cc] using x
  held := fun x y => by cases x <;> simpa [State.heldOn, State.hostOn] using y
  queue := fun _ y => by simpa [State.hostOn] using y
  pool := fun ⟨a, b⟩ => by
    have hd : s.hostOn.plk.dataDown = [] := by simp [State.hostOn]
    have hp : s.hostOn.ss = s.ss := by simp [State.hostOn]
    unfold State.poolLaw State.poolUsed at *
    rw [hd, hp]
    exact ⟨Nat.le_trans (Nat.add_le_add_left (Nat.zero_le _) _) a, b⟩
  notices := fun _ => by
    unfold State.hostOn
    have h0 := Calm.refl allSides ((s.modSup fun x => { x with procPwr := true }).modPlk fun k =>
      { k with isOpen := true, rx := .hunt, rxBytes := [], requests := [], busy := [], dataDown := [], frame := none
               notices := [] })
    have h1 := calm_raiseIf (K := allSides) (!s.sts.startedRaised) .started
      (Calm.refl allSides (((s.modSup fun x => { x with procPwr := true }).modPlk fun k =>
      { k with isOpen := true, rx := .hunt, rxBytes := [], requests := [], busy := [], dataDown := [], frame := none
               notices := [] }).modSts fun x => { x with startedRaised := true }))
    exact (calm_raise .fault (calm_raise .custody (calm_raise .supply h1))).notices List.nodup_nil
  shut := fun _ => ⟨by simp [State.hostOn], fun e => by simp [State.hostOn] at e⟩

theorem hostOff_base (s : State) : Base s s.hostOff where
  pending := by simp [State.hostOff]
  bounded := hostOff_bounded
  apart := fun x => by simpa only [State.channelsApart, hostOff_cc] using x
  held := fun x y => by cases x <;> simpa [State.heldOn, State.hostOff] using y
  queue := fun _ y => by simpa [State.hostOff] using y
  pool := fun _ => by simp [State.poolLaw, State.poolUsed, State.hostOff, Partial.count]
  notices := fun _ => by simp [State.hostOff, State.raise]
  shut := fun _ => ⟨by simp [State.hostOff, State.raise], fun _ => by simp [State.hostOff, State.raise]⟩

theorem hostPowerLaw_base (s : State) : Base s s.hostPowerLaw := by
  rcases hostPowerLaw_cases s with h | h | h <;> rw [h]
  · exact .refl s
  · exact hostOn_base s
  · exact hostOff_base s

theorem hostPowerLaw_pending (s : State) : s.hostPowerLaw.pending = s.pending := (hostPowerLaw_base s).pending

theorem hostPowerLaw_cc (s : State) : s.hostPowerLaw.cc = s.cc := by
  rcases hostPowerLaw_cases s with h | h | h <;> rw [h] <;> simp

/-- What R136 leaves in every mode, where custody fits a part without host power. -/
theorem hostPowerLaw_powered (hc : s.sup.procPwr = false → s.cc.custody = .part)
    (hp : s.sup.mode = .start ∨ s.sup.mode = .depleted → s.cc.custody = .part) : s.hostPowerLaw.hostPowered := by
  unfold State.hostPowered
  rw [hostPowerLaw_cc]
  unfold State.hostPowerLaw
  cases hm : s.sup.mode <;> cases hq : s.sup.procPwr <;> cases hk : s.cc.custody <;>
    simp_all [hostOn_sup, hostOff_sup]

theorem kept_hostPowerLaw (h : Kept z s) (hp : s.sup.mode = .start ∨ s.sup.mode = .depleted → s.cc.custody = .part)
    (hc : z.midPower → s.sup.procPwr = false → s.cc.custody = .part) : Kept z s.hostPowerLaw :=
  ⟨h.toBase.step (hostPowerLaw_base s), fun x => (hostPowerLaw_powered (hc x) hp).mid⟩

/-! ## Entry to a supply mode -/

/-- As `Base`, with supply mode, host power and custody as they were. -/
structure Same (z s : State) : Prop extends Base z s where
  mode : s.sup.mode = z.sup.mode
  procPwr : s.sup.procPwr = z.sup.procPwr
  custody : s.cc.custody = z.cc.custody

theorem Same.refl (z : State) : Same z z := ⟨.refl z, rfl, rfl, rfl⟩

theorem Same.step (h : Same z s) (k : Same s t) : Same z t :=
  ⟨h.toBase.step k.toBase, k.mode.trans h.mode, k.procPwr.trans h.procPwr, k.custody.trans h.custody⟩

theorem Calm.same (h : Calm allSides z s) : Same z s := ⟨h.base, h.mode, h.procPwr, h.custody⟩

theorem Same.calm (h : Same z s) (k : Calm allSides s t) : Same z t := h.step k.same

theorem same_setPart (s : State) (h : s.cc.custody = .part) : Same s (s.setCustody .part) := by
  unfold State.setCustody
  rw [if_pos h]
  exact .refl s

theorem same_stopGrace (h : Same z s) : Same z s.stopGrace := by
  unfold State.stopGrace
  split
  · exact h.calm (calm_raise _ (calm_modCc _ (.refl _ _) rfl rfl))
  · exact h

/-- What a part outside START has of custody at entry to a mode, before the law of host power. -/
theorem enterMode_kept (m : SupplyMode) (hm : m ≠ .start) (h : Kept z s) : Kept z (s.enterMode m) := by
  have hp1 : ∀ t : State,
      Calm allSides t (t.profileInput fun s => s.modSup fun x => { x with profile := m.profile x.profile }) :=
    fun t => calm_profileInput _ (.refl _ _) fun _ h => calm_modSup _ h rfl rfl
  unfold State.enterMode
  extract_lets left s1 s2 s3 s4 s5 s6 s7 s8
  have e1 : Base s s1 ∧ s1.sup.mode = m ∧ s1.sup.procPwr = s.sup.procPwr ∧ s1.cc.custody = s.cc.custody := by
    have c := calm_raise .supply (.refl allSides (s.modSup fun x => x.enter m s.uptime))
    have b : Base s (s.modSup fun x => x.enter m s.uptime) :=
      ⟨rfl, id, id, by rintro (_ | _) <;> exact id, fun _ => id, id, id, id⟩
    exact ⟨b.step c.base, c.mode, c.procPwr, c.custody⟩
  have e6 : Same s1 s6 := by
    have e2 : Same s1 s2 := ⟨⟨rfl, id, id, by rintro (_ | _) <;> exact id, fun _ => id, id, id, id⟩, rfl, rfl, rfl⟩
    have e3 : Same s1 s3 := e2.calm (calm_testsByMode _ (.refl _ _))
    have e4 : Same s1 s4 := e3.calm (hp1 _)
    have e5 : Same s1 s5 := e4.calm (calm_ite _ (fun _ => .refl _ _) (fun _ => calm_lineHoldRemove _ (.refl _ _)))
    exact e5.calm (calm_shedLaw (.refl _ _))
  have e7 : Base s6 s7 ∧ s7.sup.mode = s6.sup.mode ∧ s7.sup.procPwr = s6.sup.procPwr
      ∧ s7.cc.custody = (if m = .depleted then .part else s6.cc.custody) := by
    have hk : Kept s6 (s6.setCustody .part) := kept_setPart (.refl _)
    have hs : (s6.setCustody .part).sup = s6.sup ∧ (s6.setCustody .part).cc.custody = .part := by
      unfold State.setCustody
      split
      · exact ⟨rfl, by assumption⟩
      · exact ⟨rfl, rfl⟩
    show Base s6 (s6.custodyByMode m) ∧ _
    unfold State.custodyByMode
    cases m
    · exact absurd rfl hm
    · have k := same_stopGrace (.refl s6)
      exact ⟨k.toBase, k.mode, k.procPwr, k.custody⟩
    · have k := same_stopGrace (.refl s6)
      exact ⟨k.toBase, k.mode, k.procPwr, k.custody⟩
    · have k : Calm allSides s6 (((if s6.cc.custody = .box then
          (s6.modCc fun c => { c with grace := some 30000 }).raise .custody else s6).retestRing .a).retestRing .b) :=
        calm_retestRing _ (calm_retestRing _ (calm_ite _ (fun _ => calm_raise _ (calm_modCc _ (.refl _ _) rfl rfl))
          (fun _ => .refl _ _)))
      exact ⟨k.base, k.mode, k.procPwr, k.custody⟩
    · have k : Same (s6.setCustody .part) (s6.setCustody .part).stopGrace.decideAll :=
        (same_stopGrace (.refl _)).calm (calm_decideAll (.refl _ _))
      exact ⟨hk.toBase.step k.toBase, k.mode.trans (by rw [hs.1]), k.procPwr.trans (by rw [hs.1]), k.custody.trans hs.2⟩
  have h8 : Kept z s8 := by
    obtain ⟨b1, d1, f1, g1⟩ := e1
    obtain ⟨b7, d7, f7, g7⟩ := e7
    have mode7 : s7.sup.mode = m := d7.trans (e6.mode.trans d1)
    have pwr7 : s7.sup.procPwr = s.sup.procPwr := f7.trans (e6.procPwr.trans f1)
    have cus7 : s7.cc.custody = (if m = .depleted then .part else s.cc.custody) := by
      rw [g7, e6.custody, g1]
    have hd : s7.sup.mode = .start ∨ s7.sup.mode = .depleted → s7.cc.custody = .part := by
      rw [mode7, cus7]
      rintro (x | x)
      · exact absurd x hm
      · rw [if_pos x]
    refine ⟨h.toBase.step (b1.step (e6.toBase.step (b7.step (hostPowerLaw_base s7)))), fun x => ?_⟩
    refine (hostPowerLaw_powered (s := s7) ?_ hd).mid
    rw [pwr7, cus7]
    intro y
    split
    · rfl
    · exact (h.power x).1 y
  split
  · exact h8.calm (calm_powerLoss _ (.refl _ _))
  · exact h8

/-! ## Evaluation, sweeps, settings -/

theorem kept_ite (c : Prop) [Decidable c] {x y : State} (hx : Kept z x) (hy : Kept z y) :
    Kept z (if c then x else y) := by split <;> assumption

theorem kept_decideStart (k : Handed) (h : Kept z s) : Kept z (s.decideStart k) := by
  unfold State.decideStart
  split
  · refine enterMode_kept _ ?_ h
    repeat' split
    all_goals simp
  · exact h

theorem kept_immediate (k : Handed) (n : Nat) : ∀ {s : State}, Kept z s → Kept z (State.immediate k n s) := by
  induction n with
  | zero => exact fun h => h
  | succ n ih =>
    intro s h
    unfold State.immediate
    repeat' split
    all_goals first
      | exact h
      | exact ih (enterMode_kept _ (by simp) h)

theorem kept_supplyEvaluation (k : Handed) (h : Kept z s) : Kept z (s.supplyEvaluation k) := by
  unfold State.supplyEvaluation
  extract_lets s1 a s2 s3
  have h1 : Kept z s1 := h.calm (calm_modSup _ (.refl _ _) rfl rfl)
  have h2 : Kept z s2 := h1.calm (calm_raiseIf _ _ (calm_modSup _ (.refl _ _) rfl rfl))
  have h3 : Kept z s3 := kept_ite _ (kept_decideStart k h2) ((kept_immediate k 3 h2).calm (calm_debounced _ (.refl _ _)))
  split
  · exact h1
  · split
    · exact h3
    · refine h3.calm (calm_modSup _ (.refl _ _) ?_ ?_) <;>
      · unfold SUP.batteryRuns
        repeat' split
        all_goals rfl

theorem kept_unlessDepleted (f : State → State) (h : Kept z s) (hf : Kept z (f s)) : Kept z (s.unlessDepleted f) :=
  kept_ite _ h hf

theorem kept_takeSnapshot (h : Kept z s) : Kept z s.takeSnapshot := by
  unfold State.takeSnapshot
  split
  · exact h
  · exact kept_raise _ (kept_modMu _ h)

theorem kept_sweepEnd (h : Kept z s) : Kept z s.sweepEnd := by
  unfold State.sweepEnd
  extract_lets before s1 s2 m s3 s4 s5
  have h2 : Kept z s2 := kept_raiseIf _ _ (kept_modMu _ h)
  have h3 : Kept z s3 := kept_supplyEvaluation _ h2
  have h4 : Kept z s4 := kept_unlessDepleted _ h3 (h3.calm (calm_thermal _ (.refl _ _)))
  have h5 : Kept z s5 := kept_unlessDepleted _ h4 (h4.calm (calm_foreign _ _ (.refl _ _)))
  exact kept_unlessDepleted _ h5 (kept_takeSnapshot h5)

theorem kept_applyRatio (r : ServiceRatio) (h : Kept z s) : Kept z (s.applyRatio r) :=
  (kept_modSettings _ h).calm (calm_modSs_keep _ (.refl _ _) rfl rfl rfl rfl (.inl rfl))

theorem kept_applyPort (p : Port) (x : PortSettings) (h : Kept z s) : Kept z (s.applyPort p x) := by
  unfold State.applyPort
  extract_lets old s1 s2 s3
  have h1 : Kept z s1 := kept_modSettings _ h
  have h2 : Kept z s2 := kept_ite _ h1 (h1.calm (calm_modPort_keep _ _ (.refl _ _) rfl rfl rfl))
  have h3 : Kept z s3 := h2.calm (calm_applyPortEnable _ (.refl _ _))
  exact kept_ite _ h3 (h3.calm (calm_shedLaw (.refl _ _)))

theorem PP.recadence_digits (x : PP) (n : Nat) : (x.recadence n).digits = x.digits := by
  unfold PP.recadence
  split <;> rfl
theorem PP.recadence_feed (x : PP) (n : Nat) : (x.recadence n).feed = x.feed := by
  unfold PP.recadence
  split <;> rfl
theorem PP.recadence_hold (x : PP) (n : Nat) : (x.recadence n).hold = x.hold := by
  unfold PP.recadence
  split <;> rfl

theorem calm_recadence {K : Side → Prop} (p : Port) (n : Nat) (h : Calm K z s) :
    Calm K z (s.modPort p fun x => x.recadence n) :=
  calm_modPort_keep p _ h (PP.recadence_digits _ n) (PP.recadence_feed _ n) (PP.recadence_hold _ n)

theorem kept_applyCadence (n : Nat) (c : Cadence) (h : Kept z s) : Kept z (s.applyCadence n c) :=
  (kept_modSettings _ h).calm (calm_recadence _ _ (calm_recadence _ _ (.refl _ _)))

theorem kept_applyFaults (x : FaultSettings) (l : List FaultId) (h : Kept z s) : Kept z (s.applyFaults x l) := by
  unfold State.applyFaults
  extract_lets pin s1 s2
  have h1 : Kept z s1 := kept_modSettings _ h
  have h2 : Kept z s2 := by
    have : ∀ (l : List FaultId) {t : State}, Kept z t → Kept z (l.foldl (fun s i => s.policyRaise i) t) := by
      intro l
      induction l with
      | nil => exact fun h => h
      | cons i l ih => exact fun h => ih (h.calm (calm_policyRaise _ (.refl _ _)))
    exact this l h1
  exact kept_raiseIf _ _ h2

theorem kept_applyDefaults (h : Kept z s) : Kept z s.applyDefaults := by
  unfold State.applyDefaults
  extract_lets d s1 s2 s3 s4 s5 s6
  have h1 : Kept z s1 := kept_modSettings _ h
  have h2 : Kept z s2 := kept_ite _ h1 (h1.calm (calm_setMaskInForce _ (.refl _ _)))
  have h3 : Kept z s3 := h2.calm (calm_applyLinkEnable (.refl _ _))
  have h4 : Kept z s4 := kept_applyRatio _ h3
  have h5 : Kept z s5 := kept_applyPort _ _ (kept_applyPort _ _ h4)
  have h6 : Kept z s6 := kept_applyCadence _ _ (kept_applyCadence _ _ (kept_applyCadence _ _ (kept_applyCadence _ _ h5)))
  exact kept_applyFaults _ _ h6

theorem kept_loadEnd (h : Kept z s) : Kept z s.loadEnd := by
  unfold State.loadEnd
  extract_lets r g v s1 s2 s3 s4 s5 s6 s7 s8
  have h2 : Kept z s2 := kept_modSettings _ (kept_modSts _ h)
  have h3 : Kept z s3 := kept_ite _ h2 (h2.calm (calm_faultEvent _ (.refl _ _)))
  have h4 : Kept z s4 := kept_ite _ h3 (h3.calm (calm_faultEvent _ (.refl _ _)))
  have h5 : Kept z s5 := h4.calm (calm_setMaskInForce _ (.refl _ _))
  have h6 : Kept z s6 := kept_modMu _ h5
  have h7 : Kept z s7 := kept_ite _ (h6.calm (calm_lineHoldRemove _ (.refl _ _))) h6
  have h8 : Kept z s8 := kept_ite _ (h7.calm (calm_portHoldRemove _ _ (.refl _ _))) h7
  exact kept_ite _ (h8.calm (calm_portHoldRemove _ _ (.refl _ _))) h8

/-! ## Superframes -/

theorem kept_placeData (h : Kept z s) : Kept z s.placeData.1 := by
  unfold State.placeData
  split
  · exact h
  · rename_i c t hq
    dsimp only
    refine Kept.calm ?_ (calm_modCounts _ (.refl _ _))
    refine h.step ⟨⟨rfl, fun ⟨a, b, c, d, e, f, g⟩ => ⟨a, b, c, d, ?_, f, g⟩, id, by rintro (_ | _) <;> exact id,
      fun _ => id, id, id, fun ⟨a, b⟩ => ⟨a, fun e => ?_⟩⟩, id⟩
    · rw [hq] at e
      simp only [List.length_cons] at e
      simp only [State.modSs_ss]
      omega
    · have := (b e).2.2.2.2.2.2.2.1
      rw [hq] at this
      exact absurd this (by simp)

theorem kept_cellPosition (first : Bool) (h : Kept z s) : Kept z (s.cellPosition first).1 := by
  unfold State.cellPosition
  dsimp only
  have h1 : ∀ p, Kept z (s.modSs fun x => { x with p := p }) := fun p => h.calm (calm_modSs_keep _ (.refl _ _) rfl rfl rfl rfl (.inl rfl))
  split
  · exact (h1 _).calm (calm_placeMgmt (.refl _ _))
  · exact kept_placeData (h1 _)
  · dsimp only
    exact (h1 _).calm (calm_modCounts _ (.refl _ _))

theorem kept_placeCells (n : Nat) : ∀ (first : Bool) {s : State}, Kept z s → Kept z (State.placeCells first n s).1 := by
  induction n with
  | zero => exact fun _ _ h => h
  | succ n ih =>
    intro first s h
    unfold State.placeCells
    split
    · exact h
    · exact ih false (kept_cellPosition first h)

theorem kept_layUp (a b : List Byte) (h : Kept z s) : Kept z (s.layUp a b) := by
  unfold State.layUp
  refine Kept.calm ?_ (calm_flowLaw (.refl _ _))
  refine Kept.calm ?_ (calm_modSs_keep _ (.refl _ _) rfl rfl rfl rfl (.inl rfl))
  exact kept_placeCells _ _ (h.calm (calm_modCounts _ (.refl _ _)))

/-- The places the complete units of the pool take (R65). -/
abbrev PLK.unitCells (k : PLK) : Nat := (k.dataDown.map fun u => ceilDiv u.length 60).sum

theorem ceilDiv_le (n c : Nat) (h : n ≤ 60 * c) : ceilDiv n 60 ≤ c := by
  unfold ceilDiv
  omega

/-- A cell kept takes its place in the pool, where one is free (R65). -/
theorem kept_keepData (c : Cell) (p : Partial) (h : Kept z s)
    (hp : s.poolLaw → p.bytes.length ≤ 60 * p.cells ∧ s.plk.unitCells + p.cells ≤ 64)
    (ho : s.linkLaw → s.plk.isOpen = true) : Kept z (s.keepData c p) := by
  have hs : ∀ t : State, t.plk.isOpen = s.plk.isOpen → t.sup.procPwr = s.sup.procPwr → s.linkLaw → t.linkLaw :=
    fun t e1 e2 x => ⟨by rw [e1, e2]; exact x.1, fun e => absurd (e1.symm.trans e) (by rw [ho x]; decide)⟩
  unfold State.keepData
  split
  · refine h.step ⟨⟨rfl, id, id, by rintro (_ | _) <;> exact id, fun _ => id, fun x => ?_, id,
      hs _ rfl rfl⟩, id⟩
    obtain ⟨h1, h2⟩ := hp x
    have := ceilDiv_le _ _ h1
    refine ⟨?_, by simp⟩
    simp only [State.poolUsed, Partial.count, State.modPlk_ss, State.modSs_ss, State.modPlk_plk, State.modSs_plk,
      Option.map_none, Option.getD_none, List.map_append, List.map_cons, List.map_nil, List.sum_append,
      List.sum_cons, List.sum_nil]
    simp only [PLK.unitCells] at h2
    omega
  · refine h.step ⟨⟨rfl, id, id, by rintro (_ | _) <;> exact id, fun _ => id, fun x => ?_, id,
      hs _ rfl rfl⟩, id⟩
    obtain ⟨h1, h2⟩ := hp x
    refine ⟨?_, by simpa using h1⟩
    simp only [State.poolUsed, Partial.count, State.modSs_ss, State.modSs_plk, Option.map_some, Option.getD_some]
    simp only [PLK.unitCells] at h2
    omega

theorem kept_dataCell (c : Cell) (h : Kept z s) (hc : c.data.length ≤ 60) : Kept z (s.dataCell c) := by
  have hd : Kept z (s.modSs fun x => { x with dataPartial := none }) :=
    h.calm (calm_modSs_keep _ (.refl _ _) rfl rfl rfl rfl (.inr rfl))
  unfold State.dataCell
  split
  · split
    · exact h.calm (calm_modCounts _ (.refl _ _))
    · exact h
  · rename_i hpwr
    have hp : s.sup.procPwr = true := by simpa using hpwr
    dsimp only
    split
    · rename_i d _
      generalize (if d = true then 1 else 0 : Nat) = n
      split
      · rename_i hr
        refine kept_keepData _ _ (hd.calm (calm_modCounts _ (.refl _ _))) (fun _ => ⟨?_, ?_⟩) fun x => x.1.trans hp
        · simpa [Partial.start] using hc
        · simp only [State.poolUsed, Partial.count, State.modCounts, State.modSs_ss, State.modSs_plk, Option.map_none,
            Option.getD_none, Config.poolCells] at hr
          simp only [Partial.start, State.modCounts, State.modSs_plk, PLK.unitCells]
          omega
      · exact (hd.calm (calm_modCounts _ (.refl _ _))).calm (calm_noRoomDown (.refl _ _))
    · exact hd.calm (calm_modCounts _ (.refl _ _))
    · exact h.calm (calm_modCounts _ (.refl _ _))
    · exact hd.calm (calm_modCounts _ (.refl _ _))
    · exact hd.calm (calm_modCounts _ (.refl _ _))
    · rename_i p hf
      split
      · rename_i hr
        refine kept_keepData _ _ h (fun x => ?_) fun x => x.1.trans hp
        obtain ⟨q, hq, rfl⟩ : ∃ q, s.ss.dataPartial = some q ∧
            p = { q with nextIndex := (q.nextIndex + 1) % 16, cells := q.cells + 1, bytes := q.bytes ++ c.data } := by
          unfold fitCell at hf
          split at hf
          · split at hf <;> exact absurd hf (by simp)
          · split at hf
            · exact absurd hf (by simp)
            · rename_i q hq
              repeat' split at hf
              · exact absurd hf (by simp)
              · exact absurd hf (by simp)
              · exact ⟨q, hq, (Fit.joins.inj hf).symm⟩
        have := x.2 q (by rw [hq]; simp)
        simp only [State.poolUsed, Partial.count, hq, Option.map_some, Option.getD_some, Config.poolCells] at hr
        simp only [List.length_append, PLK.unitCells]
        omega
      · exact h.calm (calm_noRoomDown (.refl _ _))

theorem kept_takeCell (l : List Byte) (h : Kept z s) : Kept z (s.takeCell l) := by
  unfold State.takeCell
  split
  · exact h
  · split
    · exact (h.calm (calm_modCounts _ (.refl _ _))).calm (calm_dropForCheck (.refl _ _))
    · rcases hk : readCell l with ⟨kind, c⟩
      dsimp only
      split
      · exact h
      · split
        · exact (h.calm (calm_modCounts _ (.refl _ _))).calm (calm_dropForCheck (.refl _ _))
        · rename_i hbad
          split
          · refine kept_dataCell _ h ?_
            have hl : (((l[2]?).getD 0).toNat) ≤ 60 := by
              by_contra hn
              exact hbad (.inr (.inr (.inl (by omega))))
            have hc : c.data = (l.drop 3).take ((l[2]?).getD 0).toNat := by
              rw [show c = (readCell l).2 by rw [hk]]
              rfl
            rw [hc, List.length_take]
            omega
          · exact h.calm (calm_mgmtCell _ (.refl _ _))

theorem kept_giveVoice (l : List Slot) : ∀ (b : List Byte) {s : State}, Kept z s → Kept z (s.giveVoice l b) := by
  induction l with
  | nil => exact fun _ _ h => h
  | cons x l ih =>
    intro b s h
    unfold State.giveVoice
    exact ih _ (kept_ite _ (h.calm (calm_modPort_keep _ _ (.refl _ _) rfl rfl rfl)) h)

theorem kept_takeDown (payload : List Byte) (h : Kept z s) : Kept z (s.takeDown payload) := by
  unfold State.takeDown
  extract_lets n l slots used s1 s2 s3
  have h1 : Kept z s1 := h.calm (calm_modPort_keep _ _ (calm_modPort_keep _ _ (.refl _ _) rfl rfl rfl) rfl rfl rfl)
  have h2 : Kept z s2 := kept_giveVoice _ _ h1
  have h3 : Kept z s3 := by
    have : ∀ (l : List (List Byte)) {t : State}, Kept z t → Kept z (l.foldl State.takeCell t) := by
      intro l
      induction l with
      | nil => exact fun h => h
      | cons i l ih => exact fun h => ih (kept_takeCell _ h)
    exact this _ h2
  exact kept_ite _ (h3.calm (calm_modLe _ (.refl _ _) rfl rfl)) h3

/-! ## The end of a step -/

/-- The laws end with that of host power (R136). -/
theorem laws_kept (h : Kept z s) : ∃ t : State, Kept z t ∧ s.laws = t.hostPowerLaw := by
  unfold State.laws
  extract_lets s1 s2 s3
  have h1 : Kept z s1 :=
    (kept_lastDecision (h.calm (calm_profileLaw (.refl _ _)))).calm (calm_needLaw (calm_reportN (.refl _ _)))
  have h2 : Kept z s2 := h1.calm (calm_sendDigits _ (calm_sendDigits _ (.refl _ _)))
  have h3 : Kept z s3 := h2.calm (calm_gateSetLaw (calm_gateClearLaw (.refl _ _)))
  exact ⟨_, h3.calm (calm_endReports (calm_refreshOwed (.refl _ _))), rfl⟩

theorem sleep_safe (h : Kept z s) (hb : z.bounded) : s.sleep.safe := by
  refine ⟨?_, by simp [State.hostPowered, State.sleep, State.reset, Reset.sup, Reset.cc], ?_,
    (by decide : Reset.le.held), (by decide : Reset.port.held), (by decide : Reset.port.held), ?_, ?_, ?_, ?_, ?_⟩
  · have := (h.bounded hb).1
    simp [State.bounded, State.sleep, State.reset, Reset.fs, Reset.plk, Reset.ss, Reset.port, this]
  · simp [State.channelsApart, State.sleep, State.reset, Reset.cc, Reset.call, CallRec.channels]
  · exact .empty rfl rfl
  · exact Nat.zero_le _
  · exact ⟨Nat.zero_le _, by simp [State.sleep, State.reset, Reset.ss]⟩
  · exact List.nodup_nil
  · exact ⟨rfl, fun _ => ⟨rfl, rfl, rfl, rfl, rfl, rfl, rfl, rfl, rfl, rfl⟩⟩

/-- The law of the queue leaves it at most 33 places: 24 for answers and unanswered messages, one for a part-sent send,
and one for each entry of the transaction list (R69, log 52). -/
theorem SS.queueLaw.length {x : SS} (h : x.queueLaw) (ht : x.txs.length ≤ 8) : x.outQueue.length ≤ 33 := by
  obtain ⟨_, _, c, d, e, f⟩ := h
  have sends : (x.outQueue.filterMap OutMsg.unsent).length ≤ 8 := by
    have hsub : ∀ n ∈ x.outQueue.filterMap OutMsg.unsent, n ∈ x.txs.map (·.number) := by
      intro n hn
      obtain ⟨t, h1, h2, _⟩ := f n hn
      exact List.mem_map.mpr ⟨t, h1, h2⟩
    have := (e.subperm hsub).length_le
    rw [List.length_map] at this
    omega
  have tail : ∀ l : List OutMsg, (∀ m ∈ l, m.started = false) →
      l.length = (l.filter fun m => !m.isSend).length + (l.filterMap OutMsg.unsent).length := by
    intro l
    induction l with
    | nil => exact fun _ => rfl
    | cons m l ih =>
      intro hl
      have hm := hl m (List.mem_cons_self ..)
      have := ih fun n hn => hl n (List.mem_cons_of_mem _ hn)
      rw [List.filter_cons, List.filterMap_cons, List.length_cons, this]
      unfold OutMsg.isSend OutMsg.unsent
      cases m.who <;> simp [hm] <;> omega
  cases hq : x.outQueue with
  | nil => exact Nat.zero_le _
  | cons m l =>
    rw [hq] at c d sends
    have := tail l d
    have h1 := ((List.sublist_cons_self m l).filter fun m => !m.isSend).length_le
    have h2 := ((List.sublist_cons_self m l).filterMap OutMsg.unsent).length_le
    rw [List.length_cons]
    omega

/-- What `Kept` gives of a safe state, the law of host power apart. -/
theorem Base.safe (h : Base z s) (hz : z.safe) (hp : s.hostPowered) : s.safe := by
  obtain ⟨a, _, c, d, e, f, g, _, i, j, k⟩ := hz
  have hb := h.bounded a
  have hq := h.queue a g
  exact ⟨hb, hp, h.apart c, h.held .line d, h.held (.port .a) e, h.held (.port .b) f, hq, hq.length hb.2.2.2.1, h.pool i,
    h.notices j, h.shut k⟩

/-- A step ends in a safe state if its command kept what operations keep. -/
theorem settle_safe (h : Kept z s) (hz : z.safe) : s.settle.safe := by
  unfold State.settle
  extract_lets s1
  split
  · rename_i hl
    refine sleep_safe (z := z) ?_ hz.1
    obtain ⟨t, ht, e⟩ := laws_kept h
    show Kept z (if s.sup.loss = .ended then s else s.laws)
    split
    · exact h
    · rw [e]
      have hp := ht.power hz.2.1.mid
      exact kept_hostPowerLaw ht (fun x => hp.1 (hp.2.2 x)) fun _ => hp.1
  · rename_i hl
    have e1 : s1 = s.laws := by
      show (if s.sup.loss = .ended then s else s.laws) = _
      split
      · rename_i hs
        exact absurd (by show (if s.sup.loss = .ended then s else s.laws).sup.loss = _; rw [if_pos hs, hs]) hl
      · rfl
    obtain ⟨t, ht, e⟩ := laws_kept h
    have hp := ht.power hz.2.1.mid
    have hpw := hostPowerLaw_powered hp.1 fun x => hp.1 (hp.2.2 x)
    have hk : Kept z t.hostPowerLaw := kept_hostPowerLaw ht (fun x => hp.1 (hp.2.2 x)) fun _ => hp.1
    have ha : Kept z t.hostPowerLaw.arbiter := kept_arbiter hk
    have hs : ∀ x : State, x.arbiter.sup = x.sup ∧ x.arbiter.cc = x.cc := by
      intro x
      unfold State.arbiter
      repeat' split
      all_goals exact ⟨rfl, rfl⟩
    rw [e1, e]
    exact ha.toBase.safe hz (by simpa only [State.hostPowered, (hs _).1, (hs _).2] using hpw)

theorem settle_pending (h : Kept z s) : s.settle.pending = z.pending := by
  have hl : s.laws.pending = z.pending := by
    obtain ⟨t, ht, e⟩ := laws_kept h
    rw [e, hostPowerLaw_pending, ht.pending]
  have h1 : (if s.sup.loss = .ended then s else s.laws).pending = z.pending := by
    split
    · exact h.pending
    · exact hl
  unfold State.settle
  extract_lets s1
  split
  · exact h1
  · exact (kept_arbiter (Kept.refl s1)).pending.trans h1

/-- A command's step, from what its effect keeps. -/
theorem live_safe (f : State → State) (hf : Kept s (f s)) (h : s.safe) : (s.live f).safe := by
  unfold State.live
  split
  · exact h
  · exact settle_safe hf h

theorem live_pending (f : State → State) (hf : Kept s (f s)) : (s.live f).pending = s.pending := by
  unfold State.live
  split
  · rfl
  · exact settle_pending hf

end Sys2Proof.Machine
end

