-- ==== Sys2Proof/Laws/KeptRequests.lean ====
section
/-!
SUPPORT. What the bodies of the requests keep (`Kept`).
-/

namespace Sys2Proof.Machine
set_option linter.unusedSimpArgs false
variable {z s : State}

/-! ## Request handlers -/

theorem kept_lineConfigure (l : Option (Enum Bool)) (m : Option Nat) (u : Option (Enum Bool)) (h : Kept z s) :
    Kept z (s.lineConfigure l m u) := by
  unfold State.lineConfigure
  dsimp only
  split
  · exact kept_reply _ ((kept_modSettings _ h).calm (calm_applyLinkEnable (.refl _ _)))
  · exact kept_reply _ h

theorem kept_restartRequest (x : Scope) (run : State → State) (h : Kept z s) (hr : Kept z (run s)) :
    Kept z (s.restartRequest x run) := by
  unfold State.restartRequest
  repeat' split
  all_goals first | exact h | exact kept_reply _ hr | exact kept_reply _ h

theorem kept_lineTableRead (d : Enum Direction) (t : Enum TableSel) (h : Kept z s) : Kept z (s.lineTableRead d t) := by
  unfold State.lineTableRead
  split <;> exact kept_reply _ h

theorem kept_toneMask (a : Enum MaskAction) (r : List (Nat × Nat)) (h : Kept z s) : Kept z (s.toneMask a r) := by
  have hm : ∀ m, Kept z (s.setRequestedMask m) := fun m => kept_modSettings _ h
  unfold State.toneMask State.maskReply
  dsimp only
  repeat' split
  all_goals first
    | exact kept_reply _ h
    | exact kept_reply _ ((hm _).calm (calm_oweRate _ (.refl _ _)))
    | exact kept_reply _ (hm _)
    | exact kept_reply _ ((hm _).calm (calm_setMaskInForce _ (.refl _ _)))

theorem kept_gateConfigure (a b c : Option Nat) (d : Option (Enum Bool)) (h : Kept z s) :
    Kept z (s.gateConfigure a b c d) := by
  unfold State.gateConfigure
  dsimp only
  split
  · exact kept_reply _ h
  · exact kept_reply _ (kept_modSettings _ h)

theorem kept_gateStatus (c : Option (Enum Unit)) (h : Kept z s) : Kept z (s.gateStatus c) := by
  unfold State.gateStatus
  split
  · exact kept_reply _ h
  · exact kept_ite _ ((kept_reply _ h).calm (calm_modFt _ (.refl _ _))) (kept_reply _ h)

theorem kept_scheduleConfigure (r : Enum ServiceRatio) (h : Kept z s) : Kept z (s.scheduleConfigure r) := by
  unfold State.scheduleConfigure
  split
  · exact kept_reply _ (kept_applyRatio _ h)
  · exact kept_reply _ h

theorem kept_scheduleStatus (c : Option (Enum Unit)) (h : Kept z s) : Kept z (s.scheduleStatus c) := by
  unfold State.scheduleStatus
  split
  · exact kept_reply _ h
  · exact kept_ite _ ((kept_reply _ h).calm (calm_modSs_keep _ (.refl _ _) rfl rfl rfl rfl (.inl rfl))) (kept_reply _ h)

theorem kept_portConfigure (p : Enum Port) (e : Option (Enum Bool)) (l t : Option Nat) (f : Option (Enum RingFreq))
    (a b c d : Option (Enum Bool)) (h : Kept z s) : Kept z (s.portConfigure p e l t f a b c d) := by
  unfold State.portConfigure
  split
  · exact kept_reply _ h
  · cases p with
    | outside _ => exact kept_reply _ h
    | known p =>
      dsimp only
      split
      · exact kept_reply _ (kept_applyPort _ _ h)
      · exact kept_reply _ h

theorem kept_cadenceSet (n : Nat) (ps : List (Nat × Nat)) (h : Kept z s) : Kept z (s.cadenceSet n ps) := by
  unfold State.cadenceSet
  repeat' split
  all_goals first | exact kept_reply _ h | exact kept_reply _ (kept_applyCadence _ _ h)

theorem kept_portStatus (p : Enum Port) (c : Option (Enum Unit)) (h : Kept z s) : Kept z (s.portStatus p c) := by
  unfold State.portStatus
  split
  · exact kept_ite _ ((kept_reply _ h).calm (calm_modPort_keep _ _ (.refl _ _) rfl rfl rfl)) (kept_reply _ h)
  · exact kept_reply _ h

theorem kept_ringPlan (p : Enum Port) (x : Enum Plan) (h : Kept z s) : Kept z (s.ringPlan p x) := by
  unfold State.ringPlan
  repeat' split
  all_goals first | exact kept_reply _ h | exact kept_reply _ (h.calm (calm_applyPlan _ _ (.refl _ _)))

theorem kept_intercomRequest (p : Enum Port) (h : Kept z s) : Kept z (s.intercomRequest p) := by
  unfold State.intercomRequest
  repeat' split
  all_goals first | exact kept_reply _ h | exact kept_reply _ (h.calm (calm_dialIntercom _ (.refl _ _)))

theorem kept_custodyClaim (h : Kept z s) : Kept z s.custodyClaim := by
  unfold State.custodyClaim
  split
  · exact kept_reply _ h
  · split
    · rename_i hm
      simp only [Bool.or_eq_true, decide_eq_true_eq] at hm
      refine kept_reply _ ?_
      unfold State.setCustody
      split
      · exact h
      · refine kept_raise _ (h.step ⟨⟨rfl, id, id, by rintro (_ | _) <;> exact id, fun _ => id, id, id, id⟩,
          fun ⟨a, b, c⟩ => ⟨fun x => ?_, b, c⟩⟩)
        exact absurd (b hm) (by rw [show s.sup.procPwr = false from x]; simp)
    · exact kept_reply _ h

theorem kept_custodyRelease (h : Kept z s) : Kept z s.custodyRelease := by
  unfold State.custodyRelease
  refine kept_reply _ ?_
  split
  · rename_i hb
    split
    · exact kept_setPart h
    · unfold State.setCustody
      split
      · exact h
      · refine kept_raise _ (h.step ⟨⟨rfl, id, id, by rintro (_ | _) <;> exact id, fun _ => id, id, id, id⟩,
          fun ⟨a, b, c⟩ => ⟨fun x => ?_, b, c⟩⟩)
        exact absurd (a x) (by rw [hb]; simp)
  · exact h

theorem kept_digitsRead (p : Enum Port) (h : Kept z s) : Kept z (s.digitsRead p) := by
  unfold State.digitsRead
  split <;> exact kept_reply _ h

theorem kept_snapshotRequest (k : Enum SnapKind) (h : Kept z s) : Kept z (s.snapshotRequest k) := by
  unfold State.snapshotRequest
  repeat' split
  all_goals first | exact kept_reply _ h | exact kept_reply _ (kept_modMu _ h)

theorem kept_measureConfigure (r : Option (Enum SweepRate)) (e : Option (List (Enum Bool)))
    (k : Option (Enum SnapKind)) (h : Kept z s) : Kept z (s.measureConfigure r e k) := by
  unfold State.measureConfigure
  dsimp only
  repeat' split
  all_goals first | exact kept_reply _ h | exact kept_reply _ (kept_modSettings _ h)

theorem kept_supplyConfigure (t c r : Option Nat) (h : Kept z s) : Kept z (s.supplyConfigure t c r) :=
  kept_reply _ (kept_modSettings _ h)

theorem kept_testStart (k : Enum TestKind) (t : Enum Target) (h : Kept z s) : Kept z (s.testStart k t) := by
  unfold State.testStart
  repeat' split
  all_goals first | exact kept_reply _ h | exact kept_reply _ (h.calm (calm_startTest _ _ _ _ _ (.refl _ _)))

theorem kept_testAbort (h : Kept z s) : Kept z s.testAbort := by
  unfold State.testAbort
  repeat' split
  all_goals first | exact kept_reply _ h | exact kept_reply _ (h.calm (calm_abortTest _ (.refl _ _)))

theorem kept_faultPolicy (a : PolicyArgs) (h : Kept z s) : Kept z (s.faultPolicy a) := by
  unfold State.faultPolicy
  dsimp only
  split
  · exact kept_reply _ h
  · exact kept_reply _ (kept_applyFaults _ _ h)

theorem kept_faultClear (x : ClearSel) (h : Kept z s) : Kept z (s.faultClear x) := by
  have hc : ∀ (l : List FaultId) {t : State}, Kept z t → Kept z (l.foldl (fun s i => s.clearRecord i) t) := by
    intro l
    induction l with
    | nil => exact fun h => h
    | cons i l ih => exact fun h => ih (h.calm (calm_clearRecord _ (.refl _ _)))
  unfold State.faultClear
  dsimp only
  split
  · exact kept_reply _ (hc _ h)
  · exact kept_reply _ h
  · exact kept_reply _ (hc _ h)

theorem kept_faultRead (r : Option (Enum FaultId)) (h : Kept z s) : Kept z (s.faultRead r) := by
  unfold State.faultRead
  split <;> exact kept_reply _ h

theorem kept_beginSave (h : Kept z s) : Kept z s.beginSave := kept_ite _ h (kept_hold (kept_modSts _ h))

theorem kept_beginRegion (v : Region) (f : List Byte) (h : Kept z s) : Kept z (s.beginRegion v f) :=
  kept_ite _ h (kept_hold (kept_modSts _ h))

theorem kept_identityWrite (n : Nat) (i : List Byte) (h : Kept z s) : Kept z (s.identityWrite n i) := by
  unfold State.identityWrite
  repeat' split
  all_goals first | exact kept_reply _ h | exact kept_beginRegion _ _ h

theorem kept_calibrate (c g : Nat) (o : Int) (h : Kept z s) : Kept z (s.calibrate c g o) := by
  unfold State.calibrate
  repeat' split
  all_goals first | exact kept_reply _ h | exact kept_beginRegion _ _ h

end Sys2Proof.Machine
end

