-- ==== Sys2Proof/Laws/Requests.lean ====
section
/-!
SUPPORT. What executing the oldest unanswered request comes to, and what a reply leaves (R171, R172).
-/

namespace Sys2Proof.Machine

variable {s : State}

theorem front_of_asks {body : List Byte} (h : s.asks body) :
    ∃ e, s.plk.front = some e ∧ e.executing = false ∧ e.body = body := by
  obtain ⟨-, h⟩ := h
  unfold State.asked at h
  cases hf : s.plk.front with
  | none => simp [hf] at h
  | some e =>
    simp only [hf, Option.bind_some] at h
    split at h
    · cases h
    · exact ⟨e, rfl, by simp_all, by simpa using h⟩

/-- A reply formed while the queue's front bears the code. -/
theorem reply_eq {c : Byte} {rest : List Byte} (h : s.asked = some (c :: rest)) (a : Answer) :
    s.reply a = s.replied c a.code a.fields := by
  unfold State.asked at h
  unfold State.reply State.replied
  cases hf : s.plk.front with
  | none => simp [hf] at h
  | some e =>
    simp only [hf, Option.bind_some] at h
    split at h
    · cases h
    · have hb : e.body = c :: rest := by simpa using h
      simp [codeOf, State.modPlk, hb]

/-- A request whose body reads as the command's arguments is executed. -/
theorem live_request {α : Type} [DecidableEq α] {code : Nat} {c : Byte} {rest : List Byte} {f : Reader α} {a : α}
    (run : State → State) (h : s.asks (c :: rest)) (hc : c.toNat = code) (hr : readAll f rest = some a) :
    (s.live fun s => s.request code f a run) = (run s).settle := by
  obtain ⟨e, hf, hx, hb⟩ := front_of_asks h
  simp [State.live, h.1, State.request, hf, hx, hb, hc, hr]

/-- A request whose body cannot be read as the arguments is answered BAD_ARGUMENT. -/
theorem live_request_unreadable {α : Type} [DecidableEq α] {code : Nat} {c : Byte} {rest : List Byte} {f : Reader α}
    {a : α} (run : State → State) (h : s.asks (c :: rest)) (hc : c.toNat = code) (hr : readAll f rest = none) :
    (s.live fun s => s.request code f a run) = (s.replied c .badArgument []).settle := by
  obtain ⟨e, hf, hx, hb⟩ := front_of_asks h
  simp [State.live, h.1, State.request, hf, hx, hb, hc, hr, reply_eq h.2, Answer.no]

/-- A reply leaves what was asked to the next request; nothing outside the request queue changes. -/
@[simp] theorem replied_le (c : Byte) (r : Code) (f : List Byte) : (s.replied c r f).le = s.le := rfl
@[simp] theorem replied_settings (c : Byte) (r : Code) (f : List Byte) : (s.replied c r f).settings = s.settings := rfl
@[simp] theorem replied_dormant (c : Byte) (r : Code) (f : List Byte) : (s.replied c r f).dormant = s.dormant := rfl

/-- What the queue asks depends on the request queue alone. -/
theorem asked_congr {t : State} (h : t.plk.requests = s.plk.requests) : t.asked = s.asked := by
  simp [State.asked, PLK.front, h]

end Sys2Proof.Machine
end

