-- ==== Sys2Proof/WellFormed.lean ====
section
/-!
DEFINITION. Well-formed commands: the operands are ones the frames, messages and measurements can carry (R59, R168 and
the ranges of the events' own rules). Every command has its meaning on every operand; well-formedness says which
operands the outside can send.
-/

namespace Sys2Proof

/-- A number that its field's bytes can hold. -/
def fits (bytes n : Nat) : Bool := n < 256 ^ bytes

def fitsOpt (bytes : Nat) : Option Nat → Bool
  | none => true
  | some n => fits bytes n

/-- A code outside the set is still one byte (R168). -/
def Enum.wf {α : Type} (known : α → Bool) : Enum α → Bool
  | .known a => known a
  | .outside c => fits 1 c

def Enum.wfOpt {α : Type} : Option (Enum α) → Bool
  | none => true
  | some e => e.wf fun _ => true

/-- A class and a source are two bytes (R165 to R167). -/
def wfRecord : Option (Enum FaultId) → Bool
  | some (.outside c) => fits 2 c
  | _ => true

def Plan.wf : Plan → Bool
  | .ring c => fits 1 c
  | _ => true

/-- A symbol's measurements: E is a number of qdB, and there is one pair per downstream tone and one reading per
upstream tone, or none where the receiver forms none. -/
def SymbolIn.wf (x : SymbolIn) : Bool :=
  (x.tones.length == 0 || x.tones.length == 224) && (x.upstream.length == 0 || x.upstream.length == 26)
    && x.upstream.all (· ≤ 240)

/-- A raw code is a signed number from -32,768 to 32,767 (R119). -/
def Sample.wf (x : Sample) : Bool := decide (-32768 ≤ x.raw) && decide (x.raw ≤ 32767)

def PerChan.all {α : Type} (f : α → Bool) (t : PerChan α) : Bool :=
  f t.battV && f t.battI && f t.adapterV && f t.lineTipE && f t.lineRingE && f t.lineTR && f t.paV && f t.paI
    && f t.pbV && f t.pbI && f t.dieT && f t.ldI

/-- Well-formedness of a command's operands. -/
def Instr.wf : Instr → Bool
  | .requestFrame _ body => body.length ≤ 1600
  | .dataUp _ body => body.length ≤ 1600
  | .lineConfigure le m up => Enum.wfOpt le && fitsOpt 1 m && Enum.wfOpt up
  | .lineTableRead d t => d.wf (fun _ => true) && t.wf (fun _ => true)
  | .toneMask a rs => a.wf (fun _ => true) && rs.length ≤ 255 && rs.all fun r => fits 1 r.1 && fits 1 r.2
  | .gateConfigure h w i a => fitsOpt 1 h && fitsOpt 1 w && fitsOpt 1 i && Enum.wfOpt a
  | .gateStatus c => Enum.wfOpt c
  | .scheduleConfigure r => r.wf fun _ => true
  | .scheduleStatus c => Enum.wfOpt c
  | .portConfigure p e l t f fe li re ic =>
    p.wf (fun _ => true) && Enum.wfOpt e && fitsOpt 1 l && fitsOpt 1 t && Enum.wfOpt f && Enum.wfOpt fe
      && Enum.wfOpt li && Enum.wfOpt re && Enum.wfOpt ic
  | .cadenceSet c ps => fits 1 c && ps.length ≤ 255 && ps.all fun r => fits 2 r.1 && fits 2 r.2
  | .portStatus p c => p.wf (fun _ => true) && Enum.wfOpt c
  | .ringPlan p pl => p.wf (fun _ => true) && pl.wf Plan.wf
  | .intercom p => p.wf fun _ => true
  | .digitsRead p => p.wf fun _ => true
  | .snapshot k => k.wf fun _ => true
  | .measureConfigure r es k =>
    Enum.wfOpt r && Enum.wfOpt k &&
      match es with
      | none => true
      | some l => l.length ≤ 255 && l.all fun e => e.wf fun _ => true
  | .supplyConfigure t c r => fitsOpt 2 t && fitsOpt 2 c && fitsOpt 1 r
  | .testStart k t => k.wf (fun _ => true) && t.wf (fun _ => true)
  | .faultPolicy r p l a b c f k =>
    wfRecord r && Enum.wfOpt p && fitsOpt 1 l && fitsOpt 1 a && fitsOpt 1 b && fitsOpt 1 c && fitsOpt 1 f
      && fitsOpt 2 k
  | .faultRead r => wfRecord r
  | .faultHistory n st => fits 1 n && fitsOpt 2 st
  | .identityWrite sn ident => fits 4 sn && ident.length ≤ 255
  | .calibrate c g o => fits 1 c && fits 2 g && decide (-32768 ≤ o) && decide (o ≤ 32767)
  | .upstreamTable ts => ts.length == 26 && ts.all fun t => decide (t.1 ≤ 15) && decide (t.2 ≤ 240)
  | .symbolReceived x => x.wf
  | .retrain _ len body => body.length ≤ 117 && len.toNat ≤ 117
  | .unknownTypeMessage ty _ len body =>
    body.length ≤ 117 && len.toNat ≤ 117
      && !([0x50, 0x51, 0x52, 0x60, 0x61, 0x70, 0x78, 0x7E, 0x7F].contains ty.toNat)
  | .ack _ len body => body.length ≤ 117 && len.toNat ≤ 117
  | .nak _ len body => body.length ≤ 117 && len.toNat ≤ 117
  | .upTable _ len body => body.length ≤ 117 && len.toNat ≤ 117
  | .alert _ len body => body.length ≤ 117 && len.toNat ≤ 117
  | .clear _ len body => body.length ≤ 117 && len.toNat ≤ 117
  | .answered _ len body => body.length ≤ 117 && len.toNat ≤ 117
  | .testReq _ len body => body.length ≤ 117 && len.toNat ≤ 117
  | .beaconClear _ len body => body.length ≤ 117 && len.toNat ≤ 117
  | .transactionTimeout n => n < 16
  | .upstreamSuperframe x y => x.length ≤ 80 && y.length ≤ 80
  | .downstreamSuperframe p => p.length ≤ 13104
  | .sweepPeriodStart xs => xs.all Sample.wf
  | .powerOnReset _ | .pinReset _ | .wake _ | .settingsLoadEnd | .frameError _ | .frameSent | .unknownRequest
  | .lineStatus | .restartLine | .restartPorts | .custodyClaim | .custodyRelease | .callStatus | .measureRead
  | .supplyStatus | .testAbort | .testRead | .faultClear _ | .settingsSave | .settingsSaveWriteEnd
  | .settingsDefaults | .identityRead | .regionWriteEnd | .quietTimerExpiry | .startReply | .refusal
  | .handshakeTimeout | .probeEnd | .confirmation _ | .exchangeTimeout | .backOffExpiry | .windowMissed
  | .syncFailureLoss | .lowPowerLoss | .retrainTimeout | .profileTimerExpiry | .evaluation | .swapApply
  | .rateApply | .upTableApply | .codingApply _ | .agreementInForce | .replacementInForce | .agreementEnd
  | .gateRetryExpiry | .impulseSecondClose | .hookSample _ _ _ | .offHook _ | .onHook _ | .ringTrip _
  | .offHookOnTest _ | .pulseTrainEnd _ | .toneDigit _ _ | .toneAbsenceEnd _ | .polaritySwapEnd _
  | .cadencePhaseEnd _ | .feedOvercurrent _ | .ringOverload _ | .admissionWaitExpiry _ | .holdOffExpiry
  | .decisionTimerExpiry _ | .alertTimerExpiry _ | .graceTimerExpiry | .sweepEnd | .mainsTimerExpiry
  | .recoveryTimerExpiry | .cutoffTimerExpiry | .lowBatteryTimerExpiry | .batteryGoodTimerExpiry
  | .lossMessageTimeout | .armingTimeout | .testDurationEnd | .retryTimerExpiry _ | .spacingTimerExpiry => true

end Sys2Proof
end

