-- ==== Sys2Proof/Tests/Slice0.lean ====
section
/-!
SUPPORT. Tests: ill-formed commands that WellFormed refuses, values from the manual's worked sequences, and for each
statement states and operands that meet its hypotheses, clause by clause.
-/

-- One at a time: many evaluations side by side start too many threads.
set_option Elab.async false

namespace Sys2Proof.Tests
open Sys2Proof Sys2Proof.Machine

/-! ## Small states -/

/-- The state a command leaves. -/
def after (c : Instr) (s : State) : State :=
  match exec c s with
  | .next t => t
  | .fault _ => s
  | .refused _ => s

/-- An open link with one request waiting. -/
def asking (s : State) (body : List Byte) : State :=
  s.modPlk fun k => { k with
    isOpen := true, requests := [{ tag := 0x21, body := body, executing := false, reply := none }] }

/-- A fed, on-hook port that nothing holds. -/
def idlePort : PP := { Reset.port with feed := .standby, hold := ⟨false, false, false, false, false⟩ }

/-- A part in service on mains, both ports idle, the host's link open, custody with the box. -/
def serving : State :=
  { State.reset with
    le := { Reset.le with link := .inService, hold := ⟨false, false, false, false, false, false⟩ }
    ports := ⟨idlePort, idlePort⟩
    cc := { Reset.cc with custody := .box, pDown := 400, pUp := 400 }
    sup := { Reset.sup with mode := .mains, adapter := .present, procPwr := true }
    plk := { Reset.plk with isOpen := true }
    sts := { Reset.sts with loading := false, startedRaised := true } }

def inPart (s : State) : State := s.modCc fun c => { c with custody := .part }
def linkAt (l : LinkState) (s : State) : State := s.modLe fun x => { x with link := l }
def modeAt (m : SupplyMode) (s : State) : State := s.modSup fun x => { x with mode := m }
def portA (f : PP → PP) : State := serving.modPort .a f
def detectA (f : Detect → Detect) : State := portA fun x => { x with detect := f x.detect }
def callA (f : CallRec → CallRec) : State := serving.modCallRaw .a f
def testing (c : CurrentTest) (s : State) : State := s.modTu fun t => { t with current := some c }

def aTest (k : TestKind) (t : Target) (r : Requester) (ph : Phase) : CurrentTest :=
  { kind := k, target := t, requester := r, priority := false, reqNumber := none, phase := ph, start := none
    timeLeft := if ph = .running then some 0 else none, arm := if ph = .arming then some 0 else none
    r0 := ⟨0, 0, 0⟩, r1 := ⟨0, 0, 0⟩, r2 := ⟨0, 0, 0⟩ }

def someSched (n : Sf) : Sched := { period := 4000, width := 4, anchor := n, offset := 0, origin := 0 }
def agreed (a : Agreement) : State := serving.modFt fun x => { x with agreement := some a }
def faultAt (i : FaultId) (st : FaultState) (t : Timer) : State :=
  serving.modFault i fun r => { r with state := st, retry := t }
/-- A record whose condition is present, under a policy. -/
def present (i : FaultId) (st : FaultState) (p : Policy) (s : State) : State :=
  (s.modFault i fun r => { r with state := st, condition := true }).modSettings fun x => { x with
    faults := { x.faults with records := x.faults.records.set i { policy := p, level := 1 } } }
def someTx (k : TxKind) (p : Option Port) (sends : Nat) : Tx :=
  { req := { kind := k, port := p, body := [], tag := 0 }, number := 3, sends := sends, timeLeft := some 0 }
def withTx (t : Tx) (s : State) : State := s.modSs fun x => { x with txs := [t] }
def noTones : SymbolIn := { energy := 0, syncPass := true, belowFloor := false, tones := [], upstream := [] }
def someSample : Sample := { raw := 0, first := 0, second := 0 }
/-- A far end's table: 26 tones of 2 bits at 100. -/
def farTable : List (Nat × Nat) := List.replicate 26 (2, 100)
def strong (n : Nat) : List ToneRec := List.replicate n { s := 240, b := 4, masked := false }

/-! ## Ill-formed commands -/

theorem test_wf_frame : (Instr.requestFrame 0 (List.replicate 1601 0)).wf = false
    ∧ (Instr.dataUp 0 (List.replicate 1601 0)).wf = false := by decide +kernel
theorem test_wf_line : (Instr.lineConfigure none (some 256) none).wf = false
    ∧ (Instr.lineConfigure (some (.outside 256)) none none).wf = false
    ∧ (Instr.lineTableRead (.outside 256) (.known .running)).wf = false
    ∧ (Instr.toneMask (.known .mask) [(256, 0)]).wf = false
    ∧ (Instr.toneMask (.outside 256) []).wf = false := by decide +kernel
theorem test_wf_gate : (Instr.gateConfigure (some 256) none none none).wf = false
    ∧ (Instr.gateStatus (some (.outside 256))).wf = false ∧ (Instr.scheduleConfigure (.outside 256)).wf = false
    ∧ (Instr.scheduleStatus (some (.outside 256))).wf = false := by decide +kernel
theorem test_wf_ports : (Instr.portConfigure (.outside 256) none none none none none none none none).wf = false
    ∧ (Instr.portConfigure (.known .a) none (some 256) none none none none none none).wf = false
    ∧ (Instr.cadenceSet 256 []).wf = false ∧ (Instr.cadenceSet 0 [(65536, 0)]).wf = false
    ∧ (Instr.portStatus (.outside 256) none).wf = false ∧ (Instr.digitsRead (.outside 256)).wf = false := by decide +kernel
theorem test_wf_calls : (Instr.ringPlan (.known .a) (.known (.ring 256))).wf = false
    ∧ (Instr.ringPlan (.known .a) (.outside 256)).wf = false ∧ (Instr.intercom (.outside 256)).wf = false := by decide +kernel
theorem test_wf_measure : (Instr.snapshot (.outside 256)).wf = false
    ∧ (Instr.measureConfigure none (some [.outside 256]) none).wf = false
    ∧ (Instr.supplyConfigure (some 65536) none none).wf = false
    ∧ (Instr.sweepPeriodStart ⟨⟨32768, 0, 0⟩, someSample, someSample, someSample, someSample, someSample, someSample,
        someSample, someSample, someSample, someSample, someSample⟩).wf = false := by decide +kernel
theorem test_wf_faults : (Instr.testStart (.outside 256) (.known .line)).wf = false
    ∧ (Instr.faultPolicy (some (.outside 65536)) none none none none none none none).wf = false
    ∧ (Instr.faultPolicy none none (some 256) none none none none none).wf = false
    ∧ (Instr.faultRead (some (.outside 65536))).wf = false ∧ (Instr.faultHistory 256 none).wf = false := by decide +kernel
theorem test_wf_store : (Instr.identityWrite 4294967296 []).wf = false ∧ (Instr.calibrate 0 65536 0).wf = false
    ∧ (Instr.calibrate 0 0 32768).wf = false := by decide +kernel
theorem test_wf_line_events : (Instr.upstreamTable []).wf = false
    ∧ (Instr.upstreamTable (List.replicate 26 (16, 0))).wf = false
    ∧ (Instr.upstreamTable (List.replicate 26 (2, 241))).wf = false
    ∧ (Instr.upstreamTable farTable).wf = true
    ∧ (Instr.symbolReceived { noTones with tones := [(0, 0)] }).wf = false := by decide +kernel
theorem test_wf_messages : (Instr.ack 0 118 []).wf = false ∧ (Instr.nak 0 0 (List.replicate 118 0)).wf = false
    ∧ (Instr.unknownTypeMessage 0x7E 0 0 []).wf = false ∧ (Instr.transactionTimeout 16).wf = false := by decide +kernel
theorem test_wf_superframes : (Instr.upstreamSuperframe (List.replicate 81 0) []).wf = false := by decide +kernel

/-! ## Values of the manual -/

/-- 1.6: a target of 6 dB after one CAPACITY failure gives a margin in use of 12 qdB, after three 0. -/
theorem test_margin_in_use : (serving.modLe fun x => { x with reduction := 3 }).margin = 12
    ∧ (serving.modLe fun x => { x with reduction := 9 }).margin = 0 := by decide +kernel
/-- 7.3: the averages of the two windows given there. -/
theorem test_averages : roundHalfAway (1240 + 1241 + 1240) 3 = 1240 ∧ roundHalfAway (-10892) 8 = -1362 := by decide +kernel
/-- 7.4: BATT_V 1,240 and LD_I 350 are 4,340 mW, and a sweep of 4 ms adds 17,360 microjoules. -/
theorem test_line_power : Consumer.power .line 1240 350 = 4340
    ∧ (Account.credit ⟨0, 0⟩ (Consumer.power .line 1240 350 * sweepMs .r250)).1 = ⟨17360, 1⟩ := by decide +kernel
/-- R168: the check of an empty REQUEST body is over LEN, KIND and TAG; the standard's own check value of the nine
digits "1" to "9" is 0x29B1. -/
theorem test_crc16 : crc16 [0x31, 0x32, 0x33, 0x34, 0x35, 0x36, 0x37, 0x38, 0x39] = 0x29B1 := by decide +kernel
/-- R35: a counter value is ahead by 1 to 2^31 - 1, wrapping. -/
theorem test_ahead : ahead 0 0xFFFFFFFF = true ∧ ahead 5 5 = false ∧ ahead 0x80000000 0 = false
    ∧ ahead 0x7FFFFFFF 0 = true := by decide +kernel
/-- R29: with no call the need is 16 bits; with one and W = 0 it is ceil(832 / 39) = 22. -/
theorem test_need : lifelineNeed 0 0 = 16 ∧ lifelineNeed 1 0 = 22 := by decide +kernel
/-- R12: the waits of the first steps, and their limits of 8 s and 64 s. -/
theorem test_backoff : backoffMs .retryFast 0 = 1000 ∧ backoffMs .retryFast 5 = 8000 ∧ backoffMs .retrySlow 0 = 2000
    ∧ backoffMs .retrySlow 5 = 64000 := by decide +kernel
/-- 5.11: a make after 66 ms of break is a pulse, and one after 12 ms a glitch. -/
theorem test_breaks :
    (((portA fun x => { x with feed := .active, hook := .brk, detect := { x.detect with breakMs := 65 } }).hookSample
      .a 28 0).port .a).pulses = 1
    ∧ (((portA fun x => { x with feed := .active, hook := .brk, detect := { x.detect with breakMs := 11 } }).hookSample
      .a 28 0).port .a).counts.glitches = 1 := by decide +kernel
/-- 5.11: the 20th sample at 28 mA lifts the handset. -/
theorem test_off_hook : ((after (.offHook .a) (detectA fun d => { d with offRun := 20 })).port .a).hook = .offHook
    ∧ ((after (.offHook .a) (detectA fun d => { d with offRun := 19 })).port .a).hook = .onHook := by decide +kernel
/-- 5.12: cadence 0 rings 1,200 ms and pauses 4,800 ms. -/
theorem test_cadence : ((serving.ringPort .a 0).port .a).cadence.map (·.timeLeft) = some 1200
    ∧ ((after (.cadencePhaseEnd .a) (serving.ringPort .a 0)).port .a).cadence.map (·.timeLeft) = some 4800 := by
  decide +kernel
/-- R113: a claim is taken in MAINS and refused in RESERVE. -/
theorem test_claim : (after .custodyClaim (asking (inPart serving) [0x1A])).cc.custody = .box
    ∧ (after .custodyClaim (asking (inPart (modeAt .reserve serving)) [0x1A])).cc.custody = .part := by decide +kernel
/-- R178, R180: after a power-on the settings load ends in the defaults. -/
theorem test_load : (after .settingsLoadEnd State.reset).sts.loading = false
    ∧ (after .settingsLoadEnd State.reset).settings.ratio = .four := by decide +kernel
/-- Log 2: an idle millisecond counts. -/
theorem test_idle : step State.reset = .next { State.reset with uptimeMs := 1 } := rfl
/-- R81: the first POLARITY_SWAP_END leaves the dead interval for the wanted polarity. -/
theorem test_polarity : ((after (.polaritySwapEnd .a)
    (portA fun x => { x with feed := .polaritySwap, wanted := .reversed })).port .a).feed = .reversed := by decide +kernel
/-- R30: a table of 48 bits carries 234 bytes in a superframe. -/
theorem test_payload : payloadBytes 48 0 = 234 := by decide +kernel

/-! ## Witnesses: the machine, starts, the link -/

/-- R104, R106: a SEIZE that fails in CLEARING gives the cause PROTOCOL; a NAK leaves the cause recorded. -/
theorem test_seize_in_clearing :
    ((callA fun r => { r with state := .clearing, cause := .normal }).seizeEnded .a .failed).cc.recs.a.cause = .protocol
    ∧ ((callA fun r => { r with state := .clearing, cause := .normal }).seizeEnded .a .nak).cc.recs.a.cause = .normal := by
  decide +kernel
/-- R130, R168: asserted and absent, in the order listed. -/
theorem test_supply_bytes : (serving.supplyContent.take 8).drop 5 = [0, 0, 1] := by decide +kernel
/-- R48: a window 100 symbols before service, then every 4,000: the first from superframe 8 on starts at 3,900, in its
superframe at 3,900 mod 40 = 20. -/
theorem test_offset_of_exchange : ((someSched 8).inService (0 - 100)).offset = 20 := by decide +kernel

theorem serving_safe : serving.safe := by
  repeat' apply And.intro
  all_goals decide +kernel

theorem witness_EveryStepKeepsSafe : serving.safe ∧ ∃ t, step serving = .next t := ⟨serving_safe, _, rfl⟩

theorem witness_DormantWaits : State.reset.sleep.dormant = true ∧ State.reset.sleep.pending = []
    ∧ State.reset.sleep.uptimeMs < 999 ∧ 999 ≤ { State.reset.sleep with uptimeMs := 999 }.uptimeMs
    ∧ State.reset.sleep.resetLow = false ∧ serving.holdReset.dormant = true ∧ serving.holdReset.resetLow = true
    ∧ ∀ strap, Instr.sweepEnd ≠ .powerOnReset strap ∧ Instr.sweepEnd ≠ .pinReset strap ∧ Instr.sweepEnd ≠ .wake strap := by
  refine ⟨rfl, rfl, by decide +kernel, by decide +kernel, rfl, rfl, rfl, fun b => by cases b <;> decide +kernel⟩

/-- A port that plays a tone to a handset, ms into its cycle. -/
def toning (t : Tone) (ms : Nat) : PP := { idlePort with feed := .active, hook := .offHook, tone := t, toneMs := ms }

theorem witness_IdleMillisecond : serving.dormant = false ∧ serving.resetLow = false ∧ serving.pending = []
    ∧ serving.plk.frame = none ∧ serving.uptimeMs < 999 ∧ 999 ≤ { serving with uptimeMs := 999 }.uptimeMs
    ∧ (serving.modPlk fun k => { k with frame := some ⟨.data, [0xC3], 0⟩ }).plk.frame = some ⟨.data, [0xC3], 0⟩
    ∧ idlePort.feed ≠ .active ∧ idlePort.feed ≠ .reversed
    ∧ (toning .busy 399).feed = .active ∧ (toning .busy 399).audio = .none ∧ (toning .noService 0).toneMs = 0
    ∧ { toning .none 0 with audio := .line, feed := .reversed }.feed = .reversed
    ∧ (toning .ringback 999).heard = .hz450 ∧ (toning .ringback 1000).heard = .silence
    ∧ (toning .busy 799).passTimers.toneMs = 0 ∧ (toning .congestion 399).passTimers.toneMs = 0 := by decide +kernel

theorem witness_StepEndFrame : (serving.modSup fun x => { x with loss := .ended }).sup.loss = .ended
    ∧ serving.dormant = false ∧ serving.settle.dormant = false ∧ serving.settle.le.link = serving.le.link
    ∧ serving.settle.sup.procPwr = serving.sup.procPwr ∧ State.reset.plk.isOpen = false
    ∧ (serving.modPlk fun k => { k with frame := some ⟨.data, [0xC3], 0⟩ }).plk.frame ≠ none
    ∧ (serving.raise .link).plk.notices = [.link] := by decide +kernel

/-- In LIFELINE, with a running table of n strong tones. -/
def lifelining (n : Nat) : State :=
  ((serving.modSup fun x => { x with profile := .lifeline }).modLe fun x => { x with inForce := .lifeline }).modTt
    fun x => { x with down := strong n ++ x.down.drop n }
def swapping (s : State) : State := s.modTt fun x => { x with inFlight := .swap 32 33 none none }
def digitsA (state : CallState) (ds : List DigitEntry) : State :=
  (callA fun r => { r with state := state, channel := some 0 }).modPort .a fun x => { x with digits := ds }
def lockedAt (p : Nat) (n : Sym) : State :=
  serving.modFt fun x => { x with tracking := .locked, period := some p, next := some n }

theorem witness_StepEndLaws_profile :
    serving.sup.loss ≠ .ended ∧ serving.laws.sup.loss ≠ .ended ∧ serving.effProfile = serving.le.inForce
    ∧ (serving.modSup fun x => { x with profile := .trim }).effProfile
      ≠ ((serving.modSup fun x => { x with profile := .trim }).le.pending.map (·.profile)).getD
        (serving.modSup fun x => { x with profile := .trim }).le.inForce
    ∧ serving.le.link = .inService ∧ serving.le.changeInFlight = false ∧ serving.ss.waiting = []
    ∧ serving.ss.txs.length < 8 ∧ serving.tt.inFlight = .none ∧ (swapping serving).tt.inFlight ≠ .none
    ∧ (lifelining 12).le.inForce = .lifeline ∧ (lifelining 12).le.pending = none
    ∧ (lifelining 12).le.needInFlight = false ∧ (lifelining 12).tt.needSent ≠ some (lifelining 12).need
    ∧ ((lifelining 12).computeDown (lifelining 12).settings.line.requestedMask .lifeline).sum = 24
    ∧ (((lifelining 12).modCc fun c => { c with nReported := 2 }).computeDown
        (lifelining 12).settings.line.requestedMask .lifeline).sum = 36 := by
  decide +kernel

theorem witness_StepEndLaws_calls :
    (serving.modCc fun c => { c with custody := .releasing }).cc.custody = .releasing
    ∧ (serving.call .a).sub ≠ some .decisionWanted ∧ (serving.call .b).sub ≠ some .decisionWanted
    ∧ serving.cc.nReported = serving.callCount
    ∧ (callA fun r => { r with state := .dialling, channel := some 0 }).cc.nReported
      < (callA fun r => { r with state := .dialling, channel := some 0 }).callCount
    ∧ serving.callCount < (serving.modCc fun c => { c with nReported := 1 }).cc.nReported ∧ serving.cc.holdOff = none
    ∧ ((digitsA .dialling [⟨.num 1, .pulse, .pending⟩]).port .a).digits.filter (fun e => e.mark == .pending) ≠ []
    ∧ ((digitsA .dialling [⟨.star, .tone, .pending⟩]).port .a).digits = [⟨.star, .tone, .pending⟩]
    ∧ ((digitsA .connected [⟨.star, .tone, .pending⟩]).call .a).txs.digit = false
    ∧ (serving.call .a).state ≠ .dialling ∧ (serving.call .a).state ≠ .connected := by decide +kernel

theorem witness_StepEndLaws_gate :
    serving.ft.request = .none ∧ serving.ft.agreement = none ∧ serving.ft.tracking = .searching
    ∧ (agreed ⟨someSched 0, true, none, none⟩).ft.agreement = some ⟨someSched 0, true, none, none⟩
    ∧ (agreed ⟨someSched 0, true, none, some 9⟩).ft.agreement = some ⟨someSched 0, true, none, some 9⟩
    ∧ (lockedAt 4000 100).ft.period = some 4000 ∧ (lockedAt 4000 100).ft.next = some 100
    ∧ (lockedAt 4000 100).ft.tracking = .locked ∧ (lockedAt 4000 100).settings.gate.agreementEnable = true
    ∧ (lockedAt 4000 100).ft.retry = none := by decide +kernel

theorem witness_StepEndLaws_faults :
    (∀ i, serving.endDue i = false) ∧ serving.fs.endReport = none ∧ serving.fs.spacing = none
    ∧ ((faultAt .leakage .clear none).modFault .leakage fun r => { r with owed := true }).highest
        (allFaults.filter ((faultAt .leakage .clear none).modFault .leakage fun r => { r with owed := true }).endDue)
      = some .leakage
    ∧ (serving.ss.outQueue.filter fun m => !m.isSend).length < 24
    ∧ 24 ≤ ((serving.modSs fun x => { x with outQueue := List.replicate 24 ⟨.beacon, [], false⟩ }).ss.outQueue.filter
        fun m => !m.isSend).length
    ∧ serving.sup.mode = .mains ∧ serving.sup.procPwr = true ∧ State.reset.sup.mode = .start
    ∧ State.reset.sup.procPwr = false ∧ (serving.modSup fun x => { x with procPwr := false }).sup.procPwr = false
    ∧ (modeAt .reserve serving).cc.custody ≠ .part ∧ (inPart (modeAt .reserve serving)).cc.custody = .part := by
  refine ⟨fun i => by cases i <;> decide +kernel, ?_⟩
  decide +kernel

theorem witness_StartsReset : State.reset.sleep.dormant = true ∧ State.reset.sleep.resetLow = false
    ∧ serving.dormant = false := by decide +kernel

/-- A start whose stored record and region are whole. -/
def stored (whole : Bool) : State :=
  State.reset.modSts fun x => { x with
    stored := some { values := Config.defaults, check := crc16 (Config.recordImage Config.defaults), whole := whole }
    storedRegion := some { values := Reset.region, check := crc16 Reset.region.image, whole := whole } }

theorem witness_SettingsLoadEnds : (stored true).dormant = false ∧ (stored true).sts.loading = true
    ∧ (∃ r, (stored true).sts.stored = some r ∧ r.whole = true ∧ r.check = crc16 (Config.recordImage r.values))
    ∧ (∃ r, (stored false).sts.stored = some r ∧ r.whole = false)
    ∧ (∃ g, (stored true).sts.storedRegion = some g ∧ g.whole = true ∧ g.check = crc16 g.values.image)
    ∧ (∃ g, (stored false).sts.storedRegion = some g ∧ g.whole = false)
    ∧ State.reset.sts.stored = none ∧ State.reset.sts.storedRegion = none
    ∧ State.reset.fs.recs.settingsCorrupt.state = .clear
    ∧ Config.defaults.faults.records.settingsCorrupt.policy = .report ∧ Config.defaults.line.linkEnable = true
    ∧ State.reset.le.hold.disabled = true ∧ State.reset.le.link.driverOn = false ∧ serving.sts.loading = false :=
  ⟨rfl, rfl, ⟨_, rfl, rfl, rfl⟩, ⟨_, rfl, rfl⟩, ⟨_, rfl, rfl, rfl⟩, ⟨_, rfl, rfl⟩, rfl, rfl, rfl, rfl, rfl, rfl, rfl,
    rfl⟩

/-- The link with its request queue and busy-answer list holding the numbers of entries given. -/
def queued (n m : Nat) : State :=
  serving.modPlk fun k => { k with
    requests := List.replicate n { tag := 0, body := [0x01], executing := false, reply := none }
    busy := List.replicate m { tag := 0, reply := { order := 0, body := [0x01, 0x01] } } }
def cells (n : Nat) (xon : Bool) : State :=
  serving.modSs fun x => { x with
    upQueue := List.replicate n { start := true, fin := true, index := 0, seq := 0, data := [0] }, xon := xon }

theorem witness_FramesAreTaken : serving.dormant = false ∧ serving.plk.isOpen = true ∧ serving.plk.rx = .hunt
    ∧ (queued 3 0).plk.requests.length < 4 ∧ 4 ≤ (queued 4 3).plk.requests.length
    ∧ (queued 4 3).plk.busy.length < 4 ∧ 4 ≤ (queued 4 4).plk.busy.length
    ∧ (cells 96 true).ss.upQueue.length + ([0].length + 59) / 60 ≤ 128 ∧ 96 < (cells 96 true).ss.upQueue.length + 1
    ∧ (cells 95 true).ss.upQueue.length + 1 ≤ 96 ∧ 32 < (cells 32 false).ss.upQueue.length + 1
    ∧ 128 < (cells 128 true).ss.upQueue.length + ([0].length + 59) / 60 := by decide +kernel

theorem witness_OtherStreamsAreBytes : (serving.modPlk fun k => { k with rx := .body }).plk.rx ≠ .hunt
    ∧ 1600 < (List.replicate 1601 (0 : Byte)).length ∧ State.reset.plk.isOpen = false
    ∧ [0, 1] ≠ w16 (crc16 (w16 0 ++ [0x10, 0])).toNat
    ∧ w16 (crc16 (w16 0 ++ [0x30, 0])).toNat = w16 (crc16 (w16 ([] : List Byte).length ++ [0x30, 0] ++ [])).toNat
    ∧ (w16 (crc16 (w16 0 ++ [0x30, 0])).toNat).length = 2 := by decide +kernel

theorem witness_GoodFrameIsTaken : serving.dormant = false ∧ serving.plk.isOpen = true ∧ serving.plk.rx = .hunt
    ∧ ([0x01] : List Byte).length ≤ 1600 ∧ (0xC3 : Byte) ∉ ([0x00, 0xFF] : List Byte) := by decide +kernel

def sending (src : FrameSrc) : State := serving.modPlk fun k => { k with frame := some { src := src, bytes := [] } }

theorem witness_FramesAreSent : (∃ f, (sending (.reply 0)).plk.frame = some f ∧ f.src = .reply 0)
    ∧ (∃ f, (sending (.notice .link)).plk.frame = some f ∧ f.src = .notice .link)
    ∧ (∃ f, (sending .data).plk.frame = some f ∧ f.src = .data)
    ∧ serving.plk.isOpen = true ∧ serving.plk.frame = none ∧ serving.plk.replies = []
    ∧ (queued 0 1).plk.replies = [(0, { order := 0, body := [0x01, 0x01] })]
    ∧ (serving.raise .link).plk.notices = [.link]
    ∧ (serving.modPlk fun k => { k with dataDown := [[1]] }).plk.dataDown = [[1]] :=
  ⟨⟨_, rfl, rfl⟩, ⟨_, rfl, rfl⟩, ⟨_, rfl, rfl⟩, rfl, rfl, rfl, rfl, rfl, rfl⟩

theorem witness_UnfitRequestsRefused : (asking serving []).asks [] ∧ (asking serving [0x7F]).asks [0x7F]
    ∧ (0x7F : Byte).toNat ∉ requestCodes
    ∧ ∀ c ∈ ([0x01, 0x1A, 0x1B, 0x1C, 0x22, 0x29, 0x31, 0x32, 0x40, 0x41, 0x42] : List Byte),
        (asking serving [c, 0]).asks [c, 0] := by decide +kernel

/-! ## Witnesses: requests -/

theorem witness_reads : ∀ c ∈ ([0x01, 0x29, 0x1C, 0x22, 0x32, 0x42] : List Byte),
    (asking State.reset [c]).asks [c] := by decide +kernel

theorem witness_LineStatusAnswers : (List.replicate 255 (0 : Byte)).length < 256
    ∧ (linkAt .retrainWait serving).le.link = .retrainWait := by decide +kernel

theorem witness_CallReadsAnswer : (asking serving (0x1D :: 1 :: wPort .a)).asks (0x1D :: 1 :: wPort .a)
    ∧ (asking serving [0x1D, 1, 0]).asks [0x1D, 1, 0] ∧ (asking serving [0x1D, 1, 3]).asks [0x1D, 1, 3] := by
  decide +kernel

theorem witness_FaultReadsAnswer : (asking serving [0x3A, 0]).asks [0x3A, 0]
    ∧ (asking serving (0x3A :: 1 :: wFault .settingsCorrupt)).asks (0x3A :: 1 :: wFault .settingsCorrupt)
    ∧ faultOf 0xFF 0 = none ∧ (asking serving [0x3A, 1, 0xFF, 0]).asks [0x3A, 1, 0xFF, 0]
    ∧ readAll (rPair (rReq (rNat 1)) (rArg (rNat 2))) [1, 16, 0] = some (16, none)
    ∧ readAll (rPair (rReq (rNat 1)) (rArg (rNat 2))) [1, 0, 1, 0, 9] = some (0, some 9) := by decide +kernel

theorem witness_UnitReadsAnswer : ∀ b ∈ ([[0x04, 1, 0, 1, 0], [0x04, 1, 0, 1, 1], [0x04, 1, 1, 1, 0],
    [0x04, 1, 1, 1, 1], [0x04, 1, 2, 1, 0]] : List (List Byte)), (asking serving b).asks b := by decide +kernel

theorem witness_UnitReadsAnswer_outside :
    readAll (rPair (rReq (rEnum directions)) (rReq (rEnum tableSels))) [1, 1, 1, 1]
      = some (.known .up, .known .candidate)
    ∧ readAll (rPair (rReq (rEnum directions)) (rReq (rEnum tableSels))) [1, 2, 1, 0]
      = some (.outside 2, .known .running)
    ∧ readAll (rPair (rReq (rEnum directions)) (rReq (rEnum tableSels))) [1, 0, 1, 2]
      = some (.known .down, .outside 2) := by decide +kernel

theorem witness_UnitReadsAnswer_records : State.reset.tu.results.lineForeign.latest = none
    ∧ (serving.abortTest .requested).tu.results.lineForeign.latest = none
    ∧ ((testing (aTest .lineForeign .line .box .running) serving).abortTest .requested).tu.results.lineForeign.latest
      = some ⟨.aborted, some .requested, .box, 0⟩
    ∧ TestKind.lineForeign ≠ .portLoop := by decide +kernel

theorem witness_StatusReadsClear : ∀ b ∈ ([[0x09, 0], [0x09, 1, 0], [0x09, 1, 1], [0x0D, 0], [0x0D, 1, 0],
    [0x0D, 1, 1], 0x12 :: 1 :: wPort .a ++ [0], 0x12 :: 1 :: wPort .b ++ [1, 0], [0x12, 1, 0, 0],
    0x12 :: 1 :: wPort .b ++ [1, 1],
    [0x12, 1, 3, 0]] : List (List Byte)), (asking serving b).asks b := by decide +kernel

theorem witness_LineConfigureSets : (asking serving [0x02, 1, 1, 1, 16, 0]).asks [0x02, 1, 1, 1, 16, 0]
    ∧ readAll (rPair (rArg (rEnum onOff)) (rPair (rArg (rNat 1)) (rArg (rEnum onOff)))) [1, 1, 1, 16, 0]
      = some (some (.known true), some 16, none)
    ∧ readAll (rPair (rArg (rEnum onOff)) (rPair (rArg (rNat 1)) (rArg (rEnum onOff)))) [1, 2, 0, 0]
      = some (some (.outside 2), none, none)
    ∧ readAll (rPair (rArg (rEnum onOff)) (rPair (rArg (rNat 1)) (rArg (rEnum onOff)))) [1, 0, 0, 0]
      = some (some (.known false), none, none)
    ∧ (asking serving [0x41]).asks [0x41] ∧ serving.cc.custody ≠ .part := by
  refine ⟨?_, ?_, ?_, ?_, ?_⟩ <;> decide +kernel

theorem witness_LineConfigureSets_freed :
    ((asking serving [0x02, 1, 1, 0, 0]).modLe fun x => { x with
      link := .idle, hold := { x.hold with disabled := true } }).asks [0x02, 1, 1, 0, 0]
    ∧ serving.tu.current = none ∧ { serving.le.hold with disabled := false }.isEmpty = true := by decide +kernel

theorem witness_ScheduleConfigureSets : (asking serving [0x0C, 1, 0]).asks [0x0C, 1, 0]
    ∧ (0 : Byte).toNat = ServiceRatio.one.ctorIdx ∧ (3 : Byte).toNat = ServiceRatio.eight.ctorIdx
    ∧ ServiceRatio.n .one < (serving.modSs fun x => { x with p := 2 }).ss.p ∧ 4 ≤ (4 : Byte).toNat := by
  decide +kernel

theorem witness_UnitConfiguresSet :
    (asking serving [0x08, 1, 25, 1, 1, 0, 0]).asks [0x08, 1, 25, 1, 1, 0, 0]
    ∧ readAll (rPair (rArg (rNat 1)) (rPair (rArg (rNat 1)) (rPair (rArg (rNat 1)) (rArg (rEnum onOff)))))
      [1, 25, 1, 1, 0, 0] = some (some 25, some 1, none, none)
    ∧ readAll (rPair (rArg (rNat 1)) (rPair (rArg (rNat 1)) (rPair (rArg (rNat 1)) (rArg (rEnum onOff)))))
      [0, 0, 0, 1, 2] = some (none, none, none, some (.outside 2))
    ∧ (asking serving [0x28, 1, 4, 56, 0, 0]).asks [0x28, 1, 4, 56, 0, 0]
    ∧ readAll (rPair (rArg (rNat 2)) (rPair (rArg (rNat 2)) (rArg (rNat 1)))) [1, 4, 56, 0, 0]
      = some (some 1080, none, none) := by
  refine ⟨?_, ?_, ?_, ?_, ?_⟩ <;> decide +kernel

theorem witness_UnitConfiguresSet_measure : (asking serving [0x21, 1, 0, 0, 0]).asks [0x21, 1, 0, 0, 0]
    ∧ readAll (rPair (rArg (rEnum sweepRates)) (rPair (rArg (rList (rEnum onOff))) (rArg (rEnum snapKinds))))
      [1, 0, 0, 0] = some (some (.known .r1000), none, none)
    ∧ readAll (rPair (rArg (rEnum sweepRates)) (rPair (rArg (rList (rEnum onOff))) (rArg (rEnum snapKinds))))
      [0, 1, 1, 0, 0] = some (none, some [.known false], none)
    ∧ readAll (rPair (rArg (rEnum sweepRates)) (rPair (rArg (rList (rEnum onOff))) (rArg (rEnum snapKinds))))
      [0, 1, 12, 0, 0, 0, 0, 0, 0, 0, 0, 0, 0, 0, 0, 0] = some (none, some (List.replicate 12 (.known false)), none)
    ∧ readAll (rPair (rArg (rEnum sweepRates)) (rPair (rArg (rList (rEnum onOff))) (rArg (rEnum snapKinds))))
      [1, 9, 1, 1, 2, 1, 2] = some (some (.outside 9), some [.outside 2], some (.outside 2))
    ∧ serving.mu.pending = none
    ∧ (serving.modMu fun x => { x with pending := some ⟨.requested, .keep⟩ }).mu.pending.isSome = true
    ∧ (asking serving [0x20, 1, 1]).asks [0x20, 1, 1] ∧ (1 : Byte).toNat = SnapKind.keep.ctorIdx
    ∧ 2 ≤ (2 : Byte).toNat := by
  refine ⟨?_, ?_, ?_, ?_, ?_, ?_, ?_, ?_, ?_, ?_⟩ <;> decide +kernel

theorem witness_PortSettingsSet :
    (asking serving [0x10, 1, 1, 0, 1, 33, 0, 0, 0, 0, 0, 0]).asks [0x10, 1, 1, 0, 1, 33, 0, 0, 0, 0, 0, 0]
    ∧ readAll rPortArgs [1, 1, 0, 1, 33, 0, 0, 0, 0, 0, 0]
      = some ⟨.known .a, none, some 33, none, none, none, none, none, none⟩
    ∧ readAll rPortArgs [1, 3, 0, 0, 0, 0, 0, 0, 0, 0] = some ⟨.outside 3, none, none, none, none, none, none, none, none⟩
    ∧ serving.cc.custody ≠ .part ∧ (inPart serving).cc.custody = .part
    ∧ (asking serving [0x11, 1, 3, 1, 1, 0, 60, 15, 160]).asks [0x11, 1, 3, 1, 1, 0, 60, 15, 160]
    ∧ readAll (rPair (rReq (rNat 1)) (rReq (rList (rPair (rNat 2) (rNat 2))))) [1, 3, 1, 1, 0, 60, 15, 160]
      = some (3, [(60, 4000)])
    ∧ readAll (rPair (rReq (rNat 1)) (rReq (rList (rPair (rNat 2) (rNat 2))))) [1, 4, 1, 0] = some (4, [])
    ∧ readAll (rPair (rReq (rNat 1)) (rReq (rList (rPair (rNat 2) (rNat 2)))))
        ([1, 0, 1, 5] ++ List.replicate 20 0) = some (0, List.replicate 5 (0, 0)) := by decide +kernel

theorem witness_FaultPolicySets :
    (asking serving (0x38 :: 1 :: wFault .leakage ++ [1, 4, 0, 0, 0, 0, 0, 0])).asks
      (0x38 :: 1 :: wFault .leakage ++ [1, 4, 0, 0, 0, 0, 0, 0])
    ∧ readAll rPolicyArgs (1 :: wFault .leakage ++ [1, 4, 0, 0, 0, 0, 0, 0])
      = some ⟨some (.known .leakage), some (.known .silent), none, none, none, none, none, none⟩
    ∧ FaultId.allows .leakage .silent = true ∧ FaultId.allows .leakage .latched = false
    ∧ readAll rPolicyArgs [0, 0, 0, 1, 16, 0, 0, 0, 0] = some ⟨none, none, none, some 16, none, none, none, none⟩
    ∧ readAll rPolicyArgs [0, 0, 1, 5, 0, 0, 0, 0, 0] = some ⟨none, none, some 5, none, none, none, none, none⟩
    ∧ readAll rPolicyArgs [1, 0xFF, 0, 0, 0, 0, 0, 0, 0, 0]
      = some ⟨some (.outside 0xFF00), none, none, none, none, none, none, none⟩
    ∧ readAll rPolicyArgs (1 :: wFault .leakage ++ [1, 9, 0, 0, 0, 0, 0, 0])
      = some ⟨some (.known .leakage), some (.outside 9), none, none, none, none, none, none⟩ := by decide +kernel

/-- A raise under each policy a condition allows; SILENT, a record open, an event record and no condition. -/
theorem witness_FaultPolicySets_raise :
    (∀ x ∈ [(FaultId.trainFail, Policy.latched), (.foreignVoltage, .retryFast), (.thermalWarn, .retrySlow),
        (.thermalShutdown, .retrySlow), (.leakage, .report), (.batteryFault, .silent)],
      let b := 0x38 :: 1 :: wFault x.1 ++ [1, BitVec.ofNat 8 x.2.ctorIdx, 0, 0, 0, 0, 0, 0]
      (asking (present x.1 .clear .report serving) b).asks b ∧ FaultId.allows x.1 x.2 = true
        ∧ FaultId.isCondition x.1 = true ∧ ((present x.1 .recovered .report serving).faultRec x.1).condition = true
        ∧ ((present x.1 .recovered .report serving).faultRec x.1).state.isOpen = false
        ∧ readAll rPolicyArgs (1 :: wFault x.1 ++ [1, BitVec.ofNat 8 x.2.ctorIdx, 0, 0, 0, 0, 0, 0])
          = some ⟨some (.known x.1), some (.known x.2), none, none, none, none, none, none⟩)
    ∧ ((present .leakage .active .report serving).faultRec .leakage).state.isOpen = true
    ∧ FaultId.isCondition .linkLoss = false ∧ (serving.faultRec .leakage).condition = false := by decide +kernel

theorem witness_ToneMaskSets :
    (asking serving [0x05, 1, 0, 1, 1, 32, 255]).asks [0x05, 1, 0, 1, 1, 32, 255]
    ∧ readAll (rPair (rReq (rEnum maskActions)) (rReq (rList (rPair (rNat 1) (rNat 1))))) [1, 0, 1, 1, 32, 255]
      = some (.known .mask, [(32, 255)])
    ∧ readAll (rPair (rReq (rEnum maskActions)) (rReq (rList (rPair (rNat 1) (rNat 1))))) [1, 3, 1, 0]
      = some (.outside 3, [])
    ∧ readAll (rPair (rReq (rEnum maskActions)) (rReq (rList (rPair (rNat 1) (rNat 1))))) [1, 0, 1, 1, 31, 40]
      = some (.known .mask, [(31, 40)])
    ∧ ((serving.modTt fun x => { x with down := strong 3 }).computeDown (List.replicate 224 true) .full).sum < 30
    ∧ 30 ≤ ((serving.modTt fun x => { x with down := strong 3 }).computeDown (List.replicate 224 false) .full).sum
    ∧ serving.tt.inFlight = .none ∧ serving.le.pending = none ∧ serving.le.link = .inService
    ∧ (linkAt .exchange serving).le.link = .exchange
    ∧ (serving.modTt fun x => { x with inFlight := .swap 32 33 none none }).tt.inFlight ≠ .none := by decide +kernel

def writing (w : Write) : State :=
  (serving.modSts fun x => { x with writing := some w, strap := true }).modPlk fun k => { k with
    requests := [{ tag := 0, body := [0x40], executing := true, reply := none }] }

theorem witness_StoresAreWritten :
    (asking serving [0x40]).asks [0x40] ∧ (asking serving [0x41]).asks [0x41] ∧ serving.sts.writing = none
    ∧ (writing (.save Config.defaults)).dormant = false
    ∧ (writing (.save Config.defaults)).plk.front
      = some { tag := 0, body := [0x40], executing := true, reply := none }
    ∧ serving.plk.front = none
    ∧ (asking serving [0x43, 1, 0, 0, 0, 9, 1, 1, 0x41]).asks [0x43, 1, 0, 0, 0, 9, 1, 1, 0x41]
    ∧ readAll (rPair (rReq (rNat 4)) (rReq (rList rByte))) [1, 0, 0, 0, 9, 1, 1, 0x41] = some (9, [0x41])
    ∧ readAll (rPair (rReq (rNat 4)) (rReq (rList rByte))) [1, 0, 0, 0, 9, 1, 1, 0x1F] = some (9, [0x1F])
    ∧ (asking serving [0x44, 1, 11, 1, 0x40, 0, 1, 0, 0]).asks [0x44, 1, 11, 1, 0x40, 0, 1, 0, 0]
    ∧ readAll (rPair (rReq (rNat 1)) (rPair (rReq (rNat 2)) (rReq rInt16))) [1, 11, 1, 0x40, 0, 1, 0, 0]
      = some (11, 16384, 0) ∧ 11 = Chan.ldI.ctorIdx
    ∧ readAll (rPair (rReq (rNat 1)) (rPair (rReq (rNat 2)) (rReq rInt16))) [1, 12, 1, 0x40, 0, 1, 0, 0]
      = some (12, 16384, 0)
    ∧ serving.sts.strap = false ∧ (serving.modSts fun x => { x with strap := true }).sts.strap = true := by
  decide +kernel

theorem witness_RestartsClear : ∀ b ∈ ([[0x03, 1, 0], [0x03, 1, 1], [0x03, 1, 2]] : List (List Byte)),
    (asking serving b).asks b := by decide +kernel

theorem witness_CustodyMoves : (asking serving [0x1A]).asks [0x1A] ∧ (asking serving [0x1B]).asks [0x1B]
    ∧ serving.cc.custody = .box ∧ serving.sup.mode = .mains ∧ (modeAt .reserve serving).sup.mode = .reserve
    ∧ (serving.call .a).sub ≠ some .decisionWanted ∧ (serving.call .b).sub ≠ some .decisionWanted
    ∧ ((callA fun r => { r with sub := some .decisionWanted }).call .a).sub = some .decisionWanted := by
  decide +kernel

theorem witness_CustodyMoves_part :
    (inPart (asking serving [0x18, 1, 1, 1, 1])).asks [0x18, 1, 1, 1, 1]
    ∧ readAll (rPair (rReq rPort) (rReq rPlan)) [1, 1, 1, 1] = some (.known .a, .known .silent)
    ∧ (inPart (asking serving (0x19 :: 1 :: wPort .a))).asks (0x19 :: 1 :: wPort .a)
    ∧ readAll (rReq rPort) (1 :: wPort .a) = some (.known .a)
    ∧ (inPart (asking serving [0x10, 1, 1, 0, 0, 0, 0, 0, 0, 0, 0])).asks [0x10, 1, 1, 0, 0, 0, 0, 0, 0, 0, 0]
    ∧ readAll rPortArgs [1, 1, 0, 0, 0, 0, 0, 0, 0, 0]
      = some ⟨.known .a, none, none, none, none, none, none, none, none⟩
    ∧ (inPart (asking serving [0x11, 1, 0, 1, 1, 0, 100, 0, 100])).asks [0x11, 1, 0, 1, 1, 0, 100, 0, 100]
    ∧ readAll (rPair (rReq (rNat 1)) (rReq (rList (rPair (rNat 2) (rNat 2))))) [1, 0, 1, 1, 0, 100, 0, 100]
      = some (0, [(100, 100)])
    ∧ (inPart (asking serving [0x41])).asks [0x41] ∧ (inPart serving).cc.custody = .part := by decide +kernel

theorem witness_CustodyMoves_last :
    (serving.modCc fun x => { x with custody := .releasing }).cc.custody = .releasing
    ∧ (∀ x ∈ [(0x01 : Byte), 0x1C, 0x22, 0x29, 0x32, 0x42], (asking serving [x]).asks [x]) := by decide +kernel

def deciding : State := callA fun r => { r with state := .alertingIn, sub := some .decisionWanted }
/-- In RESERVE, with the REN of port A measured in tenths. -/
def measured (n : Int) : State :=
  (modeAt .reserve deciding).modTu fun x => { x with results := { x.results with portLoopA := { x.results.portLoopA with
    completed := some ⟨[⟨50, false⟩, ⟨n, false⟩], .pass, .box, 0⟩ } } }

theorem witness_PlansAndIntercom : (asking deciding [0x18, 1, 1, 1, 0, 3]).asks [0x18, 1, 1, 1, 0, 3]
    ∧ readAll (rPair (rReq rPort) (rReq rPlan)) [1, 1, 1, 0, 3] = some (.known .a, .known (.ring 3))
    ∧ readAll (rPair (rReq rPort) (rReq rPlan)) [1, 1, 1, 0, 4] = some (.known .a, .known (.ring 4))
    ∧ readAll (rPair (rReq rPort) (rReq rPlan)) [1, 1, 1, 1] = some (.known .a, .known .silent)
    ∧ readAll (rPair (rReq rPort) (rReq rPlan)) [1, 1, 1, 2] = some (.known .a, .known .reject)
    ∧ readAll (rPair (rReq rPort) (rReq rPlan)) [1, 1, 1, 3] = some (.known .a, .outside 3)
    ∧ readAll (rPair (rReq rPort) (rReq rPlan)) [1, 3, 1, 1] = some (.outside 3, .known .silent)
    ∧ deciding.cc.custody ≠ .part ∧ (deciding.call .a).state = .alertingIn ∧ deciding.sup.mode ≠ .reserve
    ∧ (deciding.port .a).feed = .standby ∧ (deciding.port .a).ringInhibit = false
    ∧ (deciding.modPort .a fun x => { x with ringInhibit := true }).ports.a.ringInhibit = true
    ∧ (measured 20).sup.mode = .reserve ∧ (measured 20).settings.supply.renLimit = 20
    ∧ (measured 20).lastRen .a = some 20 ∧ (measured 21).lastRen .a = some 21 := by decide +kernel

theorem witness_PlansAndIntercom_intercom : (asking serving (0x19 :: 1 :: wPort .a)).asks (0x19 :: 1 :: wPort .a)
    ∧ (serving.settings.ports.get .a).intercomEnable = true ∧ (serving.call .a).state = .free
    ∧ ((callA fun r => { r with state := .localOnly }).call .a).state = .localOnly
    ∧ (serving.port .b).hold.isEmpty = true ∧ (serving.port .b).hook = .onHook
    ∧ ((callA fun r => { r with state := .seizing, txs := { r.txs with seize := true } }).seizeSent .a) = true
    ∧ ((callA fun r => { r with state := .seizing }).call .a).txs.seize = false
    ∧ (∃ r ∈ (serving.modSs fun x => { x with waiting := [⟨.seize, some .a, [], 0⟩] }).ss.waiting,
        r.kind = .seize ∧ r.port = some .a)
    ∧ (∀ e ∈ (serving.port .a).digits, e.mark ≠ .forwarded)
    ∧ (asking serving [0x19, 1, 3]).asks [0x19, 1, 3] := by decide +kernel

theorem witness_TestsStartAndAbort :
    (asking serving [0x30, 1, 0, 1, 0]).asks [0x30, 1, BitVec.ofNat 8 TestKind.lineForeign.ctorIdx, 1,
      BitVec.ofNat 8 Target.line.ctorIdx]
    ∧ TestKind.fits .lineForeign .portA = false ∧ TestKind.fits .portLoop .portB = true ∧ serving.tu.current = none
    ∧ (testing (aTest .portLoop .portA .box .running) serving).tu.current
      = some (aTest .portLoop .portA .box .running)
    ∧ (modeAt .start serving).sup.mode = .start ∧ Target.portA ≠ .line
    ∧ ((portA fun x => { x with hook := .offHook }).port .a).hook ≠ .onHook
    ∧ (serving.port .b).hold.isEmpty = true ∧ (serving.port .b).feed = .standby
    ∧ (asking serving [0x31]).asks [0x31] ∧ (aTest .portLoop .portA .operator .running).requester = .operator := by
  decide +kernel

theorem witness_TestsStartAndAbort_refused : (modeAt .reserve serving).sup.mode = .reserve
    ∧ TestKind.fits .portLoop .portA = true ∧ TestKind.fits .lineInsulation .line = true
    ∧ (asking serving [0x30, 1, 2, 1, 1]).asks [0x30, 1, BitVec.ofNat 8 TestKind.portLoop.ctorIdx, 1,
      BitVec.ofNat 8 Target.portA.ctorIdx]
    ∧ (asking serving [0x30, 1, 1, 1, 0]).asks [0x30, 1, BitVec.ofNat 8 TestKind.lineInsulation.ctorIdx, 1,
      BitVec.ofNat 8 Target.line.ctorIdx]
    ∧ ((portA fun x => { x with hold := ⟨false, true, false, false, false⟩ }).port .a).hold.isEmpty = false
    ∧ (serving.port .a).hook = .onHook ∧ (serving.call .a).state = .free ∧ serving.le.hold.test = false
    ∧ (callA fun r => { r with state := .connected, channel := some 3 }).testRefusal .lineInsulation .line false
      = some .call
    ∧ (callA fun r => { r with state := .connected, channel := none }).testRefusal .lineInsulation .line false = none
    ∧ (aTest .portLoop .portA .box .running).requester = .box := by decide +kernel

/-- The line held by LINK_LOSS in LATCHED alone. -/
def lossLatched : State :=
  (faultAt .linkLoss .latched none).modLe fun x => { x with
    link := .idle, hold := ⟨false, true, false, false, false, false⟩ }

theorem witness_FaultClearClears :
    (asking serving (0x39 :: 1 :: 0 :: wFault .leakage)).asks (0x39 :: 1 :: 0 :: wFault .leakage)
    ∧ ((faultAt .leakage .recovered none).faultRec .leakage).clearable
    ∧ ((faultAt .foreignVoltage .latched none).faultRec .foreignVoltage).clearable
    ∧ ¬ ((faultAt .leakage .active none).faultRec .leakage).clearable
    ∧ (asking serving [0x39, 1, 1]).asks [0x39, 1, 1] ∧ (∀ i ∈ allFaults, ¬ (serving.faultRec i).clearable)
    ∧ serving.le.held ∧ lossLatched.le.held ∧ (lossLatched.faultRec .thermalWarn).state ≠ .latched
    ∧ (lossLatched.faultRec .linkLoss).state = .latched ∧ (lossLatched.faultRec .trainFail).state ≠ .latched
    ∧ lossLatched.le.link = .idle ∧ lossLatched.le.hold = ⟨false, true, false, false, false, false⟩
    ∧ (lossLatched.modFs fun x => { x with endReport := some .linkLoss }).fs.endReport = some .linkLoss
    ∧ (serving.modFs fun x => { x with endVoid := true }).fs.endVoid = true
    ∧ ((faultAt .foreignVoltage .retryWait (some 0)).faultRec .foreignVoltage).retry ≠ none
    ∧ faultOf 0xFF 0 = none ∧ (asking serving [0x39, 1, 0, 0xFF, 0]).asks [0x39, 1, 0, 0xFF, 0] := by decide +kernel

/-! ## Witnesses: training and the line in service -/

def phase (l : LinkState) : State :=
  serving.modLe fun x => { x with link := l, phaseTimer := some 0, backoff := some 0, probeCount := 4000 }

theorem witness_TrainingAdvances : (phase .quiet).dormant = false ∧ (phase .quiet).le.phaseTimer ≠ none
    ∧ (phase .handshake).le.link = .handshake ∧ (phase .retrainWait).le.backoff ≠ none
    ∧ (phase .exchange).le.link = .exchange ∧ serving.le.link ≠ .quiet
    ∧ serving.le.attempts ≠ 7 ∧ (serving.modLe fun x => { x with attempts := 7 }).le.attempts = 7 := by decide +kernel

def someExchange (up : Option (List (Nat × Nat))) : Exchange :=
  { snrDown := [], snrUp := [], profile := .full, margin := 24, cap := 10, down := [], need := none
    sched := some (someSched 8), up := up, confirmed := up.isSome }
def exchanging (up : Option (List (Nat × Nat))) : State :=
  serving.modLe fun x => { x with link := .exchange, exchange := some (someExchange up) }

/-- The end of PROBE, the sums over 4,000 symbols being n times 200 qdB in the first tones. -/
def probed (n : Nat) : State :=
  (phase .probe).modLe fun x => { x with
    probeUnhit := 4000, probeUpReadings := 4000, probeDown := List.replicate n 800000 ++ x.probeDown.drop n }

theorem witness_ProbeAndExchange : (probed 4).le.link = .probe ∧ 4000 ≤ (probed 4).le.probeCount
    ∧ (((probed 4).loadDown ((probed 4).le.probeDown.map fun x => min 240 ((2 * x + 4000) / 8000))
        (probed 4).tt.maskInForce (probed 4).effProfile).sum = 44)
    ∧ (((probed 2).loadDown ((probed 2).le.probeDown.map fun x => min 240 ((2 * x + 4000) / 8000))
        (probed 2).tt.maskInForce (probed 2).effProfile).sum = 22)
    ∧ (probed 4).ft.tracking = .searching ∧ (lockedAt 4000 100).ft.period = some 4000
    ∧ (exchanging none).le.exchange = some (someExchange none) ∧ (someExchange none).up = none
    ∧ (∃ b ∈ [11], (someExchange none).cap < b)
    ∧ (∀ b ∈ List.replicate 26 1, b ≤ (someExchange none).cap)
    ∧ (List.replicate 26 1).sum < 30 ∧ 30 ≤ (List.replicate 26 2).sum ∧ List.replicate 26 2 = farTable.map (·.1)
    ∧ ((List.replicate 26 2).filter fun b => b ≠ 0).length ≤ Profile.upBudget .full
    ∧ Profile.upBudget .trim < ((List.replicate 26 2).filter fun b => b ≠ 0).length := by decide +kernel

theorem witness_ProbeAndExchange_eighth : ((phase .handshake).modLe fun x => { x with attempts := 7 }).le.attempts = 7
    ∧ (phase .handshake).le.phaseTimer ≠ none ∧ (phase .exchange).le.link = .exchange
    ∧ serving.fs.recs.trainFail.condition = false ∧ serving.fs.recs.trainFail.state = .clear
    ∧ (faultAt .trainFail .recovered none).fs.recs.trainFail.state = .recovered
    ∧ serving.fs.recs.linkLoss.state ≠ .active ∧ (faultAt .linkLoss .active none).fs.recs.linkLoss.state = .active
    ∧ serving.settings.faults.records.trainFail.policy = .report ∧ serving.le.hold.isEmpty = true := by decide +kernel

theorem witness_ServiceBeginsAndAgreementsMove : (exchanging (some farTable)).le.link = .exchange
    ∧ (exchanging (some farTable)).le.exchange = some (someExchange (some farTable))
    ∧ (someExchange (some farTable)).confirmed = true
    ∧ (someExchange (some farTable)).sched = some (someSched 8)
    ∧ { someExchange none with sched := none }.sched = none
    ∧ (agreed ⟨someSched 0, false, none, none⟩).ft.agreement
      = some ⟨someSched (agreed ⟨someSched 0, false, none, none⟩).le.sf, false, none, none⟩
    ∧ (agreed ⟨someSched 5, true, some (someSched 0), none⟩).ft.agreement
      = some ⟨someSched 5, true, some (someSched serving.le.sf), none⟩
    ∧ (agreed ⟨someSched 5, true, none, some 0⟩).ft.agreement = some ⟨someSched 5, true, none, some serving.le.sf⟩
    ∧ (someSched 1).anchor ≠ serving.le.sf ∧ ahead 1 (someSched 0).anchor = true ∧ ahead 0 (someSched 0).anchor = false
    ∧ (some 1 : Option Sf) ≠ some serving.le.sf
    ∧ serving.ft.agreement = none ∧ (someSched 0).width ≠ 0 := by decide +kernel

theorem witness_SymbolIsTaken : serving.dormant = false ∧ State.reset.le.link = .idle
    ∧ (serving.le.sym - serving.le.sfStart).toNat % 40 = 0 ∧ serving.gated serving.le.sym = false
    ∧ (serving.le.sym + 1 - serving.le.sfStart).toNat % 40 ≠ 0
    ∧ (serving.modFt fun x => { x with learn := 64, floor := 10 }).ft.learn = 64
    ∧ (agreed ⟨someSched 0, true, none, none⟩).gated 0 = true ∧ serving.ft.learn = 0
    ∧ (phase .probe).le.link = .probe ∧ (linkAt .probe serving).le.probeCount < 4000
    ∧ (List.replicate 224 ((1, 1) : Nat × Nat)).length = serving.tt.down.length := by decide +kernel

/-- A tracker past learning, on a floor of 10. -/
def hearing (f : FT → FT) : State := serving.modFt fun x => f { x with learn := 64, floor := 10 }

/-- A hit at the threshold; a burst 4 and 5 symbols old; eight arrivals and none; intervals at each limit. -/
theorem witness_SymbolIsTaken_bursts :
    64 ≤ (hearing id).ft.learn
    ∧ ((hearing id).ft.floor : Int) + 4 * serving.settings.gate.hitThreshold ≤ max 0 (min 255 255)
    ∧ dist serving.le.sym (0 - 5) = 5 ∧ dist serving.le.sym (0 - 4) = 4 ∧ serving.ft.burst = none
    ∧ 8 ≤ (hearing fun x => { x with arrivals := List.replicate 8 0 }).ft.arrivals.length
    ∧ serving.ft.arrivals.length < 4 ∧ serving.ft.tracking = .searching ∧ serving.ft.agreement = none
    ∧ (hearing fun x => { x with arrivals := [0 - 12806, 0 - 9606, 0 - 6402, 0 - 3200] }).ft.arrivals
      = [] ++ [0 - 12806, 0 - 9606, 0 - 6402, 0 - 3200]
    ∧ (∀ x ∈ [3200, 3204, 3202, 3200], 3200 ≤ x ∧ x ≤ 8000 ∧ ∀ y ∈ [3200, 3204, 3202, 3200], x ≤ y + 4)
    ∧ (∀ x ∈ [8000, 7996, 8000, 8000], 3200 ≤ x ∧ x ≤ 8000 ∧ ∀ y ∈ [8000, 7996, 8000, 8000], x ≤ y + 4)
    ∧ (∃ x ∈ [3199, 3200, 3200, 3200], x < 3200) ∧ (∃ x ∈ [8001, 8000, 8000, 8000], 8000 < x)
    ∧ (∃ x ∈ [4000, 4005, 4000, 4000], ∃ y ∈ [4000, 4005, 4000, 4000], y + 4 < x) := by decide +kernel

/-- A window whose last symbol this is, one just past, one caught; a drift of 1 and of 2; no window. -/
theorem witness_SymbolIsTaken_windows :
    Window.covers ⟨0 - 3, 4, false⟩ serving.le.sym = true ∧ Window.covers ⟨0 - 4, 4, false⟩ serving.le.sym = false
    ∧ Window.covers ⟨0, 4, true⟩ serving.le.sym = true
    ∧ (hearing fun x => { x with tracking := .locked, window := some ⟨0, 4, true⟩, period := some 4000, next := some 0 }).ft.window
      = some ⟨0, 4, true⟩
    ∧ (max 3200 (min 8000 ((4 * ((4000 : Nat) : Int) + dist serving.le.sym 0 + 2) / 4))).toNat = 4000
    ∧ min (dist (serving.le.sym + 4000 - 1) 0 % 4000).toNat (4000 - (dist (serving.le.sym + 4000 - 1) 0 % 4000).toNat) < 2
    ∧ 2 ≤ min (dist (serving.le.sym + 4000 - 1) 1 % 4000).toNat
      (4000 - (dist (serving.le.sym + 4000 - 1) 1 % 4000).toNat)
    ∧ serving.settings.gate.windowWidth = (someSched 0).width ∧ serving.settings.gate.windowWidth ≠ 8
    ∧ serving.ft.request = .none ∧ serving.ft.retry = none ∧ serving.ss.waiting = [] ∧ serving.ss.txs.length < 8
    ∧ (agreed ⟨someSched 0, true, none, none⟩).ft.agreement = some ⟨someSched 0, true, none, none⟩
    ∧ serving.ft.window = none ∧ dist serving.le.sym (2 - 1) < 0 := by decide +kernel

def windowed (caught : Bool) (misses : Nat) : State :=
  serving.modFt fun x => { x with
    tracking := .locked, window := some ⟨0 - 4, 4, caught⟩, period := some 4000, next := some 3997, misses := misses }

theorem witness_TrackerEventsCount : (windowed false 2).ft.tracking = .locked ∧ (windowed false 2).ft.period = some 4000
    ∧ (windowed false 2).le.link.driverOn = true ∧ ((4 : Nat) : Int) ≤ dist (windowed false 2).le.sym (0 - 4)
    ∧ dist (windowed false 2).le.sym (0 - 3) < ((4 : Nat) : Int) ∧ State.reset.le.link.driverOn = false
    ∧ serving.ft.impulse = false := by decide +kernel

theorem witness_LossesLeaveService : serving.le.link = .inService
    ∧ 8 ≤ (serving.modLe fun x => { x with syncFails := 8 }).le.syncFails
    ∧ 40 ≤ (serving.modLe fun x => { x with lowPower := 40 }).le.lowPower
    ∧ (serving.modLe fun x => { x with farEnd := some ⟨0, 0⟩ }).le.farEnd ≠ none
    ∧ (serving.modLe fun x => { x with pending := some ⟨.lifeline, some 0⟩ }).le.pending = some ⟨.lifeline, some 0⟩
    ∧ overCap (Profile.cap .lifeline) (Profile.upBudget .lifeline) [5] = true
    ∧ overCap (Profile.cap .trim) (Profile.upBudget .trim) [5] = false := by decide +kernel

theorem witness_LossesLeaveService_record :
    (serving.faultRec .linkLoss).state = .clear ∧ ((faultAt .linkLoss .recovered none).faultRec .linkLoss).state = .recovered
    ∧ (∀ p ∈ [Policy.retryFast, .retrySlow, .latched, .report],
        (present .linkLoss .clear p serving).settings.faults.records.linkLoss.policy = p ∧ p ≠ .silent)
    ∧ (testing (aTest .lineInsulation .line .operator .arming) serving).tu.current
      = some (aTest .lineInsulation .line .operator .arming)
    ∧ serving.le.hold.isEmpty = true := by decide +kernel

theorem witness_EvaluationComputes : (serving.modLe fun x => { x with evalDue := true }).le.evalDue = true
    ∧ serving.le.link = .inService ∧ serving.tt.inFlight = .none ∧ serving.tt.waitingRate = none
    ∧ serving.le.pending = none ∧ (swapping serving).tt.inFlight ≠ .none := by decide +kernel

/-- An evaluation due on the tones given, the rest empty. -/
def evaluating (ts : List ToneRec) : State :=
  (serving.modLe fun x => { x with evalDue := true }).modTt fun x => { x with down := ts ++ x.down.drop ts.length }

/-- The actions: a masked tone; too many tones for TRIM; a donor and a receiver; a donor of 2 bits; none; and a margin
at each limit of the donor. -/
theorem witness_EvaluationComputes_actions :
    (∃ (i : Nat) (t : ToneRec), (evaluating (strong 3)).tt.down[i]? = some t ∧ t.b ≠ 0
      ∧ (List.replicate 224 true)[i]? = some true)
    ∧ 160 < (((evaluating (strong 161)).tt.down.map (·.b)).filter fun b => b ≠ 0).length
    ∧ 4 ∈ List.zipWith (fun (t : ToneRec) c => if t.b = 0 then 0
        else if (t.s : Int) - 38 - 12 * t.b < 24 - 12 then min 4 (c + 1) else 0)
      (evaluating (⟨85, 3, false⟩ :: strong 3)).tt.down (List.replicate 224 3)
    ∧ (85 : Int) - 38 - 12 * 3 < 24 - 12 ∧ (24 : Int) - 24 ≤ 85 - 38 - 12 * 3 ∧ (24 : Int) + 12 ≤ 240 - 38 - 12 * 4
    ∧ (24 : Int) - 24 ≤ 74 - 38 - 12 * 3 ∧ (73 : Int) - 38 - 12 * 3 < 24 - 24
    ∧ (∃ e : Sf, (serving.modTt fun x => { x with lastSwap := some 0xFFFFFFFC }).tt.lastSwap = some e
        ∧ 4 ≤ (serving.le.sf - e).toNat)
    ∧ (∃ e : Sf, (serving.modTt fun x => { x with lastSwap := some 0xFFFFFFFD }).tt.lastSwap = some e
        ∧ (serving.le.sf - e).toNat < 4) := by
  refine ⟨⟨0, ⟨240, 4, false⟩, ?_⟩, ?_, ?_, ?_, ?_, ?_, ?_, ?_, ⟨_, rfl, ?_⟩, ⟨_, rfl, ?_⟩⟩ <;> decide +kernel

theorem witness_EvaluationComputes_waiting :
    (serving.modTt fun x => { x with waitingRate := some .mask, inFlight := .swap 32 33 (some 3) (some 0) }).tt.inFlight
      = .swap 32 33 (some 3) (some serving.le.sf)
    ∧ ((withTx (someTx .swap none 1) serving).ss.txs.find? fun t => t.number == 3).map (·.req.kind) = some .swap
    ∧ (withTx (someTx .swap none 1) serving).ss.waiting = [] := by decide +kernel

theorem witness_ChangesApply : serving.le.link = .inService ∧ serving.tt.waitingRate = none
    ∧ (serving.modTt fun x => { x with inFlight := .swap 32 33 none (some 0) }).tt.inFlight
      = .swap 32 33 none (some serving.le.sf)
    ∧ (serving.modTt fun x => { x with inFlight := .rate ⟨[], [], 0, .mask⟩ none (some 0) }).tt.inFlight
      = .rate ⟨[], [], 0, .mask⟩ none (some serving.le.sf)
    ∧ (serving.modTt fun x => { x with upWaiting := some ⟨strong 26, 0, 10⟩ }).tt.upWaiting
      = some ⟨strong 26, serving.le.sf, 10⟩
    ∧ ((callA fun r => { r with downgrade := some ⟨some 0⟩ }).call .a).downgrade = some ⟨some serving.le.sf⟩
    ∧ Profile.cap .full = 10 ∧ (1 : Sf) ≠ serving.le.sf ∧ (serving.call .a).downgrade = none := by decide +kernel

/-- A call CONNECTED at FULL on port A, port B as given, and the P_min handed over last. -/
def talk (r : CallRec → CallRec) (n : Nat) : State :=
  ((callA fun c => { c with state := .connected, channel := some 0, coding := some .full, connect := some 5 }).modCallRaw .b
    r).modCc fun c => { c with pDown := n, pUp := 400 }
def second (r : CallRec) : CallRec :=
  { r with state := .connected, channel := some 1, coding := some .full, connect := some 9 }
def waitingCall (r : CallRec) : CallRec :=
  { r with state := .seizing, coding := some .reduced, admission := some 500, order := 3 }

/-- R100 to R102 at their boundaries: R = 224 fits P_min = 224 and not 223, where the newest, B's, is asked down; 183
asks both; 143 is below what both need at REDUCED and releases the newest; 103 releases both. A waiting call is admitted
while 104 fit, once the other call is asked down or released, and not one byte below. -/
theorem witness_Capacity :
    (∀ x ∈ [(224, [false, false], [false, false]), (223, [false, true], [false, false]),
        (184, [false, true], [false, false]), (183, [true, true], [false, false]), (144, [true, true], [false, false]),
        (143, [true, true], [false, true]), (104, [true, true], [false, true]), (103, [true, true], [true, true])],
      [Port.a, .b].map ((talk second x.1).askedDown (talk second x.1)) = x.2.1
      ∧ [Port.a, .b].map ((talk second x.1).releasedForRoom (talk second x.1)) = x.2.2)
    ∧ (talk waitingCall 184).admittedToRoom (talk waitingCall 184) .b = true
    ∧ (talk waitingCall 183).admittedToRoom (talk waitingCall 183) .b = true
    ∧ (talk waitingCall 104).admittedToRoom (talk waitingCall 104) .b = true
    ∧ (talk waitingCall 103).admittedToRoom (talk waitingCall 103) .b = false
    ∧ (talk waitingCall 183).askedDown (talk waitingCall 183) .a = true
    ∧ (talk waitingCall 184).askedDown (talk waitingCall 184) .a = false
    ∧ (talk second 400).askedDown ((talk second 400).modSup fun x => { x with profile := .lifeline }) .a = true
    ∧ ((talk second 103).evaluateCapacity.faultRec .voiceCapacityA).state = .recovered
    ∧ (serving.faultSetting .voiceCapacityA).policy = .report ∧ (serving.faultRec .voiceCapacityA).state = .clear
    ∧ ((present .voiceCapacityA .recovered .silent serving).faultSetting .voiceCapacityA).policy = .silent := by
  decide +kernel

/-- A hand-over of P_min by UP_TABLE_APPLY: 8 times 46 bits over 39 symbols are 224 bytes, at which nothing is asked. -/
theorem witness_ChangesApply_capacity :
    let s (n : Nat) : State := (talk second 400).modTt fun x =>
      { x with down := List.replicate 8 ⟨200, 12, false⟩, upWaiting := some ⟨List.replicate n ⟨200, 1, false⟩, 0, 10⟩ }
    ((after .upTableApply (s 46)).cc.pUp = 224 ∧ ((after .upTableApply (s 46)).call .b).downgrade = none)
    ∧ ((after .upTableApply (s 45)).cc.pUp = 219 ∧ ((after .upTableApply (s 45)).call .b).downgrade = some ⟨none⟩
      ∧ ((after .upTableApply (s 45)).call .a).downgrade = none) := by decide +kernel

/-- Agreements whose coming, replacement or end leaves the agreed width as it is, and one whose width differs. -/
theorem witness_ServiceBeginsAndAgreementsMove_width :
    (∀ w ∈ [0, 4], ({ someSched 0 with width := w } : Sched).width = w)
    ∧ (agreed ⟨someSched 0, true, some { someSched 0 with width := 6 }, none⟩).agreedWidth = 4
    ∧ (agreed ⟨someSched 0, false, some { someSched 0 with width := 6 }, none⟩).agreedWidth = 0
    ∧ (after .replacementInForce (agreed ⟨someSched 0, true, some { someSched 0 with width := 6 }, none⟩)).agreedWidth
      = 6 := by decide +kernel

/-- The TRAIN_FAIL condition and the LINK_LOSS record in each state at an entry to service and at a restart. -/
theorem witness_TrainFailEnds :
    (∀ st ∈ [FaultState.clear, .recovered, .active, .retryWait, .latched], ∀ p ∈ [Policy.report, .latched],
      ((present .trainFail st p (exchanging (some farTable))).faultRec .trainFail).state = st)
    ∧ (serving.faultRec .trainFail).condition = false
    ∧ (∀ r ∈ [Policy.retryFast, .retrySlow, .report], ((serving.modFault .trainFail fun x => { x with
        state := .active, run := some r, condition := true }).faultRec .trainFail).run = some r)
    ∧ ((after (.confirmation true) (present .trainFail .active .report (exchanging (some farTable)))).faultRec
        .trainFail).state = .recovered
    ∧ (∀ st ∈ [FaultState.active, .retryWait], ((after (.confirmation true) ((exchanging (some farTable)).modFault .linkLoss
        fun r => { r with state := st })).faultRec .linkLoss).state = .recovered)
    ∧ ((after .restartLine (asking (present .trainFail .latched .latched serving) [0x03, 1, 0])).faultRec
        .trainFail).condition = false := by decide +kernel

/-- The beacon of an evaluation: two records eligible at the threshold, one just below it; no place left. -/
theorem witness_EvaluationComputes_beacon :
    let s : State := (((present .leakage .active .report serving).modFault .foreignVoltage fun r =>
      { r with state := .latched, firstSeen := some 4 }).modSettings fun x => { x with faults := { x.faults with
        beaconThreshold := 1 } }).modLe fun x => { x with evalDue := true }
    s.eligible .leakage = true ∧ s.eligible .foreignVoltage = true ∧ s.eligible .linkLoss = false
    ∧ ((s.modSettings fun x => { x with faults := { x.faults with beaconThreshold := 2 } }).eligible .leakage) = false
    ∧ (s.faultSetting .leakage).level < (s.faultSetting .foreignVoltage).level
    ∧ ((after .evaluation s).ss.outQueue.map (·.who)) = [.beacon]
    ∧ (∀ i ∈ allFaults, serving.eligible i = false)
    ∧ 24 ≤ ((s.modSs fun x => { x with outQueue := List.replicate 24 ⟨.beacon, [], false⟩ }).ss.outQueue.filter
        fun m => !m.isSend).length := by decide +kernel

/-! ## Witnesses: superframes and messages -/

theorem witness_CellsRoundTrip : (15 : Nat) < 16 ∧ (255 : Nat) < 256 ∧ (List.replicate 60 (7 : Byte)).length ≤ 60
    ∧ List.replicate 61 (7 : Byte) ≠ [] := by decide +kernel

def aMsg (who : Sender) (n : Nat) : OutMsg :=
  { who := who, cells := cellsOf 0 (List.replicate n 1), started := false }
def outWith (m : OutMsg) (p : Nat) : State :=
  (cells 1 true).modSs fun x => { x with outQueue := [m], p := p }

theorem witness_UpstreamIsLaidOut : serving.le.link = .inService ∧ State.reset.le.link ≠ .inService
    ∧ serving.ss.outQueue = [] ∧ serving.ss.upQueue = [] ∧ (cells 1 true).ss.outQueue = []
    ∧ serving.settings.ratio = .four ∧ (outWith (aMsg .beacon 60) 3).ss.p < 4
    ∧ 4 ≤ (outWith (aMsg .beacon 60) 4).ss.p
    ∧ (∃ c d, (aMsg .beacon 61).cells = [c, d]) ∧ (∃ c, (aMsg .beacon 60).cells = [c])
    ∧ (∀ m ∈ serving.ss.outQueue, m.who ≠ .send 3) ∧ (∃ m ∈ (outWith (aMsg (.send 3) 1) 0).ss.outQueue, m.who = .send 3)
    ∧ (serving.modLe fun x => { x with farEnd := some ⟨7, 0⟩ }).le.farEnd = some ⟨7, 0⟩
    ∧ { aTest .lineInsulation .line .operator .arming with reqNumber := some 7 }.arm ≠ none
    ∧ serving.eligible .leakage = false ∧ serving.fs.endVoid = false
    ∧ (faultAt .trainFail .active none).eligible .trainFail = true := by
  refine ⟨?_, ?_, ?_, ?_, ?_, ?_, ?_, ?_, ⟨_, _, rfl⟩, ⟨_, rfl⟩, ?_, ?_, ?_, ?_, ?_, ?_, ?_⟩ <;> decide +kernel

/-- Two calls, the higher channel on port A; a slot that just fits and one that just does not. -/
theorem witness_UpstreamIsLaidOut_slots :
    ((callA fun r => { r with state := .connected, channel := some 2, coding := some .full }).modCallRaw .b fun r =>
        { r with state := .alertingIn, channel := some 1, coding := some .reduced }).namedSlots
      = [⟨1, .reduced, .b⟩, ⟨2, .full, .a⟩]
    ∧ codingBytes .full ≤ 80 ∧ 79 < codingBytes .full ∧ codingBytes .reduced ≤ 40 ∧ 39 < codingBytes .reduced
    ∧ (serving.port .a).audio ≠ .line ∧ ((portA fun x => { x with audio := .line }).port .a).audio = .line := by
  decide +kernel

def loaded : State := serving.modTt fun x => { x with down := strong 12 }

theorem witness_DownstreamIsTaken : loaded.le.link = .inService
    ∧ (loaded.tt.down.map (·.b)).sum * (39 - loaded.emptied) / 8 = 234
    ∧ fitSlots 234 (loaded.modSs fun x => { x with slots := [⟨0, .full, .a⟩] }).ss.slots = [⟨0, .full, .a⟩]
    ∧ ((portA fun x => { x with audio := .line }).port .a).audio = .line ∧ (serving.port .a).audio ≠ .line
    ∧ crc8 (List.replicate 63 0) ≠ (0 : Byte)
    ∧ crc8 (List.replicate 63 0 ++ [crc8 (List.replicate 63 0)] |>.take 63)
      = ((List.replicate 63 0 ++ [crc8 (List.replicate 63 0)])[63]?).getD 0
    ∧ 192 ≤ (0xC0 : Byte).toNat ∧ 64 ≤ (0x40 : Byte).toNat ∧ (0x3F : Byte).toNat < 64
    ∧ (0x40 : Byte).toNat % 32 < 16 ∧ ¬ (0x50 : Byte).toNat % 32 < 16 := by decide +kernel

/-- A partial unit of n bytes in k cells that waits for the cell of index i. -/
def part (n k i : Nat) : Partial := { seq := 9, nextIndex := i, cells := k, bytes := List.replicate n 1 }
def aCell (start fin : Bool) (i n : Nat) : Cell :=
  { start := start, fin := fin, index := i, seq := 9, data := List.replicate n 1 }

theorem witness_DownstreamIsTaken_cells :
    (aCell true true 0 60).data ≠ [] ∧ (aCell true true 0 60).data.length ≤ 60
    ∧ ((aCell true false 0 60).fin = false → (aCell true false 0 60).data.length = 60)
    ∧ serving.sup.procPwr = true ∧ (serving.modSup fun x => { x with procPwr := false }).sup.procPwr = false
    ∧ (serving.plk.dataDown.map fun u => (u.length + 59) / 60).sum < 64
    ∧ ((serving.modPlk fun k => { k with dataDown := List.replicate 64 [1] }).plk.dataDown.map
        fun u => (u.length + 59) / 60).sum = 64
    ∧ serving.ss.dataPartial = none ∧ serving.ss.mgmtPartial = none
    ∧ (serving.modSs fun x => { x with dataPartial := some (part 60 1 1) }).ss.dataPartial = some (part 60 1 1)
    ∧ (aCell false true 1 60).seq = (part 60 1 1).seq ∧ (aCell false true 1 60).index = (part 60 1 1).nextIndex
    ∧ (aCell false true 2 60).index ≠ (part 60 1 1).nextIndex
    ∧ (part 1540 26 10).bytes.length + (aCell false true 10 60).data.length ≤ 1600
    ∧ 1600 < (part 1560 26 10).bytes.length + (aCell false true 10 60).data.length
    ∧ (part 60 1 1).bytes.length + (aCell false true 1 60).data.length ≤ 120
    ∧ 120 < (part 120 2 2).bytes.length + (aCell false true 2 1).data.length
    ∧ knownType 0x01 = false := by decide +kernel

theorem witness_AnswersAreJudged : knownType 0x01 = false ∧ ([] : List Byte).length ≠ (1 : Byte).toNat
    ∧ 117 < (118 : Byte).toNat ∧ (∀ t ∈ serving.ss.txs, t.number ≠ (3 : Byte).toNat)
    ∧ ((withTx (someTx .seize (some .a) 1) (callA fun r => { r with state := .seizing, coding := some .full })).ss.txs.find?
        fun t => t.number == (3 : Byte).toNat) = some (someTx .seize (some .a) 1)
    ∧ (someTx .seize (some .a) 1).req.tag = ((callA fun r => { r with state := .seizing }).call .a).serial
    ∧ serving.channelTaken .a 3 = false ∧ serving.effProfile ≠ .lifeline
    ∧ (callA fun r => { r with state := .seizing, coding := some .full }).passes
        (callA fun r => { r with state := .seizing, coding := some .full }).voiceRequirement = true
    ∧ (1 : Byte).toNat = Coding.reduced.ctorIdx ∧ serving.ss.waiting = []
    ∧ ((withTx (someTx .swap none 2) serving).ss.txs.find? fun x => x.number == 3) = some (someTx .swap none 2)
    ∧ (someTx .swap none 2).timeLeft ≠ none ∧ (someTx .swap none 2).sends < 3
    ∧ (serving.ss.outQueue.filter fun m => !m.isSend).length < 24 := by decide +kernel

def inFlightTx (k : TxKind) (p : Option Port) (tag : Nat) (s : State) : State :=
  withTx { someTx k p 3 with req := { kind := k, port := p, body := [], tag := tag } } s

theorem witness_TransactionsEnd : (someTx .seize (some .a) 3).timeLeft ≠ none ∧ 3 ≤ (someTx .seize (some .a) 3).sends
    ∧ ((inFlightTx .swap none 0 serving).ss.txs.find? fun x => x.number == (3 : Byte).toNat) = some (someTx .swap none 3)
    ∧ serving.ss.waiting = [] ∧ ahead 1 serving.le.sf = true ∧ ahead 0 serving.le.sf = false
    ∧ serving.settings.faults.records.linkProtocol.policy = .report ∧ serving.fs.recs.linkProtocol.state = .clear
    ∧ (faultAt .linkProtocol .recovered none).fs.recs.linkProtocol.state = .recovered := by decide +kernel

theorem witness_TransactionsEnd_kinds :
    (serving.modTt fun x => { x with inFlight := .swap 32 33 (some 3) none }).tt.inFlight
      = .swap 32 33 (some (3 : Byte).toNat) none
    ∧ (serving.modTt fun x => { x with inFlight := .rate ⟨[], [], 0, .mask⟩ (some 3) none }).tt.inFlight
      = .rate ⟨[], [], 0, .mask⟩ (some (3 : Byte).toNat) none
    ∧ serving.tt.waitingRate = none
    ∧ (serving.modFt fun x => { x with request := .set (someSched 9) }).ft.request = .set (someSched 9)
    ∧ ahead (someSched 9).anchor serving.le.sf = true ∧ ahead (someSched 0).anchor serving.le.sf = false
    ∧ (serving.modFt fun x => { x with request := .clear 9 }).ft.request = .clear 9
    ∧ (allResults.find? fun j => ((serving.modTu fun x => { x with results := { x.results with
        portLoopA := { x.results.portLoopA with serial := 5, report := .inFlight } } }).tu.results.get j).serial == 5)
      = some .portLoopA := by decide +kernel

theorem witness_TransactionsEnd_calls :
    (someTx .digit (some .a) 3).req.tag = (serving.call .a).serial
    ∧ 1 ≠ (serving.call .a).serial
    ∧ ((callA fun r => { r with state := .dialling }).call .a).state = .dialling
    ∧ ((callA fun r => { r with state := .connected }).call .a).state = .connected
    ∧ ((callA fun r => { r with state := .clearing, cause := .intercom }).call .a).cause = .intercom
    ∧ ((callA fun r => { r with state := .clearing }).call .a).state = .clearing
    ∧ (serving.port .a).hook = .onHook ∧ ((portA fun x => { x with hook := .offHook }).port .a).hook ≠ .onHook
    ∧ ((callA fun r => { r with state := .connected, channel := some 0, coding := some .full
                                downgrade := some ⟨none⟩ }).call .a).carries = true
    ∧ (serving.faultSetting (FaultId.voiceCapacity .a)).policy = .report
    ∧ (serving.faultRec (FaultId.voiceCapacity .a)).state = .clear := by decide +kernel

/-- An UP_TABLE's body: 26 codes of b bits, 26 values, S_eff. -/
def upBody (b : Nat) (e : Sf) : List Byte := packCodes (List.replicate 26 b) ++ List.replicate 26 100 ++ wBV e

theorem witness_RetrainAndTableAnswered : serving.ss.repeats.retrain.last ≠ some 0
    ∧ (serving.modSs fun x => { x with repeats := { x.repeats with retrain := ⟨some 0, .held true [0x7E, 0, 0]⟩ } }
      ).ss.repeats.retrain = ⟨some 0, .held true [0x7E, 0, 0]⟩
    ∧ (upBody 4 1).length = 43 ∧ rSf ((upBody 4 1).drop 39) = some (1, [])
    ∧ (∃ b ∈ unpackCodes ((upBody 11 1).take 13), Profile.cap .full < b)
    ∧ (∀ b ∈ unpackCodes ((upBody 10 1).take 13), b ≤ Profile.cap .full)
    ∧ ((unpackCodes ((upBody 10 1).take 13)).filter fun b => b ≠ 0).length ≤ Profile.upBudget .full
    ∧ 1 ∈ unpackCodes ((upBody 1 1).take 13) ∧ 1 ∉ unpackCodes ((upBody 10 1).take 13)
    ∧ ahead 0 serving.le.sf = false ∧ ahead 1 serving.le.sf = true := by decide +kernel

theorem witness_OperatorCommands : serving.ss.repeats.testReq.last ≠ some 0 ∧ serving.tu.current = none
    ∧ serving.sup.mode = .mains
    ∧ (testing (aTest .portLoop .portA .operator .running) serving).tu.current
      = some (aTest .portLoop .portA .operator .running)
    ∧ TestKind.fits .portLoop .portB = true ∧ TestKind.fits .lineForeign .line = true
    ∧ serving.ss.repeats.beaconClear.last ≠ some 0
    ∧ ((faultAt .leakage .active none).faultRec .leakage).state ≠ .clear
    ∧ (serving.faultRec .leakage).state = .clear := by decide +kernel

/-! ## Witnesses: calls and ports -/

theorem witness_AlertsArrive : serving.ss.repeats.alert.last ≠ some 0 ∧ 4 ≤ (4 : Byte).toNat
    ∧ serving.channelTaken .a 3 = false ∧ (callA fun r => { r with channel := some 3 }).channelTaken .b 3 = true
    ∧ ((callA fun r => { r with state := .blocked }).call .a).state ≠ .free
    ∧ (serving.call .a).state = .free ∧ (serving.port .a).hook = .onHook ∧ (serving.port .a).hold.isEmpty = true
    ∧ serving.admission = .at .full ∧ serving.cc.custody ≠ .part ∧ (inPart serving).cc.custody = .part
    ∧ (serving.call .b).alertNumber ≠ some 0 := by decide +kernel

/-- Port A held by a host's PORT_LOOP alone. -/
def looped (r : Requester) : State :=
  testing (aTest .portLoop .portA r .running) (portA fun x => { x with hold := ⟨false, false, false, true, false⟩ })

/-- A number of 1 and of 16 digits; a port held by the host's test alone, by an operator's, and otherwise; the three
answers of admission. -/
theorem witness_AlertsArrive_held : [Digit.star].length = 1 ∧ (List.replicate 16 Digit.star).length = 16
    ∧ ((looped .box).port .a).hold = ⟨false, false, false, true, false⟩
    ∧ (∃ t, (looped .box).tu.current = some t ∧ t.kind = .portLoop ∧ t.requester = .box ∧ Target.port t.target = .a)
    ∧ (aTest .portLoop .portA .operator .running).requester ≠ .box
    ∧ ((portA fun x => { x with hold := ⟨false, true, false, true, false⟩ }).port .a).hold.isEmpty = false
    ∧ ((portA fun x => { x with hook := .brk }).port .a).hook ≠ .onHook
    ∧ (3 : Byte).toNat < 4 ∧ (looped .box).channelTaken .a 3 = false ∧ (looped .box).admission = .at .full
    ∧ ((looped .box).modCc fun c => { c with pDown := 0 }).admission = .fail
    ∧ (((looped .box).modCc fun c => { c with pDown := 0 }).modSup fun x => { x with profile := .lifeline }).admission
      = .wait
    ∧ (3 : Byte) ≠ 1 ∧ (3 : Byte) ≠ 2 ∧ (0 : Byte) ≠ 1 ∧ (0 : Byte) ≠ 2 := by
  refine ⟨?_, ?_, ?_, ⟨_, rfl, ?_⟩, ?_, ?_, ?_, ?_, ?_, ?_, ?_, ?_, ?_, ?_, ?_, ?_⟩ <;> decide +kernel

theorem witness_FarEndClearsAndAnswers : serving.ss.repeats.clear.last ≠ some 0
    ∧ serving.ss.repeats.answered.last ≠ some 0
    ∧ ((callA fun r => { r with state := .dialling, channel := some 3 }).call .a).channel = some (3 : Byte).toNat
    ∧ ((callA fun r => { r with state := .alertingIn, channel := some 0 }).call .a).admission = none
    ∧ (serving.call .a).channel ≠ some (0 : Byte).toNat ∧ (serving.call .a).alertChannel ≠ some (0 : Byte).toNat
    ∧ (serving.settings.ports.get .a).reverseOnAnswer = false
    ∧ ((portA fun x => { x with feed := .active }).port .a).feed = .active := by decide +kernel

theorem witness_CallTimersExpire :
    ((callA fun r => { r with state := .seizing, admission := some 0 }).call .a).admission ≠ none
    ∧ ((callA fun r => { r with state := .alertingIn, admission := some 0 }).call .a).state = .alertingIn
    ∧ (serving.modCc fun c => { c with holdOff := some 0 }).cc.holdOff ≠ none
    ∧ ((callA fun r => { r with sub := some .decisionWanted, decision := some 0 }).call .a).decision ≠ none
    ∧ ((callA fun r => { r with state := .alertingIn, alert := some 0 }).call .a).alert ≠ none
    ∧ (((callA fun r => { r with state := .intercomRinging, alert := some 0 }).modCallRaw .b fun r =>
        { r with state := .intercomCalling }).call .b).state = .intercomCalling
    ∧ (serving.modCc fun c => { c with grace := some 0 }).cc.grace ≠ none
    ∧ (serving.call .a).admission = none ∧ (serving.call .a).decision = none ∧ (serving.call .a).alert = none
    ∧ serving.cc.holdOff = none ∧ serving.cc.grace = none := by decide +kernel

theorem witness_HookSamplesCount : (State.reset.port .a).feed = .disconnected ∧ (serving.port .a).feed = .standby
    ∧ (serving.settings.ports.get .a).offHookThreshold = 10 ∧ (serving.port .a).detect.blank = 0
    ∧ serving.gatedNow = false ∧ ((portA fun x => { x with feed := .ringing }).port .a).detect.roArmed = true
    ∧ ((portA fun x => { x with feed := .active, hook := .brk, pulses := 10
                                detect := { x.detect with breakMs := 95 } }).port .a).pulses = 10 := by decide +kernel

theorem witness_HookChanges :
    20 ≤ ((detectA fun d => { d with offRun := 20 }).port .a).detect.offRun
    ∧ 30 ≤ ((portA fun x => { x with feed := .ringing, detect := { x.detect with tripRun := 30 } }).port .a).detect.tripRun
    ∧ (serving.call .a).state = .free ∧ serving.admission = .at .full ∧ (linkAt .quiet serving).le.link ≠ .inService
    ∧ (serving.modCc fun c => { c with pDown := 0 }).admission = .fail
    ∧ ((serving.modCc fun c => { c with pDown := 0 }).modSup fun x => { x with profile := .lifeline }).admission = .wait
    ∧ ((portA fun x => { x with feed := .active, hook := .brk, detect := { x.detect with onHookDue := true } }).port
      .a).detect.onHookDue = true
    ∧ ((portA fun x => { x with feed := .testing, detect := { x.detect with offRun := 20 } }).port .a).feed = .testing
    ∧ (testing (aTest .portLoop .portA .box .running) serving).tu.current
      = some (aTest .portLoop .portA .box .running)
    ∧ Target.port (aTest .portLoop .portA .box .running).target = .a ∧ serving.tu.current = none
    ∧ (serving.port .a).feed ≠ .testing := by decide +kernel

/-- Ten pulses dialled, the make after them run out. -/
def dialled (x : PP) : PP :=
  { x with feed := .active, hook := .offHook, pulses := 10, detect := { x.detect with make := some 0 } }

theorem witness_DigitsAreTaken :
    ((portA dialled).port .a).detect.make ≠ none ∧ ((portA dialled).port .a).hook = .offHook
    ∧ ((portA dialled).port .a).pulses = (if (0 : Fin 10).val = 0 then 10 else 0)
    ∧ (serving.port .a).digits.length < 32
    ∧ 32 ≤ ((portA fun x => { x with digits := List.replicate 32 ⟨.star, .tone, .pending⟩ }).port .a).digits.length
    ∧ ((portA fun x => { x with feed := .active, hook := .offHook }).port .a).detect.toneArmed = true
    ∧ ((serving.modSettings fun x => { x with ports := ⟨{ x.ports.a with intercomEnable := false }, x.ports.b⟩ }
      ).settings.ports.get .a).intercomEnable = false := by decide +kernel

/-- A talking port A with a digit list, its call in a state. -/
def dialling (st : CallState) (l : List DigitEntry) : State :=
  (portA fun x => { x with feed := .active, hook := .offHook, digits := l }).modCallRaw .a fun r => { r with state := st }

/-- A first star, a second one with intercom ON and OFF, a longer list; the SEIZE sent, not sent and waiting; and the
other port free, busy, off-hook and held. -/
theorem witness_DigitsAreTaken_call :
    (∀ st ∈ [CallState.seizing, .dialling, .localOnly, .blocked, .farCleared, .clearing, .intercomEnded, .connected],
      ((dialling st [⟨.star, .pulse, .pending⟩]).call .a).state = st
        ∧ ((dialling st [⟨.star, .pulse, .pending⟩]).port .a).digits = [⟨.star, .pulse, .pending⟩]
        ∧ ((dialling st [⟨.star, .pulse, .pending⟩]).port .a).digits.length < 32
        ∧ ((dialling st []).port .a).digits = [])
    ∧ (∀ m, [⟨.num 1, .pulse, .pending⟩] ≠ [(⟨.star, m, .pending⟩ : DigitEntry)])
    ∧ (serving.settings.ports.get .a).intercomEnable = true
    ∧ (dialling .seizing []).seizeSent .a = false ∧ ((dialling .seizing []).call .a).txs.seize = false
    ∧ ((dialling .seizing []).modCallRaw .a fun r => { r with txs := { r.txs with seize := true } }).seizeSent .a = true
    ∧ (∃ r ∈ (serving.modSs fun x => { x with waiting := [⟨.seize, some .a, [], 0⟩] }).ss.waiting,
        r.kind = .seize ∧ r.port = some .a)
    ∧ (serving.call .b).state = .free ∧ (serving.port .b).hold.isEmpty = true ∧ (serving.port .b).hook = .onHook
    ∧ (serving.port .b).feed = .standby
    ∧ ((serving.modPort .b fun x => { x with hook := .brk }).port .b).hook ≠ .onHook := by
  refine ⟨?_, ?_, ?_, ?_, ?_, ?_, ?_, ?_, ?_, ?_, ?_, ?_⟩
  case refine_2 => rintro (_ | _) <;> decide +kernel
  all_goals decide +kernel

theorem witness_PortTimersExpire : ((portA fun x => { x with feed := .polaritySwap }).port .a).feed = .polaritySwap
    ∧ ((serving.ringPort .a 0).port .a).feed = .ringing ∧ ((serving.ringPort .a 0).port .a).ringRequest = some 0
    ∧ ((serving.ringPort .a 0).port .a).cadence.map (·.restart) = some false
    ∧ (((serving.ringPort .a 0).ringPort .a 1).port .a).cadence.map (·.restart) = some true
    ∧ (serving.port .a).cadence = none := by decide +kernel

theorem witness_OverloadsAreReported :
    10 ≤ ((detectA fun d => { d with ocRun := 10, ocMax := 61 }).port .a).detect.ocRun
    ∧ (serving.port .a).detect.ocArmed = true ∧ (serving.port .a).feed = .standby
    ∧ 5 ≤ ((portA fun x => { x with feed := .ringing, detect := { x.detect with roRun := 5 } }).port .a).detect.roRun
    ∧ (serving.faultRec (FaultId.feedOvercurrent .a)).state = .clear ∧ (serving.port .a).hold.isEmpty = true
    ∧ (serving.faultSetting (FaultId.feedOvercurrent .a)).policy = .retryFast
    ∧ (serving.faultSetting (FaultId.ringOverload .a)).policy = .retrySlow := by decide +kernel

/-! ## Witnesses: measurement, supply, tests and faults -/

def sweeping (m : SupplyMode) (n : Nat) (battV adapterV : Int) : State :=
  modeAt m (serving.modMu fun x => { x with
    started := true, sweeping := true
    chans := { x.chans with
      battV := { Reset.muChan with latest := some battV, window := List.replicate n battV, lastKept := some 0, fresh := true }
      battI := { Reset.muChan with latest := some 5, window := [5], lastKept := some 0, fresh := true }
      adapterV := { Reset.muChan with latest := some adapterV, window := [adapterV], lastKept := some 0, fresh := true } } })

theorem witness_SweepsMeasure : (serving.modMu fun x => { x with started := true }).mu.started = true
    ∧ serving.mu.sweeping = false ∧ (serving.mu.chans.get .battV).owned = false ∧ Chan.supervision .battV = true
    ∧ serving.exposed .battV = false ∧ (sweeping .mains 1 1240 1100).mu.sweeping = true
    ∧ (sweeping .mains 1 1240 1100).mu.fresh .battV = some 1240 ∧ (sweeping .mains 1 1240 1100).mu.fresh .battI = some 5
    ∧ (sweeping .mains 1 1240 1100).mu.fresh .ldI = none
    ∧ (sweeping .mains 1 1240 1100).mu.beginSweep.fresh .battV = none
    ∧ (sweeping .mains 1 1240 1000).mu.averageOf .adapterV = some 1000
    ∧ (sweeping .mains 1 1159 999).mu.averageOf .battV = some 1159
    ∧ (sweeping .start 8 1160 0).mu.chans.battV.window.length = 8
    ∧ (sweeping .start 7 1160 0).mu.chans.battV.window.length ≠ 8
    ∧ (sweeping .mains 1 1240 1100).sup.adapter = .present ∧ serving.sup.loss = .none
    ∧ (after .sweepEnd ((sweeping .mains 1 1240 1100).modMu fun x => { x with pending := some ⟨.requested, .reset⟩ })).mu.snapNumber = 1
    ∧ (after .sweepEnd (sweeping .battery 1 1159 0)).sup.mode = .reserve
    ∧ (after .sweepEnd (sweeping .battery 1 1160 0)).sup.mode = .battery := by decide +kernel

/-- A sweep with the die temperature and the two line voltages given. -/
def metered (die tip ring : Int) : State :=
  (sweeping .mains 1 1240 1100).modMu fun x => { x with chans := { x.chans with
    dieT := { Reset.muChan with window := [die] }, lineTipE := { Reset.muChan with window := [tip] }
    lineRingE := { Reset.muChan with window := [ring] } } }

theorem witness_SweepsMeasure_readings :
    (testing (aTest .lineForeign .line .box .running) serving).tu.current = some (aTest .lineForeign .line .box .running)
    ∧ (testing (aTest .lineInsulation .line .box .arming) serving).testing (fun t => t.phase == .arming) = true
    ∧ (TestKind.channels .lineForeign .line)[2]? = some .lineTR ∧ (TestKind.channels .portLoop .portB)[1]? = some .pbI
    ∧ [(⟨0, 0, 0⟩ : Reading), ⟨0, 0, 0⟩, ⟨0, 0, 0⟩][2]? = some ⟨0, 0, 0⟩
    ∧ ((serving.ownChannels [.lineTR] true).mu.chans.get .lineTR).owned = true
    ∧ serving.exposed .lineTR = true ∧ (agreed ⟨someSched 0, true, none, none⟩).gatedNow = true
    ∧ serving.gatedNow = false := by decide +kernel

/-- The adapter at 10.80 V, 10.79, 10.00 and 9.99; the battery at each limit; the timers idle; the modes reached. -/
theorem witness_SweepsMeasure_timers :
    (∀ v ∈ [(1080 : Int), 1079, 1000, 999], (sweeping .battery 1 1240 v).mu.averageOf .adapterV = some v)
    ∧ serving.mu.averageOf .adapterV = none ∧ serving.mu.averageOf .dieT = none
    ∧ (after .sweepEnd (sweeping .battery 1 1240 1080)).sup.mains = some 5000
    ∧ (after .sweepEnd (sweeping .battery 1 1240 1079)).sup.mains = none
    ∧ serving.settings.supply.cutoff = 1050 ∧ serving.settings.supply.reserveThreshold = 1160
    ∧ (after .sweepEnd (sweeping .reserve 1 1049 0)).sup.cutoff = some 5000
    ∧ (after .sweepEnd (sweeping .reserve 1 1050 0)).sup.cutoff = none
    ∧ (after .sweepEnd (sweeping .reserve 1 1190 0)).sup.recovery = some 60000
    ∧ (after .sweepEnd (sweeping .reserve 1 1189 0)).sup.recovery = none
    ∧ (after .sweepEnd (sweeping .mains 1 899 1100)).sup.lowBattery = some 60000
    ∧ (after .sweepEnd (sweeping .mains 1 900 1100)).sup.lowBattery = none
    ∧ (after .sweepEnd ((sweeping .mains 1 900 1100).modSup fun x => { x with batteryFault := true })).sup.batteryGood
      = some 60000
    ∧ (modeAt .depleted serving).sup.mode = .depleted ∧ (sweeping .mains 1 900 1100).sup.cutoff = none := by
  decide +kernel

/-- A BATTERY part whose battery asks for RESERVE, with nothing else measured, under the profile of BATTERY; a PROFILE in
flight keeps the change of profile waiting. -/
def fading : State :=
  ((sweeping .battery 1 1159 0).modSup fun x => { x with profile := .trim }).modLe fun x => { x with changeInFlight := true }
/-- A bell that rings under a plan, of the REN given where one was measured. -/
def bell (ren : Option Int) (s : State) : State :=
  ((s.modCallRaw .a fun r => { r with state := .alertingIn, sub := some .ringingPlan, plan := some (.ring 1) }).modPort .a
    fun x => { x with feed := .ringing, ringRequest := some 1 }).modTu fun x => { x with results := { x.results with
      portLoopA := { x.results.portLoopA with completed := ren.map fun v =>
        { values := [⟨0, false⟩, ⟨v, false⟩], outcome := .pass, requester := .box, endTime := 0 } } } }

/-- The entries to a mode: the line freed of SUPPLY, or held; tests of each kind; a REN at the limit and over it; the
calls under LIFELINE with the shedding as it was. -/
theorem witness_SweepsMeasure_entries :
    (∀ x ∈ [((1160 : Int), SupplyMode.battery), (1159, .reserve), (1049, .depleted)],
      ((sweeping .start 8 x.1 0).modLe fun e => { e with link := .idle, hold := ⟨false, false, false, false, false, true⟩
        }).sweepEnd.sup.mode = x.2)
    ∧ ((sweeping .start 8 1160 0).modLe fun e => { e with link := .idle, hold := ⟨false, false, false, false, false, true⟩
        }).sweepEnd.le.link = .quiet
    ∧ ((sweeping .start 8 1049 0).modLe fun e => { e with link := .idle, hold := ⟨false, false, false, false, false, true⟩
        }).sweepEnd.le.hold.isEmpty = false
    ∧ (testing (aTest .portLoop .portA .box .running) fading).sweepEnd.tu.current = none
    ∧ (testing (aTest .lineForeign .line .box .running) fading).sweepEnd.sup.mode = .reserve
    ∧ (testing (aTest .lineForeign .line .box .running) fading).tu.current = some (aTest .lineForeign .line .box .running)
    ∧ (testing (aTest .lineForeign .line .box .running) (sweeping .start 8 1049 0)).sweepEnd.sup.mode = .depleted
    ∧ (fading.cc.custody = .box ∧ fading.sup.mode ≠ .mains ∧ fading.sweepEnd.cc.grace = some 30000)
    ∧ (fading.settings.supply.renLimit = 20 ∧ (bell (some 21) fading).sweepEnd.lastRen .a = some 21
        ∧ ((bell (some 21) fading).sweepEnd.call .a).plan = some (.ring 1)
        ∧ ((bell (some 21) fading).sweepEnd.port .a).ringRequest = none)
    ∧ (∀ r ∈ [some (20 : Int), none], ((bell r fading).sweepEnd.call .a).state = .alertingIn
        ∧ ((bell r fading).call .a).admission = none ∧ ((bell r fading).sweepEnd.port .a).hold.isEmpty = true
        ∧ ((bell r fading).sweepEnd.port .a).ringRequest = some 1)
    ∧ (fading.mu.averageOf .dieT = none ∧ fading.mu.averageOf .lineTipE = none ∧ fading.mu.averageOf .lineRingE = none
        ∧ fading.tu.current = none ∧ fading.le.hold.supply = false) := by decide +kernel

/-- Both ports marked, a call at FULL: LIFELINE asks it down; with LIFELINE already in force nothing is asked. -/
theorem witness_SweepsMeasure_lifeline :
    let m : State := fading.modSettings fun x => { x with ports := ⟨{ x.ports.a with lifelineMarked := true },
      { x.ports.b with lifelineMarked := true }⟩ }
    let s : State := m.modCallRaw .a fun r => { r with state := .connected, channel := some 0, coding := some .full }
    s.sweepEnd.sup.mode = .reserve ∧ s.sweepEnd.le.link = s.le.link ∧ s.sweepEnd.effProfile ≠ s.effProfile
    ∧ (∀ p ∈ [Port.a, .b], (s.sweepEnd.port p).hold.shed = (s.port p).hold.shed)
    ∧ s.askedDown s.sweepEnd .a = true ∧ (s.sweepEnd.call .a).downgrade = some ⟨none⟩
    ∧ (m.modSup fun x => { x with profile := .lifeline }).sweepEnd.effProfile = .lifeline := by decide +kernel

/-- The die and the line at each limit, for an absent and a present condition; a record in each state. -/
theorem witness_SweepsMeasure_conditions :
    (metered 220 0 0).mu.averageOf .dieT = some 220 ∧ (metered 0 (-251) 250).mu.averageOf .lineTipE = some (-251)
    ∧ (metered 0 (-251) 250).mu.averageOf .lineRingE = some 250
    ∧ (after .sweepEnd (metered 219 250 0)).fs.recs = serving.fs.recs
    ∧ ((after .sweepEnd (metered 220 0 (-251))).faultRec .thermalWarn).state = .active
    ∧ ((after .sweepEnd (metered 220 0 (-251))).faultRec .foreignVoltage).value = some 251
    ∧ ((after .sweepEnd (metered 280 0 0)).faultRec .thermalShutdown).state = .active
    ∧ ((after .sweepEnd (metered 279 0 0)).faultRec .thermalShutdown).state = .clear
    ∧ (∀ st ∈ [FaultState.clear, .recovered, .active, .retryWait, .latched],
        ((present .foreignVoltage st .retryFast (metered 0 220 0)).faultRec .foreignVoltage).state = st)
    ∧ ((after .sweepEnd (present .foreignVoltage .active .report (metered 0 220 0))).faultRec .foreignVoltage).condition
      = false
    ∧ ((after .sweepEnd (present .foreignVoltage .active .report (metered 0 221 0))).faultRec .foreignVoltage).condition
      = true
    ∧ ((after .sweepEnd (present .thermalWarn .latched .report (metered 199 0 0))).faultRec .thermalWarn).condition = false
    ∧ ((after .sweepEnd (present .thermalWarn .latched .report (metered 200 0 0))).faultRec .thermalWarn).condition = true
    ∧ serving.sup.loss ≠ .ended := by decide +kernel

/-- The last sweep an account counts, and a credit at its limit. -/
theorem witness_SweepsMeasure_overflow :
    (after .sweepEnd ((sweeping .mains 1 1240 1100).modMu fun x => { x with
      accounts := { x.accounts with total := ⟨0, Config.countLimit - 1⟩ } })).mu.overflow = true
    ∧ (after .sweepEnd ((sweeping .mains 1 1240 1100).modMu fun x => { x with
      accounts := { x.accounts with total := ⟨0, Config.countLimit - 2⟩ } })).mu.overflow = false
    ∧ (after .sweepEnd ((sweeping .mains 1 1240 1100).modMu fun x => { x with
      accounts := { x.accounts with total := ⟨Config.accLimit, 0⟩ } })).mu.overflow = true := by decide +kernel

theorem witness_SupplyTimersExpire :
    (serving.modSup fun x => { x with mains := some 0, recovery := some 0, cutoff := some 0, lowBattery := some 0
                                      batteryGood := some 0, mode := .reserve }).sup.mains ≠ none
    ∧ (modeAt .battery serving).sup.mode = .battery ∧ serving.le.link = .inService ∧ serving.tu.current = none
    ∧ (serving.ss.outQueue.filter fun m => !m.isSend).length < 24
    ∧ (serving.modSup fun x => { x with loss := .waiting 0 }).sup.loss = .waiting 0
    ∧ serving.sup.mains = none ∧ serving.sup.cutoff = none ∧ serving.sup.loss = .none := by decide +kernel

/-- RESERVE left for MAINS in service: the effective profile changes and the link stays. -/
theorem witness_SupplyTimersExpire_profile :
    let s : State := (serving.modLe fun x => { x with changeInFlight := true }).modSup fun x =>
      { x with mains := some 0, mode := .reserve, profile := .lifeline }
    (s.enterMode .mains).le.link = s.le.link ∧ (s.enterMode .mains).effProfile ≠ s.effProfile
    ∧ s.le.hold.supply = false ∧ ((modeAt .battery serving).enterMode .mains).effProfile = serving.effProfile := by
  decide +kernel

theorem witness_TestsRunAndEnd :
    (testing (aTest .lineInsulation .line .operator .arming) serving).tu.current
      = some (aTest .lineInsulation .line .operator .arming)
    ∧ (aTest .lineInsulation .line .operator .arming).arm ≠ none
    ∧ (aTest .portLoop .portA .box .running).timeLeft ≠ none
    ∧ (aTest .portLoop .portA .box .running).complete = false
    ∧ { aTest .portLoop .portA .box .running with r0 := ⟨1, 5000, 0⟩, r1 := ⟨1, 50, 0⟩ }.complete = true
    ∧ (after .testDurationEnd (testing { aTest .portLoop .portA .box .running with
        r0 := ⟨1, 5000, 0⟩, r1 := ⟨1, 50, 0⟩ } serving)).tu.results.portLoopA.latest.map (·.outcome) = some .pass
    ∧ (after .testDurationEnd (testing { aTest .portLoop .portA .box .running with
        r0 := ⟨1, 5000, 0⟩, r1 := ⟨1, 51, 0⟩ } serving)).tu.results.portLoopA.latest.map (·.outcome) = some .fail
    ∧ 10 * serving.settings.faults.foreignThreshold = 250
    ∧ (after .testDurationEnd (testing { aTest .lineForeign .line .box .running with
        r0 := ⟨1, 250, -250⟩, r1 := ⟨1, -250, 250⟩, r2 := ⟨1, 1500, 1500⟩ } serving)).tu.results.lineForeign.latest.map
        (·.outcome) = some .pass
    ∧ (after .testDurationEnd (testing { aTest .lineForeign .line .box .running with
        r0 := ⟨1, 0, 0⟩, r1 := ⟨1, -251, 0⟩, r2 := ⟨1, 0, 0⟩ } serving)).tu.results.lineForeign.latest.map
        (·.outcome) = some .fail
    ∧ (after .testDurationEnd (testing { aTest .portLoop .portA .box .running with
        r0 := ⟨1, 4999, 0⟩, r1 := ⟨1, 50, 0⟩ } serving)).tu.results.portLoopA.latest.map (·.outcome) = some .fail := by
  decide +kernel

theorem witness_TestsRunAndEnd_source :
    (testing (aTest .lineInsulation .line .operator .arming) serving).measuringSource = none
    ∧ (after .armingTimeout (testing (aTest .lineInsulation .line .operator .arming) serving)).measuringSource
      = some .line
    ∧ (testing (aTest .portLoop .portB .box .running) serving).measuringSource = some .portB
    ∧ (after .testDurationEnd (testing (aTest .portLoop .portB .box .running) serving)).measuringSource = none
    ∧ (testing (aTest .lineForeign .line .box .running) serving).measuringSource = none := by decide +kernel

/-- A call that carries on channel 0. -/
def talking : State := callA fun r => { r with state := .connected, channel := some 0, coding := some .full }

theorem witness_TestsRunAndEnd_start : (asking serving [0x30, 1, 1, 1, 0]).asks [0x30, 1, 1, 1, 0]
    ∧ (talking.call .a).state = .connected ∧ (talking.call .a).channel ≠ none ∧ serving.le.hold.test = false
    ∧ (serving.call .a).state ≠ .connected ∧ (serving.call .b).state ≠ .connected
    ∧ serving.sup.mode = .mains ∧ (modeAt .battery serving).sup.mode = .battery ∧ serving.tu.current = none
    ∧ serving.ss.repeats.testReq.last ≠ some 0 ∧ serving.le.link = .inService
    ∧ (aTest .lineInsulation .line .box .running).requester = .box
    ∧ (aTest .lineInsulation .line .box .running).phase = .running := by decide +kernel

theorem witness_TestsRunAndEnd_restart : (asking serving [0x03, 1, 0]).asks [0x03, 1, 0]
    ∧ (asking serving [0x03, 1, 1]).asks [0x03, 1, 1] ∧ (linkAt .quiet serving).le.link ≠ .inService
    ∧ (aTest .portLoop .portB .box .running).kind = .portLoop
    ∧ ((callA fun r => { r with state := .seizing, txs := { r.txs with seize := true } }).seizeSent .a) = true
    ∧ serving.seizeSent .a = false
    ∧ ((callA fun r => { r with state := .alertingIn, admission := some 0 }).call .a).admission ≠ none
    ∧ (callA fun r => { r with state := .clearing, cause := .normal }).seizeSent .a = false := by decide +kernel

theorem witness_FaultTimersExpire :
    ((faultAt .foreignVoltage .retryWait (some 0)).faultRec .foreignVoltage).state = .retryWait
    ∧ ((faultAt .foreignVoltage .retryWait (some 0)).faultRec .foreignVoltage).retry ≠ none
    ∧ (serving.faultRec .foreignVoltage).state ≠ .retryWait := by decide +kernel

end Sys2Proof.Tests
end

section
/-!
PROOFS. Every command but a start is an effect on a waking part that keeps what operations keep (`Keeps`), so that a step
from a safe state ends in a safe state (`everyStepKeepsSafe`).
-/

namespace Sys2Proof.Machine

/-- An effect that keeps, from every state, what operations keep. -/
abbrev Keeps (f : State → State) : Prop := ∀ s, Kept s (f s)

variable {z s : State}

/-- An effect taken where its occasion stands (log 1). -/
theorem kept_when {c : Prop} [Decidable c] {x : State} (h : c → Calm allSides s x) : Kept s (if c then x else s) := by
  split
  · exact (h ‹_›).kept
  · exact .refl s

/-! ## Starts -/

/-- A start leaves every block at its reset values but for the retained history (R180). -/
theorem restart_safe (cause : ResetCause) (strap : Bool) (h : s.bounded) : (s.restart cause strap).safe := by
  refine ⟨?_, by simp [State.hostPowered, State.restart, State.reset, Reset.sup, Reset.cc], ?_,
    (by decide : Reset.le.held), (by decide : Reset.port.held), (by decide : Reset.port.held), .empty rfl rfl,
    Nat.zero_le _, ⟨Nat.zero_le _, by simp [State.restart, State.reset, Reset.ss]⟩, List.nodup_nil,
    rfl, fun _ => ⟨rfl, rfl, rfl, rfl, rfl, rfl, rfl, rfl, rfl, rfl⟩⟩
  · simp [State.bounded, State.restart, State.reset, Reset.fs, Reset.plk, Reset.ss, Reset.port, h.1]
  · simp [State.channelsApart, State.restart, State.reset, Reset.cc, Reset.call, CallRec.channels]

/-- After a power-on nothing is retained (R180). -/
theorem powerOn_safe (strap : Bool) : ∀ t, execPowerOnReset strap s = .next t → t.safe := by
  rintro t ⟨⟩
  refine ⟨?_, by simp [State.hostPowered, State.reset, Reset.sup, Reset.cc], ?_,
    (by decide : Reset.le.held), (by decide : Reset.port.held), (by decide : Reset.port.held), .empty rfl rfl,
    Nat.zero_le _, ⟨Nat.zero_le _, by simp [State.reset, Reset.ss]⟩, List.nodup_nil,
    rfl, fun _ => ⟨rfl, rfl, rfl, rfl, rfl, rfl, rfl, rfl, rfl, rfl⟩⟩
  · simp [State.bounded, State.reset, Reset.fs, Reset.plk, Reset.ss, Reset.port]
  · simp [State.channelsApart, State.reset, Reset.cc, Reset.call, CallRec.channels]

/-! ## One millisecond -/

theorem passUptime_safe (h : s.safe) : s.passUptime.safe := by
  unfold State.passUptime
  split <;> exact h

theorem SS.passMs_queueLaw {x : SS} (h : x.queueLaw) : x.passMs.queueLaw :=
  h.retime _ rfl rfl (fun _ => rfl) fun t _ _ ht => by simp [Timer.pass, ht]

theorem PLK.passMs_frame_none {k : PLK} (clocks : List Nat) (h : k.frame = none) : (k.passMs clocks).frame = none := by
  simp [PLK.passMs, h]

/-- The running timers are no part of the laws (log 2). -/
theorem tick_safe (h : s.safe) : s.tick.safe := by
  unfold State.tick
  split
  · exact h
  · split
    · exact passUptime_safe h
    · obtain ⟨⟨b1, b2, b3, b4, b5, b6, b7⟩, c, d, e, f, g, i, j, k, l, m, n⟩ := h
      refine ⟨⟨b1, b2, b3, by simpa [SS.passMs] using b4, b5, b6, b7⟩, c, d, e, f, g, SS.passMs_queueLaw i, j, k, l, m,
        fun ho => ?_⟩
      obtain ⟨m1, m2, m3, m4, m5, m6, m7, m8⟩ := n ho
      exact ⟨m1, m2, m3, m4, m5, m6, PLK.passMs_frame_none _ m7, m8⟩


/-! ## The commands -/

/-- Entry to service from EXCHANGE, whose driver runs (R8). -/
theorem calm_enterService_table (x : Exchange) (up : List (Nat × Nat)) (accepted : Bool) {K : Side → Prop}
    (h : Calm K z s) (hs : s.le.link.driverOn = true) : Calm K z (s.enterService x up accepted) := by
  unfold State.enterService
  exact calm_handPMin (calm_grantWaiting (calm_trainFail _ (calm_linkLossOver (calm_ftUpd _ (calm_setInForce _
    (calm_modLe _ (calm_modTt _ (calm_setLink_train _ h hs rfl)) rfl rfl))))))

theorem keeps_sweepPeriodStart (samples : PerChan Sample) :
    Keeps fun s => if s.mu.started && !s.mu.sweeping then
      allChans.foldl (State.sampleChan samples) (s.modMu MU.beginSweep) else s := by
  have one : ∀ (c : Chan) {z s : State}, Kept z s → Kept z (s.sampleChan samples c) := by
    intro c z s h
    unfold State.sampleChan
    dsimp only
    repeat' split
    all_goals first | exact h | exact kept_modMu _ h | exact h.calm (calm_modTu _ (.refl _ _))
  have all : ∀ (l : List Chan) {z s : State}, Kept z s → Kept z (l.foldl (State.sampleChan samples) s) := by
    intro l
    induction l with
    | nil => exact fun h => h
    | cons c l ih => exact fun h => ih (one c h)
  exact fun s => kept_ite _ (all _ (kept_modMu _ (.refl s))) (.refl s)

/-- The commands that start the part (R138, R180). -/
def isStart : Instr → Bool
  | .powerOnReset _ | .pinReset _ | .wake _ => true
  | _ => false

/-- A command's arm of `exec`: an effect on the waking part that keeps what operations keep. -/
abbrev Lives (e : State → Host.Outcome State Fault Refusal) : Prop :=
  ∃ f, Keeps f ∧ ∀ s, e s = .next (s.live f)

theorem Lives.mk {e : State → Host.Outcome State Fault Refusal} {f : State → State}
    (he : ∀ s, e s = .next (s.live f)) (hf : Keeps f) : Lives e := ⟨f, hf, he⟩

/-- A request whose handler keeps what operations keep (R172). -/
theorem lives_request {α : Type} [DecidableEq α] {code : Nat} {f : Reader α} {args : α} {run : State → State}
    {e : State → Host.Outcome State Fault Refusal} (he : ∀ s, e s = .next (s.live fun s => s.request code f args run))
    (h : Keeps run) : Lives e := .mk he fun s => kept_request _ _ _ _ (.refl s) (h s)

theorem lives_unknownRequest : Lives (exec .unknownRequest) :=
  .mk (fun _ => rfl) fun s => by
    split
    · exact .refl s
    · exact kept_ite _ (.refl s) (kept_reply _ (.refl s))

theorem lives_settingsSaveWriteEnd : Lives (exec .settingsSaveWriteEnd) :=
  .mk (fun _ => rfl) fun s => by
    split
    · exact kept_writeReply _ (kept_modSts _ (.refl s))
    · exact .refl s

theorem lives_regionWriteEnd : Lives (exec .regionWriteEnd) :=
  .mk (fun _ => rfl) fun s => by
    split
    · exact kept_writeReply _ (kept_modSts _ (.refl s))
    · exact .refl s

/-! ### Training -/

/-- In the training states the line driver runs (1.1). -/
theorem driverOn_training {l : LinkState} (h : l ≠ .idle) (h' : l ≠ .testHold) : l.driverOn = true := by
  cases l <;> simp_all [LinkState.driverOn]

/-- An effect that keeps the line's law from a state whose driver runs. -/
theorem kept_whileDriverOn {c : Prop} [Decidable c] {x : State} (hc : c → s.le.link.driverOn = true)
    (h : s.le.link.driverOn = true → Calm allSides s x) : Kept s (if c then x else s) :=
  kept_when fun h' => h (hc h')

theorem lives_quietTimerExpiry : Lives (exec .quietTimerExpiry) :=
  .mk (fun _ => rfl) fun s => kept_whileDriverOn (fun h => by simp_all [LinkState.driverOn])
    fun h => calm_modLe _ (calm_setLink_train _ (.refl _ _) h rfl) rfl rfl

theorem lives_startReply : Lives (exec .startReply) :=
  .mk (fun _ => rfl) fun s => kept_whileDriverOn (fun h => by simp_all [LinkState.driverOn])
    fun h => calm_modLe _ (calm_setLink_train _ (.refl _ _) h rfl) rfl rfl

theorem lives_refusal : Lives (exec .refusal) :=
  .mk (fun _ => rfl) fun s => kept_whileDriverOn
    (fun h => by simp only [Bool.or_eq_true, decide_eq_true_eq] at h; rcases h with h | h <;> rw [h] <;> rfl)
    fun h => calm_attemptFail _ (.refl _ _) h

theorem lives_handshakeTimeout : Lives (exec .handshakeTimeout) :=
  .mk (fun _ => rfl) fun s => kept_whileDriverOn (fun h => by simp_all [LinkState.driverOn])
    fun h => calm_attemptFail _ (.refl _ _) h

theorem lives_exchangeTimeout : Lives (exec .exchangeTimeout) :=
  .mk (fun _ => rfl) fun s => kept_whileDriverOn (fun h => by simp_all [LinkState.driverOn])
    fun h => calm_attemptFail _ (.refl _ _) h

theorem lives_probeEnd : Lives (exec .probeEnd) :=
  .mk (fun _ => rfl) fun s => kept_whileDriverOn (fun h => by simp_all [LinkState.driverOn])
    fun h => calm_enterExchange _ _ (.refl _ _) h

theorem lives_upstreamTable (tones : List (Nat × Nat)) : Lives (exec (.upstreamTable tones)) :=
  .mk (fun _ => rfl) fun s => by
    split
    · refine kept_whileDriverOn (fun h => by simp_all [LinkState.driverOn]) fun h => ?_
      split
      · exact calm_attemptFail _ (.refl _ _) h
      · split
        · exact calm_attemptFail _ (.refl _ _) h
        · exact calm_modLe _ (.refl _ _) rfl rfl
    · exact .refl s

theorem lives_confirmation (accepted : Bool) : Lives (exec (.confirmation accepted)) :=
  .mk (fun _ => rfl) fun s => by
    split
    · split
      · exact kept_whileDriverOn (fun h => by simp_all [LinkState.driverOn])
          fun h => calm_enterService_table _ _ _ (.refl _ _) h
      · exact .refl s
    · exact .refl s

theorem lives_backOffExpiry : Lives (exec .backOffExpiry) :=
  .mk (fun _ => rfl) fun s => kept_whileDriverOn (fun h => by simp_all [LinkState.driverOn])
    fun h => calm_linkLossRetraining (calm_enterQuiet_train (.refl _ _) h)

/-! ### The line in service and the fence gate -/

theorem lives_windowMissed : Lives (exec .windowMissed) :=
  .mk (fun _ => rfl) fun s => by
    split
    · exact kept_when fun _ => calm_ftUpd _ (.refl _ _)
    · exact .refl s

theorem lives_profileTimerExpiry : Lives (exec .profileTimerExpiry) :=
  .mk (fun _ => rfl) fun s => by
    split
    · exact kept_when fun _ => calm_ite _ (fun _ => calm_loss _ (.refl _ _))
        fun _ => calm_setInForce _ (calm_modLe _ (.refl _ _) rfl rfl)
    · exact .refl s

theorem lives_swapApply : Lives (exec .swapApply) :=
  .mk (fun _ => rfl) fun s => by
    split
    · exact kept_when fun _ => calm_changeEnded _ (calm_handPMin (calm_modTt _ (.refl _ _)))
    · exact .refl s

theorem lives_rateApply : Lives (exec .rateApply) :=
  .mk (fun _ => rfl) fun s => by
    split
    · exact kept_when fun _ => calm_applyRate _ (.refl _ _)
    · exact .refl s

theorem lives_upTableApply : Lives (exec .upTableApply) :=
  .mk (fun _ => rfl) fun s => by
    split
    · exact kept_when fun _ => calm_applyUp _ (.refl _ _)
    · exact .refl s

theorem lives_codingApply (p : Port) : Lives (exec (.codingApply p)) :=
  .mk (fun _ => rfl) fun s => by
    split
    · exact kept_when fun _ => calm_updCall_keep _ _ (.refl _ _) rfl rfl
    · exact .refl s

theorem lives_agreementInForce : Lives (exec .agreementInForce) :=
  .mk (fun _ => rfl) fun s => by
    split
    · exact kept_when fun _ => calm_widthChanged _ (calm_ftUpd _ (.refl _ _))
    · exact .refl s

theorem lives_replacementInForce : Lives (exec .replacementInForce) :=
  .mk (fun _ => rfl) fun s => by
    split
    · split
      · exact kept_when fun _ => calm_widthChanged _ (calm_ftUpd _ (.refl _ _))
      · exact .refl s
    · exact .refl s

theorem lives_agreementEnd : Lives (exec .agreementEnd) :=
  .mk (fun _ => rfl) fun s => by
    split
    · exact kept_when fun _ => calm_widthChanged _ (calm_ftUpd _ (.refl _ _))
    · exact .refl s

theorem lives_impulseSecondClose : Lives (exec .impulseSecondClose) :=
  .mk (fun _ => rfl) fun _ => kept_when fun _ => calm_ite _ (fun _ => calm_modFt _ (.refl _ _))
    fun _ => calm_faultCondition _ _ _ (calm_ftUpd _ (calm_modFt _ (.refl _ _)))

/-! ### Ports and calls -/

theorem lives_offHook (p : Port) : Lives (exec (.offHook p)) :=
  .mk (fun _ => rfl) fun s => kept_when fun h => calm_lift p false (.refl _ _) (by
    simp only [Bool.and_eq_true, Bool.or_eq_true, beq_iff_eq] at h
    rcases h.1.2 with e | e <;> exact (congrArg Feed.inService e).trans rfl)

theorem lives_ringTrip (p : Port) : Lives (exec (.ringTrip p)) :=
  .mk (fun _ => rfl) fun s => kept_when fun h => calm_lift p true (.refl _ _) (by
    simp only [Bool.and_eq_true, beq_iff_eq] at h
    exact (congrArg Feed.inService h.1.2).trans rfl)

theorem lives_onHook (p : Port) : Lives (exec (.onHook p)) :=
  .mk (fun _ => rfl) fun s => kept_when fun h => calm_ccOnHook p (calm_raise _ (calm_port_serve p _ (.refl _ _)
    (Feed.talk_inService (by simp only [Bool.and_eq_true] at h; exact h.2)) id rfl rfl))

theorem lives_toneDigit (p : Port) (d : Digit) : Lives (exec (.toneDigit p d)) :=
  .mk (fun _ => rfl) fun s => kept_when fun _ => by
    have h : ∀ t, Calm allSides s t → Calm allSides s (if (t.addDigit p d .tone).2 then
        (t.addDigit p d .tone).1.ccDigit p else (t.addDigit p d .tone).1) := fun t h =>
      calm_ite _ (fun _ => calm_ccDigit _ (calm_addDigit _ _ _ h)) fun _ => calm_addDigit _ _ _ h
    exact h _ (calm_modPort_keep _ _ (.refl _ _) rfl rfl rfl)

theorem lives_polaritySwapEnd (p : Port) : Lives (exec (.polaritySwapEnd p)) :=
  .mk (fun _ => rfl) fun s => kept_when fun h => calm_port_serve p _ (.refl _ _)
    ((congrArg Feed.inService h).trans rfl) id
    (by rw [PP.enter_feed]; split <;> rfl) rfl

theorem lives_cadencePhaseEnd (p : Port) : Lives (exec (.cadencePhaseEnd p)) :=
  .mk (fun _ => rfl) fun s => by
    dsimp only
    split
    · split
      · rename_i h
        exact (calm_port_serve p _ (.refl _ _) ((congrArg Feed.inService h).trans rfl) id rfl rfl).kept
      · refine kept_when fun h => ?_
        have hs := (congrArg Feed.inService h).trans (rfl : Feed.ringPause.inService = true)
        exact calm_ite _ (fun _ => calm_burstStart p _ _ (.refl _ _) hs) fun _ => calm_burstStart p _ _ (.refl _ _) hs
    · exact .refl s

theorem lives_admissionWaitExpiry (p : Port) : Lives (exec (.admissionWaitExpiry p)) :=
  .mk (fun _ => rfl) fun s => by
    dsimp only
    split
    · exact .refl s
    · split
      · exact (calm_updCall_keep _ _ (.refl _ _) rfl rfl).kept
      · exact (calm_freeCall _ _ (calm_nakAlert _ _ (.refl _ _))).kept
      · exact .refl s

theorem lives_alertTimerExpiry (p : Port) : Lives (exec (.alertTimerExpiry p)) :=
  .mk (fun _ => rfl) fun s => by
    split
    · exact .refl s
    · split
      · exact (calm_releaseCall _ _ (.refl _ _)).kept
      · exact (calm_leaveIntercom _ _ (calm_freeCall _ _ (calm_ringOff _ (.refl _ _)))).kept
      · exact .refl s

/-! ### Supply and tests -/

theorem lives_lossMessageTimeout : Lives (exec .lossMessageTimeout) :=
  .mk (fun _ => rfl) fun s => by
    split
    · exact (calm_modSup _ (.refl _ _) rfl rfl).kept
    · exact .refl s
    · exact .refl s

theorem lives_armingTimeout : Lives (exec .armingTimeout) :=
  .mk (fun _ => rfl) fun _ => kept_when fun _ =>
    calm_lineLaw (calm_armedRaw ((Calm.refl _ _).but .line) fun h => h.2 rfl)

theorem lives_testDurationEnd : Lives (exec .testDurationEnd) :=
  .mk (fun _ => rfl) fun s => by
    split
    · exact kept_when fun _ => calm_ite _ (fun _ => calm_finishTest _ (.refl _ _)) fun _ => calm_abortTest _ (.refl _ _)
    · exact .refl s

/-- Every command but a start lives. -/
theorem exec_lives : ∀ c : Instr, isStart c = false → Lives (exec c)
  | .powerOnReset _, h | .pinReset _, h | .wake _, h => absurd h (by simp [isStart])
  | .settingsLoadEnd, _ => .mk (fun _ => rfl) fun s => kept_ite _ (kept_loadEnd (.refl s)) (.refl s)
  | .requestFrame tag body, _ => .mk (fun _ => rfl)
      fun s => kept_hostFrame _ _ _ _ (.refl s) (kept_takeRequest _ _ (.refl s))
  | .dataUp tag body, _ => .mk (fun _ => rfl) fun s => kept_hostFrame _ _ _ _ (.refl s) (kept_takeData _ (.refl s))
  | .frameError _, _ => .mk (fun _ => rfl) fun s => kept_rxStream _ (.refl s)
  | .frameSent, _ => .mk (fun _ => rfl) fun s => kept_frameDone (.refl s)
  | .unknownRequest, _ => lives_unknownRequest
  | .lineStatus, _ => lives_request (fun _ => rfl) (fun s => kept_reply _ (.refl s))
  | .lineConfigure _ _ _, _ => lives_request (fun _ => rfl) (fun s => kept_lineConfigure _ _ _ (.refl s))
  | .restartLine, _ => .mk (fun _ => rfl)
      fun s => kept_restartRequest _ _ (.refl s) (calm_restartLine (.refl _ _)).kept
  | .restartPorts, _ => .mk (fun _ => rfl)
      fun s => kept_restartRequest _ _ (.refl s) (calm_restartPorts (.refl _ _)).kept
  | .lineTableRead _ _, _ => lives_request (fun _ => rfl) (fun s => kept_lineTableRead _ _ (.refl s))
  | .toneMask _ _, _ => lives_request (fun _ => rfl) (fun s => kept_toneMask _ _ (.refl s))
  | .gateConfigure _ _ _ _, _ => lives_request (fun _ => rfl) (fun s => kept_gateConfigure _ _ _ _ (.refl s))
  | .gateStatus _, _ => lives_request (fun _ => rfl) (fun s => kept_gateStatus _ (.refl s))
  | .scheduleConfigure _, _ => lives_request (fun _ => rfl) (fun s => kept_scheduleConfigure _ (.refl s))
  | .scheduleStatus _, _ => lives_request (fun _ => rfl) (fun s => kept_scheduleStatus _ (.refl s))
  | .portConfigure _ _ _ _ _ _ _ _ _, _ => lives_request (fun _ => rfl)
      (fun s => kept_portConfigure _ _ _ _ _ _ _ _ _ (.refl s))
  | .cadenceSet _ _, _ => lives_request (fun _ => rfl) (fun s => kept_cadenceSet _ _ (.refl s))
  | .portStatus _ _, _ => lives_request (fun _ => rfl) (fun s => kept_portStatus _ _ (.refl s))
  | .ringPlan _ _, _ => lives_request (fun _ => rfl) (fun s => kept_ringPlan _ _ (.refl s))
  | .intercom _, _ => lives_request (fun _ => rfl) (fun s => kept_intercomRequest _ (.refl s))
  | .custodyClaim, _ => lives_request (fun _ => rfl) (fun s => kept_custodyClaim (.refl s))
  | .custodyRelease, _ => lives_request (fun _ => rfl) (fun s => kept_custodyRelease (.refl s))
  | .callStatus, _ => lives_request (fun _ => rfl) (fun s => kept_reply _ (.refl s))
  | .digitsRead _, _ => lives_request (fun _ => rfl) (fun s => kept_digitsRead _ (.refl s))
  | .snapshot _, _ => lives_request (fun _ => rfl) (fun s => kept_snapshotRequest _ (.refl s))
  | .measureConfigure _ _ _, _ => lives_request (fun _ => rfl) (fun s => kept_measureConfigure _ _ _ (.refl s))
  | .measureRead, _ => lives_request (fun _ => rfl) (fun s => kept_reply _ (.refl s))
  | .supplyConfigure _ _ _, _ => lives_request (fun _ => rfl) (fun s => kept_supplyConfigure _ _ _ (.refl s))
  | .supplyStatus, _ => lives_request (fun _ => rfl) (fun s => kept_reply _ (.refl s))
  | .testStart _ _, _ => lives_request (fun _ => rfl) (fun s => kept_testStart _ _ (.refl s))
  | .testAbort, _ => lives_request (fun _ => rfl) (fun s => kept_testAbort (.refl s))
  | .testRead, _ => lives_request (fun _ => rfl) (fun s => kept_reply _ (.refl s))
  | .faultPolicy _ _ _ _ _ _ _ _, _ => lives_request (fun _ => rfl) (fun s => kept_faultPolicy _ (.refl s))
  | .faultClear _, _ => lives_request (fun _ => rfl) (fun s => kept_faultClear _ (.refl s))
  | .faultRead _, _ => lives_request (fun _ => rfl) (fun s => kept_faultRead _ (.refl s))
  | .faultHistory _ _, _ => lives_request (fun _ => rfl) (fun s => kept_reply _ (.refl s))
  | .settingsSave, _ => lives_request (fun _ => rfl) (fun s => kept_beginSave (.refl s))
  | .settingsSaveWriteEnd, _ => lives_settingsSaveWriteEnd
  | .settingsDefaults, _ => lives_request (fun _ => rfl)
      (fun s => kept_ite _ (kept_reply _ (.refl s)) (kept_reply _ (kept_applyDefaults (.refl s))))
  | .identityRead, _ => lives_request (fun _ => rfl) (fun s => kept_reply _ (.refl s))
  | .identityWrite _ _, _ => lives_request (fun _ => rfl) (fun s => kept_identityWrite _ _ (.refl s))
  | .calibrate _ _ _, _ => lives_request (fun _ => rfl) (fun s => kept_calibrate _ _ _ (.refl s))
  | .regionWriteEnd, _ => lives_regionWriteEnd
  | .quietTimerExpiry, _ => lives_quietTimerExpiry
  | .startReply, _ => lives_startReply
  | .refusal, _ => lives_refusal
  | .handshakeTimeout, _ => lives_handshakeTimeout
  | .probeEnd, _ => lives_probeEnd
  | .upstreamTable _, _ => lives_upstreamTable _
  | .confirmation _, _ => lives_confirmation _
  | .exchangeTimeout, _ => lives_exchangeTimeout
  | .backOffExpiry, _ => lives_backOffExpiry
  | .symbolReceived _, _ => .mk (fun _ => rfl) fun _ => kept_when fun _ => calm_symbol _ (.refl _ _)
  | .windowMissed, _ => lives_windowMissed
  | .syncFailureLoss, _ => .mk (fun _ => rfl) fun _ => kept_when fun _ => calm_loss _ (.refl _ _)
  | .lowPowerLoss, _ => .mk (fun _ => rfl) fun _ => kept_when fun _ => calm_loss _ (.refl _ _)
  | .retrain _ _ _, _ => .mk (fun _ => rfl) fun _ => (calm_retrainMsg _ (.refl _ _)).kept
  | .retrainTimeout, _ => .mk (fun _ => rfl) fun _ => kept_when fun _ => calm_loss _ (.refl _ _)
  | .profileTimerExpiry, _ => lives_profileTimerExpiry
  | .evaluation, _ => .mk (fun _ => rfl)
      fun _ => kept_when fun _ => calm_periodicBeacon (calm_evaluate (calm_modLe _ (.refl _ _) rfl rfl))
  | .swapApply, _ => lives_swapApply
  | .rateApply, _ => lives_rateApply
  | .upTableApply, _ => lives_upTableApply
  | .codingApply _, _ => lives_codingApply _
  | .upstreamSuperframe _ _, _ => .mk (fun _ => rfl) fun s => kept_ite _ (kept_layUp _ _ (.refl s)) (.refl s)
  | .downstreamSuperframe _, _ => .mk (fun _ => rfl) fun s => kept_ite _ (kept_takeDown _ (.refl s)) (.refl s)
  | .unknownTypeMessage _ _ _ _, _ => .mk (fun _ => rfl)
      fun s => kept_ite _ (.refl s) (calm_unknownMsg _ (.refl _ _)).kept
  | .ack _ _ _, _ => .mk (fun _ => rfl) fun _ => (calm_ackMsg _ (.refl _ _)).kept
  | .nak _ _ _, _ => .mk (fun _ => rfl) fun _ => (calm_nakMsg _ (.refl _ _)).kept
  | .transactionTimeout _, _ => .mk (fun _ => rfl) fun _ => kept_when fun _ => calm_txTimeout _ (.refl _ _)
  | .upTable _ _ _, _ => .mk (fun _ => rfl) fun _ => (calm_upTableMsg _ (.refl _ _)).kept
  | .alert _ _ _, _ => .mk (fun _ => rfl) fun _ => (calm_alertMsg _ (.refl _ _)).kept
  | .clear _ _ _, _ => .mk (fun _ => rfl) fun _ => (calm_clearMsg _ (.refl _ _)).kept
  | .answered _ _ _, _ => .mk (fun _ => rfl) fun _ => (calm_answeredMsg _ (.refl _ _)).kept
  | .testReq _ _ _, _ => .mk (fun _ => rfl) fun _ => (calm_testReqMsg _ (.refl _ _)).kept
  | .beaconClear _ _ _, _ => .mk (fun _ => rfl) fun _ => (calm_beaconClearMsg _ (.refl _ _)).kept
  | .agreementInForce, _ => lives_agreementInForce
  | .replacementInForce, _ => lives_replacementInForce
  | .agreementEnd, _ => lives_agreementEnd
  | .gateRetryExpiry, _ => .mk (fun _ => rfl) fun _ => kept_when fun _ => calm_modFt _ (.refl _ _)
  | .impulseSecondClose, _ => lives_impulseSecondClose
  | .hookSample _ _ _, _ => .mk (fun _ => rfl) fun _ => kept_when fun _ => calm_hookSample _ _ _ (.refl _ _)
  | .offHook _, _ => lives_offHook _
  | .onHook _, _ => lives_onHook _
  | .ringTrip _, _ => lives_ringTrip _
  | .offHookOnTest _, _ => .mk (fun _ => rfl)
      fun _ => kept_when fun _ => calm_abortIf _ _ (calm_modPort_keep _ _ (.refl _ _) rfl rfl rfl)
  | .pulseTrainEnd _, _ => .mk (fun _ => rfl) fun _ => kept_when fun _ => calm_endTrain _ (.refl _ _)
  | .toneDigit _ _, _ => lives_toneDigit _ _
  | .toneAbsenceEnd _, _ => .mk (fun _ => rfl) fun _ => (calm_modPort_keep _ _ (.refl _ _) rfl rfl rfl).kept
  | .polaritySwapEnd _, _ => lives_polaritySwapEnd _
  | .cadencePhaseEnd _, _ => lives_cadencePhaseEnd _
  | .feedOvercurrent _, _ => .mk (fun _ => rfl)
      fun _ => kept_when fun _ => calm_portEvent _ _ (calm_modPort_keep _ _ (.refl _ _) rfl rfl rfl)
  | .ringOverload _, _ => .mk (fun _ => rfl)
      fun _ => kept_when fun _ => calm_portEvent _ _ (calm_modPort_keep _ _ (.refl _ _) rfl rfl rfl)
  | .admissionWaitExpiry _, _ => lives_admissionWaitExpiry _
  | .holdOffExpiry, _ => .mk (fun _ => rfl) fun _ => kept_when fun _ => calm_modCc _ (.refl _ _) rfl rfl
  | .decisionTimerExpiry _, _ => .mk (fun _ => rfl) fun _ => kept_when fun _ => calm_applyPlan _ _ (.refl _ _)
  | .alertTimerExpiry _, _ => lives_alertTimerExpiry _
  | .graceTimerExpiry, _ => .mk (fun _ => rfl)
      fun s => kept_ite _ ((kept_setPart (.refl s)).calm (calm_decideAll (.refl _ _))) (.refl s)
  | .sweepPeriodStart samples, _ => .mk (fun _ => rfl) (keeps_sweepPeriodStart samples)
  | .sweepEnd, _ => .mk (fun _ => rfl) fun s => kept_ite _ (kept_sweepEnd (.refl s)) (.refl s)
  | .mainsTimerExpiry, _ => .mk (fun _ => rfl)
      fun s => kept_ite _ (enterMode_kept .mains (by decide) (.refl s)) (.refl s)
  | .recoveryTimerExpiry, _ => .mk (fun _ => rfl)
      fun s => kept_ite _ (enterMode_kept .battery (by decide) (.refl s)) (.refl s)
  | .cutoffTimerExpiry, _ => .mk (fun _ => rfl)
      fun s => kept_ite _ (enterMode_kept .depleted (by decide) (.refl s)) (.refl s)
  | .lowBatteryTimerExpiry, _ => .mk (fun _ => rfl) fun _ => kept_when fun _ => calm_setBatteryFault _ (.refl _ _)
  | .batteryGoodTimerExpiry, _ => .mk (fun _ => rfl) fun _ => kept_when fun _ => calm_setBatteryFault _ (.refl _ _)
  | .lossMessageTimeout, _ => lives_lossMessageTimeout
  | .armingTimeout, _ => lives_armingTimeout
  | .testDurationEnd, _ => lives_testDurationEnd
  | .retryTimerExpiry _, _ => .mk (fun _ => rfl) fun _ => kept_when fun _ => calm_retryExpired _ (.refl _ _)
  | .spacingTimerExpiry, _ => .mk (fun _ => rfl) fun _ => kept_when fun _ => calm_modFs_keep _ (.refl _ _) rfl

/-- A command taken in a safe state leaves a safe state. -/
theorem exec_safe (c : Instr) {t : State} (h : s.safe) (ht : exec c s = .next t) : t.safe := by
  cases hc : isStart c
  · obtain ⟨f, hf, he⟩ := exec_lives c hc
    obtain rfl : s.live f = t := by rw [he] at ht; exact Host.Outcome.next.inj ht
    exact live_safe f (hf s) h
  · cases c with
    | powerOnReset strap => exact powerOn_safe strap t ht
    | pinReset strap => obtain ⟨⟩ := ht; exact restart_safe _ _ h.1
    | wake strap =>
      obtain ⟨⟩ := ht
      split
      · exact restart_safe _ _ h.1
      · exact h
    | _ => exact absurd hc (by simp [isStart])

/-- A step from a safe state, a command's or a millisecond's, ends in a safe state. -/
theorem step_safe {t : State} (h : s.safe) (ht : step s = .next t) : t.safe := by
  unfold step at ht
  split at ht
  · obtain ⟨⟩ := ht
    exact tick_safe h
  · rename_i c rest _
    exact exec_safe (s := { s with pending := rest }) c h ht


/-- Settles O3, by the case split over the commands (`exec_lives`) and what a millisecond leaves (`tick_safe`). -/
theorem everyStepKeepsSafe : Obligations.EveryStepKeepsSafe := fun _ _ => step_safe

end Sys2Proof.Machine
end

section
/-!
PROOFS. LINE_STATUS (R20): its reply, and the forms in which every reply and notice writes its fields (R168).
-/

namespace Sys2Proof.Machine

-- One proof at a time: the text is compiled as one, and each proof that waits for the others holds a thread.
set_option Elab.async false

/-! ## Numbers (R168) -/

theorem beInt_one (n : Int) : beInt 1 n = [BitVec.ofInt 8 n] := by simp [beInt]

theorem w8_eq (n : Nat) : w8 n = [BitVec.ofNat 8 n] := by
  rw [w8, wNat, beInt_one, BitVec.ofInt_natCast]

/-- The bytes of a number in `k` bytes, by division. -/
theorem wNat_eq (k n : Nat) :
    wNat k n = (List.range k).map fun i => BitVec.ofNat 8 (n / 256 ^ (k - 1 - i)) := by
  simp only [wNat, beInt]
  refine List.map_congr_left fun i _ => ?_
  rw [← BitVec.ofInt_natCast]
  push_cast
  rfl

theorem w16_eq (n : Nat) : w16 n = [BitVec.ofNat 8 (n / 256), BitVec.ofNat 8 n] := by
  simp [w16, wNat_eq, List.range_succ]

theorem w32_eq (n : Nat) : w32 n = w16 (n / 65536) ++ w16 n := by
  simp [w32, w16_eq, wNat_eq, List.range_succ, Nat.div_div_eq_div_mul]

theorem wBV_eq (x : BitVec 32) : wBV x = w32 x.toNat := rfl

/-- A byte of an integer at the place `d` is that byte of its residue by a multiple of `d * 256`. -/
theorem byte_of_residue (n d k : Int) (hd : 0 < d) : n / d % 256 = n % (d * 256 * k) / d % 256 := by
  have split : n = n % (d * 256 * k) + d * (256 * k * (n / (d * 256 * k))) := by
    have := Int.emod_add_mul_ediv n (d * 256 * k)
    linarith [mul_assoc d 256 k, mul_assoc d (256 * k) (n / (d * 256 * k))]
  have quotient : n / d = n % (d * 256 * k) / d + 256 * (k * (n / (d * 256 * k))) := by
    conv_lhs => rw [split]
    rw [Int.add_mul_ediv_left _ _ hd.ne', mul_assoc 256]
  rw [quotient, Int.add_mul_emod_self_left]

/-- The byte at place `d` of a number written in two's complement of `w` bits. -/
theorem ofInt_byte (w d k : Nat) (n : Int) (hd : 0 < d) (hw : 2 ^ w = d * 256 * k) :
    BitVec.ofInt 8 (n / d) = BitVec.ofNat 8 ((BitVec.ofInt w n).toNat / d) := by
  have hpos : (0 : Int) ≤ n % (d * 256 * k : Nat) := Int.emod_nonneg _ (by rw [← hw]; positivity)
  have hint : (((BitVec.ofInt w n).toNat : Nat) : Int) = n % (d * 256 * k : Nat) := by
    rw [BitVec.toNat_ofInt, ← hw, Int.toNat_of_nonneg (by rw [hw]; exact hpos)]
  rw [← BitVec.ofInt_natCast]
  apply BitVec.eq_of_toInt_eq
  rw [BitVec.toInt_ofInt, BitVec.toInt_ofInt]
  push_cast [hint]
  rw [← Int.emod_bmod, ← Int.emod_bmod (_ / _)]
  congr 1
  exact byte_of_residue n d k (by exact_mod_cast hd)

theorem i16_eq (n : Int) : i16 n = w16 (BitVec.ofInt 16 n).toNat := by
  have high := ofInt_byte 16 256 1 n (by decide) (by decide)
  have low := ofInt_byte 16 1 256 n (by decide) (by decide)
  simp only [Nat.cast_ofNat, Nat.cast_one, Int.ediv_one, Nat.div_one] at high low
  simp [i16, beInt, List.range_succ, w16_eq, high, low]

theorem beInt_eight (n : Int) :
    beInt 8 n = w32 ((BitVec.ofInt 64 n).toNat / 2 ^ 32) ++ w32 (BitVec.ofInt 64 n).toNat := by
  have byte (i : Nat) (hi : i < 8) := ofInt_byte 64 (256 ^ i) (256 ^ (7 - i)) n (by positivity)
    (by rw [mul_assoc, ← pow_succ', ← pow_add]; rw [show i + (7 - i + 1) = 8 by omega]; rfl)
  have b0 := byte 0 (by decide)
  have b1 := byte 1 (by decide)
  have b2 := byte 2 (by decide)
  have b3 := byte 3 (by decide)
  have b4 := byte 4 (by decide)
  have b5 := byte 5 (by decide)
  have b6 := byte 6 (by decide)
  have b7 := byte 7 (by decide)
  push_cast at b0 b1 b2 b3 b4 b5 b6 b7
  simp only [Int.ediv_one, Nat.div_one] at b0
  simp [beInt, List.range_succ, w32_eq, w16_eq, b0, b1, b2, b3, b4, b5, b6, b7, Nat.div_div_eq_div_mul]

/-! ## Lists and sets (R168) -/

theorem wList_eq {α : Type} (f : α → List Byte) (l : List α) :
    wList f l = BitVec.ofNat 8 l.length :: (l.map f).flatten := by
  rw [wList, w8_eq, List.flatMap_def]
  rfl

/-- The places of the members that hold, counted from `k`. -/
theorem zipIdx_places (l : List Bool) (k : Nat) :
    ((l.zipIdx k).filter (·.1)).map (·.2) =
      ((List.range l.length).filter fun i => l[i]? == some true).map (· + k) := by
  induction l generalizing k with
  | nil => rfl
  | cons b t ih =>
    have tail : ((List.range t.length).map Nat.succ).filter (fun i => (b :: t)[i]? == some true) =
        ((List.range t.length).filter fun i => t[i]? == some true).map Nat.succ := by
      rw [List.filter_map]; rfl
    rw [List.zipIdx_cons, List.length_cons, List.range_succ_eq_map]
    cases b <;> simp [ih, tail, List.map_map, Function.comp_def, Nat.add_comm, Nat.add_left_comm]

theorem wFlags_eq (l : List Bool) :
    wFlags l = wList w8 ((List.range l.length).filter fun i => l[i]? == some true) := by
  have places := zipIdx_places l 0
  simp only [Nat.add_zero, List.map_id'] at places
  rw [wFlags, places]
  rfl

/-! ## The reply -/

/-- A request without arguments runs its reply on the state it finds. -/
theorem live_read {s : State} {c : Byte} {code : Nat} (fields : State → List Byte) (h : s.asks [c])
    (hc : c.toNat = code) :
    (s.live fun s => s.request code rNothing () fun s => s.reply (.ok (fields s))) =
      (s.replied c .ok (fields s)).settle := by
  rw [live_request _ h hc rfl, reply_eq h.2]
  rfl

theorem lineStatus_answers (s : State) (h : s.asks [0x01]) :
    execLineStatus s = .next (s.replied 0x01 .ok s.lineStatusFields).settle :=
  congrArg _ (live_read State.lineStatusFields h rfl)

/-- Settles O16: the reply of `lineStatus_answers`, and each form of R168 by its own lemma. -/
theorem lineStatusAnswers : Obligations.LineStatusAnswers := by
  refine ⟨fun s h => lineStatus_answers s h, fun n => ⟨w8_eq n, rfl, w16_eq n, w32_eq n⟩,
    fun n => ⟨i16_eq n, beInt_one n, beInt_eight n⟩, wBV_eq, rfl, rfl, rfl, rfl, rfl, rfl, fun n => rfl, rfl, rfl,
    fun f => ⟨rfl, fun x => rfl, rfl, fun l _ => wList_eq f l⟩, wFlags_eq, rfl⟩

end Sys2Proof.Machine
end

section
/-!
PROOFS. The frame of the shared operations: which blocks of the state each of them may touch. `Only l z s` says that
`s` differs from `z` in no block outside `l`, nor in the settings, the stores, the time and the queue of commands. One
lemma per shared operation.
-/

namespace Sys2Proof.Machine

-- One proof at a time: the text is compiled as one, and each proof that waits for the others holds a thread.
set_option Elab.async false

/-- The blocks of the state that commands change. -/
inductive Block where
  | le | tt | ft | ss | ports | cc | mu | sup | tu | fs | plk
  deriving DecidableEq

structure Only (l : List Block) (z s : State) : Prop where
  le : Block.le ∉ l → s.le = z.le
  tt : Block.tt ∉ l → s.tt = z.tt
  ft : Block.ft ∉ l → s.ft = z.ft
  ss : Block.ss ∉ l → s.ss = z.ss
  ports : Block.ports ∉ l → s.ports = z.ports
  cc : Block.cc ∉ l → s.cc = z.cc
  mu : Block.mu ∉ l → s.mu = z.mu
  sup : Block.sup ∉ l → s.sup = z.sup
  tu : Block.tu ∉ l → s.tu = z.tu
  fs : Block.fs ∉ l → s.fs = z.fs
  plk : Block.plk ∉ l → s.plk = z.plk
  sts : s.sts = z.sts
  settings : s.settings = z.settings
  uptime : s.uptime = z.uptime
  uptimeMs : s.uptimeMs = z.uptimeMs
  dormant : s.dormant = z.dormant
  pending : s.pending = z.pending

variable {l m n : List Block} {z s t : State}

theorem Only.refl (l : List Block) (z : State) : Only l z z := by
  constructor <;> intros <;> rfl

/-- One operation after another, within a list that holds the blocks of both. -/
theorem Only.seq (h : Only l z s) (k : Only m s t) (hl : l ⊆ n := by decide) (hm : m ⊆ n := by decide) :
    Only n z t where
  le := fun b => (k.le fun x => b (hm x)).trans (h.le fun x => b (hl x))
  tt := fun b => (k.tt fun x => b (hm x)).trans (h.tt fun x => b (hl x))
  ft := fun b => (k.ft fun x => b (hm x)).trans (h.ft fun x => b (hl x))
  ss := fun b => (k.ss fun x => b (hm x)).trans (h.ss fun x => b (hl x))
  ports := fun b => (k.ports fun x => b (hm x)).trans (h.ports fun x => b (hl x))
  cc := fun b => (k.cc fun x => b (hm x)).trans (h.cc fun x => b (hl x))
  mu := fun b => (k.mu fun x => b (hm x)).trans (h.mu fun x => b (hl x))
  sup := fun b => (k.sup fun x => b (hm x)).trans (h.sup fun x => b (hl x))
  tu := fun b => (k.tu fun x => b (hm x)).trans (h.tu fun x => b (hl x))
  fs := fun b => (k.fs fun x => b (hm x)).trans (h.fs fun x => b (hl x))
  plk := fun b => (k.plk fun x => b (hm x)).trans (h.plk fun x => b (hl x))
  sts := k.sts.trans h.sts
  settings := k.settings.trans h.settings
  uptime := k.uptime.trans h.uptime
  uptimeMs := k.uptimeMs.trans h.uptimeMs
  dormant := k.dormant.trans h.dormant
  pending := k.pending.trans h.pending

theorem Only.within (h : Only l z s) (hl : l ⊆ n := by decide) : Only n z s := h.seq (Only.refl n s) hl (fun _ => id)

/-- Operations within one list. -/
theorem Only.trans (h : Only l z s) (k : Only l s t) : Only l z t := h.seq k (fun _ => id) fun _ => id

/-- One block is the same in two states. -/
def Block.same (z s : State) : Block → Prop
  | .le => s.le = z.le
  | .tt => s.tt = z.tt
  | .ft => s.ft = z.ft
  | .ss => s.ss = z.ss
  | .ports => s.ports = z.ports
  | .cc => s.cc = z.cc
  | .mu => s.mu = z.mu
  | .sup => s.sup = z.sup
  | .tu => s.tu = z.tu
  | .fs => s.fs = z.fs
  | .plk => s.plk = z.plk

theorem Only.same (h : Only l z s) : ∀ b, b ∉ l → Block.same z s b
  | .le => h.le
  | .tt => h.tt
  | .ft => h.ft
  | .ss => h.ss
  | .ports => h.ports
  | .cc => h.cc
  | .mu => h.mu
  | .sup => h.sup
  | .tu => h.tu
  | .fs => h.fs
  | .plk => h.plk

/-- A block of the list that proves to be the same after all. -/
theorem Only.drop (h : Only l z s) (b : Block) (e : Block.same z s b) (hl : l ⊆ b :: m := by decide) : Only m z s :=
  have get (c : Block) (hc : c ∉ m) : Block.same z s c :=
    if hb : c = b then hb ▸ e
    else h.same c fun hx => (List.mem_cons.mp (hl hx)).elim hb hc
  { h with
    le := get .le, tt := get .tt, ft := get .ft, ss := get .ss, ports := get .ports, cc := get .cc, mu := get .mu
    sup := get .sup, tu := get .tu, fs := get .fs, plk := get .plk }

theorem Only.ite {c : Prop} [Decidable c] (h : c → Only l z s) (k : ¬c → Only l z t) :
    Only l z (if c then s else t) := by
  split
  · exact h ‹_›
  · exact k ‹_›

/-- An operation applied to each member of a list in turn. -/
theorem Only.foldl {α : Type} (f : State → α → State) (hf : ∀ s x, Only l s (f s x)) (xs : List α) (s : State) :
    Only l s (xs.foldl f s) := by
  induction xs generalizing s with
  | nil => exact Only.refl l s
  | cons x t ih => exact (hf s x).trans (ih (f s x))

/-! ## Updates -/

variable (s : State)

theorem only_modLe (f : LE → LE) : Only [.le] s (s.modLe f) := by constructor <;> simp
theorem only_modTt (f : Tables → Tables) : Only [.tt] s (s.modTt f) := by constructor <;> simp
theorem only_modFt (f : FT → FT) : Only [.ft] s (s.modFt f) := by constructor <;> simp
theorem only_modSs (f : SS → SS) : Only [.ss] s (s.modSs f) := by constructor <;> simp
theorem only_modCc (f : CC → CC) : Only [.cc] s (s.modCc f) := by constructor <;> simp
theorem only_modMu (f : MU → MU) : Only [.mu] s (s.modMu f) := by constructor <;> simp
theorem only_modSup (f : SUP → SUP) : Only [.sup] s (s.modSup f) := by constructor <;> simp
theorem only_modTu (f : TU → TU) : Only [.tu] s (s.modTu f) := by constructor <;> simp
theorem only_modFs (f : FS → FS) : Only [.fs] s (s.modFs f) := by constructor <;> simp
theorem only_modPlk (f : PLK → PLK) : Only [.plk] s (s.modPlk f) := by constructor <;> simp
theorem only_modPort (p : Port) (f : PP → PP) : Only [.ports] s (s.modPort p f) := by constructor <;> simp
theorem only_modCallRaw (p : Port) (f : CallRec → CallRec) : Only [.cc] s (s.modCallRaw p f) := only_modCc s _
theorem only_modFault (i : FaultId) (f : FaultRec → FaultRec) : Only [.fs] s (s.modFault i f) := only_modFs s _
theorem only_modCounts (f : SsCounts → SsCounts) : Only [.ss] s (s.modCounts f) := only_modSs s _
theorem only_raise (n : Notice) : Only [.plk] s (s.raise n) := only_modPlk s _
theorem only_raiseIf (c : Bool) (n : Notice) : Only [.plk] s (s.raiseIf c n) :=
  .ite (fun _ => only_raise s n) fun _ => .refl _ s

/-! ## Fault records -/

section
variable (i : FaultId) (v : Option Int)

theorem only_historyAdd (t : Transition) : Only [.fs, .plk] s (s.historyAdd i t v) :=
  .seq (only_modFs s _) (only_raiseIf _ _ _)

theorem only_faultMove (st : FaultState) (run : Option Policy) (retry : Timer) (t : Transition) :
    Only [.fs, .plk] s (s.faultMove i st run retry t v) :=
  .seq (only_modFault s i _) (only_historyAdd _ i v t)

theorem only_faultOccur : Only [.fs] s (s.faultOccur i v) := only_modFault s i _

/-- An occurrence and the move it brings about. -/
theorem only_occurMove (st : FaultState) (run : Option Policy) (retry : Timer) (t : Transition) :
    Only [.fs, .plk] s ((s.faultOccur i v).faultMove i st run retry t v) :=
  .seq (only_faultOccur s i v) (only_faultMove _ i v st run retry t)

theorem only_occurAdd (t : Transition) : Only [.fs, .plk] s ((s.faultOccur i v).historyAdd i t v) :=
  .seq (only_faultOccur s i v) (only_historyAdd _ i v t)

theorem only_faultEventCore : Only [.fs, .plk] s (s.faultEventCore i v).1 := by
  unfold State.faultEventCore
  dsimp only
  split
  iterate 2
    · split
      · exact .refl _ s
      all_goals exact only_occurMove s i v _ _ _ _
  · exact only_occurMove s i v _ _ _ _
  · exact only_occurAdd s i v _
  · exact .refl _ s

theorem only_faultRaise : Only [.fs, .plk] s (s.faultRaise i v).1 := by
  unfold State.faultRaise
  split
  · exact .refl _ s
  all_goals exact only_occurMove s i v _ _ _ _

theorem only_faultConditionCore (present : Bool) : Only [.fs, .plk] s (s.faultConditionCore i present v).1 := by
  unfold State.faultConditionCore
  dsimp only
  split
  · exact .refl _ s
  refine .seq (m := [.fs, .plk]) (only_modFault s i fun r => { r with condition := present }) ?_
  split
  · split
    iterate 2 exact only_faultRaise _ i v
    · exact only_occurMove _ i v _ _ _ _
    · exact only_occurAdd _ i v _
    · exact .refl _ _
  · split
    · split <;> exact only_faultMove _ i v _ _ _ _
    · exact .refl _ _

theorem only_faultEvent : Only [.fs, .plk] s (s.faultEvent i) := only_faultEventCore s i none

end

theorem only_linkLossRetraining : Only [.fs, .plk] s s.linkLossRetraining :=
  .ite (fun _ => only_faultMove s _ _ _ _ _ _) fun _ => .refl _ s

theorem only_linkLossFailed : Only [.fs, .plk] s s.linkLossFailed :=
  .ite (fun _ => only_faultMove s _ _ _ _ _ _) fun _ => .refl _ s

theorem only_linkLossOver : Only [.fs, .plk] s s.linkLossOver :=
  .ite (fun _ => only_faultMove s _ _ _ _ _ _) fun _ => .refl _ s

/-! ## Link states -/

theorem only_ftUpd (f : FT → FT) : Only [.ft, .plk] s (s.ftUpd f) := .seq (only_modFt s f) (only_raiseIf _ _ _)

theorem only_setMaskInForce (mask : List Bool) : Only [.tt] s (s.setMaskInForce mask) := only_modTt s _

theorem only_setLink (l : LinkState) : Only [.le, .tt, .ft, .plk] s (s.setLink l) :=
  .seq (m := [.plk]) (l := [.le, .tt, .ft, .plk])
    (.seq (l := [.le, .ft, .plk]) (m := [.tt])
      (.seq (m := [.ft, .plk]) (only_modLe s _) (.ite (fun _ => only_ftUpd _ _) fun _ => .refl _ _))
      (.ite (fun _ => only_setMaskInForce _ _) fun _ => .refl _ _))
    (only_raiseIf _ _ _)

theorem only_enterQuiet : Only [.le, .tt, .ft, .plk] s s.enterQuiet := .seq (only_setLink s _) (only_modLe _ _)

theorem only_enterRetrainWait : Only [.le, .tt, .ft, .plk] s s.enterRetrainWait :=
  .seq (only_setLink s _) (only_modLe _ _)

/-! ## Messages and transactions -/

theorem only_placeAnswer (t : Option FarType) (n : Byte) (b : Bool) (msg : List Byte) :
    Only [.ss] s (s.placeAnswer t n b msg) :=
  .ite (fun _ => .refl _ s) fun _ => .ite (fun _ => only_modCounts s _) fun _ => only_modSs s _

theorem only_answer (t : FarType) (n : Byte) (b : Bool) (body : List Byte) : Only [.ss] s (s.answer t n b body) :=
  .ite (fun _ => .refl _ s) fun _ =>
    .trans (.ite (fun _ => only_modSs s _) fun _ => .refl _ s) (only_placeAnswer _ _ _ _ _)

theorem only_placeUnanswered (who : Sender) (msg : List Byte) : Only [.ss] s (s.placeUnanswered who msg).1 := by
  unfold State.placeUnanswered
  split
  · exact only_modCounts s fun c => { c with unansweredDropped := inc32 c.unansweredDropped }
  · exact only_modSs s fun x => x.enqueue who msg

theorem only_withdraw (p : TxReq → Bool) : Only [.ss] s (s.withdraw p) := only_modSs s _

theorem only_freeEntry (n : Nat) : Only [.ss] s (s.freeEntry n) := only_modSs s _

/-- Transactions whose grant tells no owner anything. -/
def TxKind.quiet : TxKind → Bool
  | .profile | .swap | .rate | .testResult => false
  | _ => true

theorem granted_quiet (r : TxReq) (n : Nat) (h : r.kind.quiet = true) : s.granted r n = s := by
  unfold State.granted
  split <;> simp_all [TxKind.quiet]

/-- What the grant of a kind may touch besides the scheduler. -/
def TxKind.told : TxKind → List Block
  | .profile => [.le]
  | .swap | .rate => [.tt]
  | .testResult => [.tu, .plk]
  | _ => []

theorem only_granted (r : TxReq) (n : Nat) : Only r.kind.told s (s.granted r n) := by
  unfold State.granted
  cases hk : r.kind with
  | profile => exact .ite (fun _ => only_modLe s _) fun _ => .refl _ s
  | swap => exact only_modTt s _
  | rate => exact only_modTt s _
  | testResult =>
    dsimp only
    split
    · exact .refl _ s
    · exact .ite (fun _ => .seq (only_modTu s _) (only_raise _ _)) fun _ => .refl _ s
  | _ => exact .refl _ s

theorem only_grant (r : TxReq) : Only (.ss :: r.kind.told) s (s.grant r) :=
  .seq (only_modSs s _) (only_granted _ r _) (by simp) (by simp)

theorem only_requestTx (k : TxKind) (p : Option Port) (body : List Byte) (tag : Nat) :
    Only (.ss :: k.told) s (s.requestTx k p body tag) := by
  unfold State.requestTx
  exact .ite (fun _ => only_grant s { kind := k, port := p, body := body, tag := tag })
    fun _ => (only_modSs s _).within (by simp)

theorem only_requestTx_quiet (k : TxKind) (p : Option Port) (body : List Byte) (tag : Nat) (h : k.quiet = true) :
    Only [.ss] s (s.requestTx k p body tag) :=
  (only_requestTx s k p body tag).within (by cases k <;> simp_all [TxKind.quiet, TxKind.told])

theorem only_grantList (rs : List TxReq) : Only [.ss, .le, .tt, .tu, .plk] s (grantList rs s) := by
  induction rs generalizing s with
  | nil => exact .refl _ s
  | cons r rs ih =>
    refine .ite (fun _ => .seq (only_grant s r) (ih _) ?_ fun _ => id) fun _ => (only_modSs s _).within
    cases r.kind <;> decide

theorem only_grantWaiting : Only [.ss, .le, .tt, .tu, .plk] s s.grantWaiting := by
  exact .seq (only_modSs s fun x => { x with waiting := [] }) (only_grantList _ s.ss.waiting)

/-! ## Calls and their ports -/

section
variable (p : Port)

theorem only_burstStart (pairs : Cadence) (k : Nat) : Only [.ports] s (s.burstStart p pairs k) := only_modPort s p _

theorem only_ringIfDue : Only [.ports] s (s.ringIfDue p) := by
  unfold State.ringIfDue
  dsimp only
  split
  · exact .ite (fun _ => only_burstStart s p _ _) fun _ => .refl _ s
  · exact .refl _ s

theorem only_ringPort (c : Nat) : Only [.ports] s (s.ringPort p c) :=
  .ite (fun _ => .trans (only_modPort s p _) (only_ringIfDue _ p)) fun _ =>
    .ite (fun _ => only_modPort s p _) fun _ => .refl _ s

theorem only_ringOff : Only [.ports] s (s.ringOff p) := only_modPort s p _

theorem only_setWanted (w : Polarity) : Only [.ports] s (s.setWanted p w) := only_modPort s p _

theorem only_setAudio (a : Audio) (t : Tone) : Only [.ports] s (s.setAudio p a t) := only_modPort s p _

theorem only_nameAudio : Only [.ports] s (s.nameAudio p) := only_setAudio s p _ _

theorem only_markDigits (f : Nat → Bool) (m : Mark) : Only [.ports, .plk] s (s.markDigits p f m) :=
  .seq (only_modPort s p _) (only_raiseIf _ _ _)

theorem only_updCall (f : CallRec → CallRec) : Only [.cc, .plk, .ports] s (s.updCall p f) :=
  .seq (l := [.cc, .plk]) (m := [.ports]) (.seq (only_modCallRaw s p f) (only_raiseIf _ _ _))
    (.ite (fun _ => .refl _ _) fun _ => only_nameAudio _ p)

theorem only_freeCall (c : RelCause) : Only [.cc, .plk, .ports] s (s.freeCall p c) := only_updCall s p _

theorem only_takeSerial : Only [.cc] s s.takeSerial.1 :=
  only_modCc s fun c => { c with nextSerial := c.nextSerial + 1 }

theorem only_callTx (k : TxKind) (body : List Byte) (mark : CallTxs → CallTxs) (h : k.quiet = true) :
    Only [.cc, .ss] s (s.callTx p k body mark) :=
  .seq (only_modCallRaw s p _) (only_requestTx_quiet _ k _ _ _ h)

theorem only_requestSeize (c : Coding) : Only [.cc, .ss] s (s.requestSeize p c) := only_callTx s p .seize _ _ rfl

theorem only_releaseCall (c : RelCause) : Only [.cc, .plk, .ports, .ss] s (s.releaseCall p c) := by
  unfold State.releaseCall
  exact .seq (l := [.cc, .plk, .ports]) (.seq (only_ringOff s p) (only_updCall _ p _)) (only_callTx _ p .release _ _ rfl)

theorem only_downgradeCall : Only [.cc, .plk, .ports, .ss] s (s.downgradeCall p) := by
  unfold State.downgradeCall
  exact .seq (only_updCall s p _) (only_callTx _ p .coding _ _ rfl)

theorem only_setCustody (c : Custody) : Only [.cc, .plk] s (s.setCustody c) :=
  .ite (fun _ => .refl _ s) fun _ => .seq (only_modCc s _) (only_raise _ _)

theorem only_applyPlan (plan : Plan) : Only [.cc, .plk, .ports, .ss] s (s.applyPlan p plan) := by
  cases plan <;> dsimp only [State.applyPlan]
  case reject => exact only_releaseCall s p _
  case silent => exact (only_updCall s p _).within
  case ring c =>
    exact .ite (fun _ => .seq (only_updCall s p _) (only_ringPort _ p c)) fun _ => (only_updCall s p _).within

theorem only_ringDecision : Only [.cc, .plk, .ports, .ss] s (s.ringDecision p) := by
  unfold State.ringDecision
  split
  · exact only_applyPlan s p _
  · exact (only_updCall s p _).within

theorem only_admitWaiting : Only [.cc, .plk, .ports, .ss] s (s.admitWaiting p) := by
  unfold State.admitWaiting
  refine .seq (m := [.cc, .plk, .ports, .ss]) (only_takeSerial s) ?_
  dsimp only
  split
  · exact .seq (only_updCall _ p _) (only_requestSeize _ p _)
  · refine .seq (l := [.cc, .plk, .ports, .ss]) ?_ (only_ringDecision _ p)
    split
    · exact .seq (only_updCall _ p _) (only_answer _ _ _ _ _)
    · exact (only_updCall _ p _).within
  · exact .refl _ _

theorem only_retest : Only [.cc, .plk, .ports, .ss] s (s.retest p) :=
  .ite (fun _ => .ite (fun _ => only_admitWaiting s p) fun _ => .refl _ s) fun _ => .refl _ s

end

theorem only_retestWaiting : Only [.cc, .plk, .ports, .ss] s s.retestWaiting :=
  .ite (fun _ => .trans (only_retest s _) (only_retest _ _)) fun _ => .trans (only_retest s _) (only_retest _ _)

theorem only_downgradeOver (k : Nat) : Only [.cc, .plk, .ports, .ss] s (State.downgradeOver k s) := by
  induction k generalizing s with
  | zero => exact .refl _ s
  | succ k ih =>
    refine .ite (fun _ => .refl _ s) fun _ => ?_
    split
    · exact .trans (only_downgradeCall s _) (ih _)
    · exact .refl _ s

theorem only_releaseOver (k : Nat) : Only [.cc, .plk, .ports, .ss, .fs] s (State.releaseOver k s) := by
  induction k generalizing s with
  | zero => exact .refl _ s
  | succ k ih =>
    refine .ite (fun _ => .refl _ s) fun _ => ?_
    split
    · exact .trans (.seq (only_releaseCall s _ _) (only_faultEvent _ _)) (ih _)
    · exact .refl _ s

theorem only_evaluateCapacity : Only [.cc, .plk, .ports, .ss, .fs] s s.evaluateCapacity :=
  .seq (l := [.cc, .plk, .ports, .ss, .fs])
    (.seq (l := [.cc, .plk, .ports, .ss, .fs])
      (.seq (l := [.cc, .plk, .ports, .ss])
        (.seq (l := [.cc, .plk, .ports, .ss])
          (.ite (fun _ => .foldl _ (fun t p => .ite (fun _ => only_downgradeCall t p) fun _ => .refl _ t) _ s)
            fun _ => .refl _ s)
          (only_downgradeOver _ 2))
        (only_releaseOver _ 2))
      (only_modCc _ _))
    (only_retestWaiting _)

theorem only_handPMin : Only [.cc, .plk, .ports, .ss, .fs] s s.handPMin :=
  .seq (only_modCc s _) (only_evaluateCapacity _)

theorem only_widthChanged (w : Nat) : Only [.cc, .plk, .ports, .ss, .fs] s (s.widthChanged w) :=
  .ite (fun _ => .refl _ s) fun _ => only_handPMin s

theorem only_linkGone (c : RelCause) (p : Port) : Only [.cc, .plk, .ports] s (s.linkGone c p) := by
  unfold State.linkGone
  dsimp only
  split
  iterate 5
    · exact .ite (fun _ => .seq (only_ringOff s p) (only_updCall _ p _))
        fun _ => .seq (only_ringOff s p) (only_freeCall _ p _)
  · exact (only_modCallRaw s p _).within

/-! ## Tests -/

theorem only_armedRaw : Only [.tu, .le, .plk] s s.armedRaw := by
  unfold State.armedRaw
  split
  · exact .ite (fun _ => .seq (l := [.tu, .le, .plk])
      (.seq (l := [.tu, .le]) (.seq (only_modTu s _) (only_modLe _ _)) (only_raise _ _)) (only_raise _ _))
      fun _ => .refl _ s
  · exact .refl _ s

theorem only_recordTest (c : CurrentTest) (o : Outcome) (a : Option AbortCause) (vs : Option (List TestValue)) :
    Only [.mu, .tu, .ss, .plk] s (s.recordTest c o a vs) :=
  .seq (m := [.tu, .ss, .plk]) (only_modMu s _)
    (.seq (l := [.tu]) (only_modTu _ _)
      (.ite (fun _ => .seq (n := [.tu, .ss, .plk]) (only_withdraw _ _) (only_requestTx _ .testResult _ _ _))
        fun _ => .refl _ _))

theorem only_dropTestHold (c : CurrentTest) : Only [.le, .ports, .plk] s (s.dropTestHold c) := by
  unfold State.dropTestHold
  split
  · exact .refl _ s
  · exact .refl _ s
  · exact .seq (only_modLe s _) (only_raiseIf _ _ _)
  · exact .seq (only_modPort s _ _) (only_raiseIf _ _ _)

theorem only_endTest (c : CurrentTest) : Only [.le, .ports, .tu, .plk] s (s.endTest c) :=
  .seq (l := [.le, .ports, .tu, .plk]) (.seq (only_dropTestHold s c) (only_modTu _ _)) (only_raise _ _)

theorem only_abortRaw (a : AbortCause) : Only [.mu, .tu, .ss, .le, .ports, .plk] s (s.abortRaw a) := by
  unfold State.abortRaw
  split
  · exact .refl _ s
  · exact .seq (only_recordTest s _ _ _ _) (only_endTest _ _)

/-! ## Gate requests -/

theorem only_gateSetLaw : Only [.ft, .ss] s s.gateSetLaw := by
  unfold State.gateSetLaw
  split
  · exact .ite (fun _ => .seq (only_modFt s _) (only_requestTx_quiet _ _ _ _ _ rfl)) fun _ => .refl _ s
  · exact .refl _ s

theorem only_gateClearLaw : Only [.ft, .ss, .plk] s s.gateClearLaw := by
  unfold State.gateClearLaw
  split
  · exact .ite (fun _ => .seq (only_ftUpd s _) (only_requestTx_quiet _ _ _ _ _ rfl)) fun _ => .refl _ s
  · exact .refl _ s

theorem only_driftCheck : Only [.ft, .ss] s s.driftCheck := by
  unfold State.driftCheck
  split
  · exact .ite (fun _ => .seq (only_modFt s _) (only_requestTx_quiet _ _ _ _ _ rfl)) fun _ => .refl _ s
  · exact .refl _ s

/-! ## Leaving service and the line hold set -/

theorem only_undelivered (tag : Nat) : Only [.tu, .plk] s (s.undelivered tag) := by
  unfold State.undelivered
  split
  · exact .refl _ s
  · exact .ite (fun _ => .seq (only_modTu s _) (only_raise _ _)) fun _ => .refl _ s

theorem only_flush : Only [.ss, .fs, .sup, .tu, .plk] s s.flush :=
  .seq (l := [.ss, .fs, .sup]) (m := [.tu, .plk])
    (.seq (l := [.ss, .fs]) (m := [.sup])
      (.seq (m := [.fs]) (only_modSs s _) (.ite (fun _ => only_modFs _ _) fun _ => .refl _ _))
      (.ite (fun _ => only_modSup _ _) fun _ => .refl _ _))
    (.foldl _ (fun t _ => only_undelivered t _) _ _)

/-- What leaving service may touch: all but the measurement unit. -/
abbrev serviceBlocks : List Block := [.le, .tt, .ft, .ss, .ports, .cc, .sup, .tu, .fs, .plk]

theorem only_leaveService (l : LinkState) (c : RelCause) : Only serviceBlocks s (s.leaveService l c) :=
  .seq (l := serviceBlocks)
    (.seq (l := serviceBlocks)
      (.seq (l := serviceBlocks)
        (.seq (l := [.le, .tt, .ft, .tu, .plk])
          (.seq (l := [.le, .tt, .ft, .tu, .plk])
            (.seq (l := [.le, .tt, .ft, .tu, .plk])
              (.seq (l := [.le, .tt, .ft, .tu, .plk])
                (.seq (l := [.le, .tt, .ft, .tu, .plk]) (.seq (only_armedRaw s) (only_setLink _ l)) (only_modLe _ _))
                (only_modTt _ _))
              (only_setMaskInForce _ _))
            (only_ftUpd _ _))
          (only_flush _))
        (only_linkGone _ c .a))
      (only_linkGone _ c .b))
    (only_widthChanged _ _)

theorem only_lineLaw : Only serviceBlocks s s.lineLaw :=
  .ite (fun _ => .ite (fun _ => .refl _ s) fun _ => (only_enterQuiet s).within) fun _ =>
    .ite (fun _ => .refl _ s) fun _ =>
      .ite (fun _ => only_leaveService s _ _) fun _ => (only_setLink s _).within

theorem only_lineHoldRemove (m : LineMember) : Only serviceBlocks s (s.lineHoldRemove m) :=
  .ite (fun _ => .seq (l := [.le, .plk]) (.seq (only_modLe s _) (only_raise _ _)) (only_lineLaw _)) fun _ => .refl _ s

theorem only_lineHoldAdd (m : LineMember) : Only (.mu :: serviceBlocks) s (s.lineHoldAdd m) :=
  .ite (fun _ => .refl _ s) fun _ =>
    .seq (l := [.mu, .tu, .ss, .le, .ports, .plk]) (m := serviceBlocks)
      (.seq (l := [.le, .plk]) (m := [.mu, .tu, .ss, .le, .ports, .plk]) (.seq (only_modLe s _) (only_raise _ _))
        (.ite (fun _ => only_abortRaw _ _) fun _ => .refl _ _))
      (only_lineLaw _)

theorem only_trainFail (present : Bool) : Only (.mu :: serviceBlocks) s (s.trainFail present) := by
  unfold State.trainFail
  refine .seq (m := .mu :: serviceBlocks)
    (only_faultConditionCore s .trainFail (some (s.le.attempts : Int)) present) ?_
  exact .ite (fun _ => only_lineHoldAdd _ _) fun _ => .refl _ _

end Sys2Proof.Machine
end

section
/-!
PROOFS. The line engine's record after each shared operation of the line: what a change of link state, leaving service
and a member joining or leaving the hold set leave of it (R2, R3, R16), and of the tables, the tracker and the
scheduler where service ends (R45, R74).
-/

namespace Sys2Proof.Machine

-- One proof at a time: the text is compiled as one, and each proof that waits for the others holds a thread.
set_option Elab.async false

variable (s : State)

/-! ## One step of the part -/

theorem live_awake (f : State → State) (h : s.dormant = false) : s.live f = (f s).settle := by
  simp [State.live, h]

/-! ## Link states -/

theorem enterQuiet_le : s.enterQuiet.le =
    { s.le with link := .quiet, phaseTimer := some 200, backoff := none, exchange := none } := by
  simp [State.enterQuiet, State.setLink_le, Config.quietMs]

theorem enterRetrainWait_le : s.enterRetrainWait.le =
    { s.le with
      link := .retrainWait, phaseTimer := none, exchange := none
      backoff := some (backoffMs (s.faultSetting .linkLoss).policy s.le.backoffStep)
      backoffStep := min 5 (s.le.backoffStep + 1) } := by
  simp [State.enterRetrainWait, State.setLink_le, State.faultSetting, satInc]

/-! ## Leaving service -/

/-- The line engine's part of leaving service (R13, R14, R16, R18). -/
def LE.leave (x : LE) (l : LinkState) : LE :=
  { x with
    link := l, phaseTimer := none, backoff := none, exchange := none, syncFails := 0, lowPower := 0, farEnd := none
    pending := none, changeInFlight := false, needInFlight := false, evalDue := false }

/-- Leaving service up to the tables: the test armed, the link state, the line engine's records. -/
def State.leaveHead (s : State) (l : LinkState) : State :=
  (s.armedRaw.setLink l).modLe fun x =>
    { x with syncFails := 0, lowPower := 0, farEnd := none, pending := none, changeInFlight := false
             needInFlight := false, evalDue := false }

theorem leaveHead_le (l : LinkState) : (s.leaveHead l).le = s.armedRaw.le.leave l := by
  simp [State.leaveHead, State.setLink_le, LE.leave]

theorem only_leaveHead (l : LinkState) : Only [.le, .tt, .ft, .tu, .plk] s (s.leaveHead l) :=
  .seq (l := [.le, .tt, .ft, .tu, .plk]) (.seq (only_armedRaw s) (only_setLink _ l)) (only_modLe _ _)

/-! ## Call records -/

@[simp] theorem call_modCallRaw (p : Port) (f : CallRec → CallRec) : (s.modCallRaw p f).call p = f (s.call p) :=
  perPort_get_set _ _ _

@[simp] theorem call_modCallRaw_other (p : Port) (f : CallRec → CallRec) :
    (s.modCallRaw p f).call p.other = s.call p.other := perPort_get_set_other _ _ _

theorem updCall_cc (p : Port) (f : CallRec → CallRec) : (s.updCall p f).cc = (s.modCallRaw p f).cc := by
  unfold State.updCall
  dsimp only
  split
  · exact (only_raiseIf _ _ _).cc (by decide)
  · exact ((only_nameAudio _ p).cc (by decide)).trans ((only_raiseIf _ _ _).cc (by decide))

@[simp] theorem call_updCall (p : Port) (f : CallRec → CallRec) : (s.updCall p f).call p = f (s.call p) := by
  rw [State.call, updCall_cc]
  exact call_modCallRaw s p f

@[simp] theorem call_updCall_other (p : Port) (f : CallRec → CallRec) :
    (s.updCall p f).call p.other = s.call p.other := by
  rw [State.call, updCall_cc]
  exact call_modCallRaw_other s p f

@[simp] theorem call_ringOff (p q : Port) : (s.ringOff p).call q = s.call q := rfl

/-! ## The end of service, for the calls (R107) -/

theorem linkGone_lineCall (c : RelCause) (p : Port) : ((s.linkGone c p).call p).lineCall = false := by
  unfold State.linkGone
  dsimp only
  split
  iterate 5
    · split <;> simp [State.freeCall, CallRec.lineCall, Reset.call]
  · rename_i h1 h2 h3 h4 h5
    cases hs : (s.call p).state <;> simp_all [CallRec.lineCall]

theorem linkGone_call_other (c : RelCause) (p : Port) : (s.linkGone c p).call p.other = s.call p.other := by
  unfold State.linkGone
  dsimp only
  split
  iterate 5
    · split <;> simp [State.freeCall]
  · simp

/-! ## A capacity evaluation without line calls (R101, R102) -/

section
variable {s : State}

theorem CallRec.not_carries {r : CallRec} (h : r.lineCall = false) : r.carries = false := by
  cases hs : r.state <;> simp_all [CallRec.lineCall, CallRec.carries]

theorem newest_none {f : CallRec → Bool} (h : ∀ p, f (s.call p) = false) : s.newest f = none := by
  simp [State.newest, h]

theorem downgradeOver_idle (k : Nat) (h : ∀ p, (s.call p).downgradable = false) : State.downgradeOver k s = s := by
  cases k with
  | zero => rfl
  | succ k => simp [State.downgradeOver, newest_none h]

theorem releaseOver_idle (k : Nat) (h : ∀ p, (s.call p).carries = false) : State.releaseOver k s = s := by
  cases k with
  | zero => rfl
  | succ k => simp [State.releaseOver, newest_none h]

/-- A record of no line call that bears an admission wait, which no run reaches, is tested in vain. -/
theorem retest_idle (p : Port) (h : (s.call p).lineCall = false) :
    Only [.cc] s (s.retest p) ∧ (s.retest p).cc.recs = s.cc.recs := by
  have admission : s.admitWaiting p = s.takeSerial.1 := by
    have hcall : s.takeSerial.1.call p = s.call p := rfl
    unfold State.admitWaiting
    dsimp only
    rw [hcall]
    cases hs : (s.call p).state <;> simp_all [CallRec.lineCall]
  have cases : s.retest p = s.takeSerial.1 ∨ s.retest p = s := by
    unfold State.retest
    dsimp only
    rw [admission]
    generalize s.passes _ = fits
    cases (s.call p).admission.isSome <;> cases fits <;> simp
  rcases cases with e | e <;> rw [e]
  · exact ⟨only_takeSerial s, rfl⟩
  · exact ⟨.refl _ s, rfl⟩

theorem retestWaiting_idle (h : ∀ p, (s.call p).lineCall = false) :
    Only [.cc] s s.retestWaiting ∧ s.retestWaiting.cc.recs = s.cc.recs := by
  have pair (p q : Port) : Only [.cc] s ((s.retest p).retest q) ∧ ((s.retest p).retest q).cc.recs = s.cc.recs := by
    obtain ⟨hp, hr⟩ := retest_idle p (h p)
    have hq : ((s.retest p).call q).lineCall = false := by rw [State.call, hr]; exact h q
    obtain ⟨hp', hr'⟩ := retest_idle q hq
    exact ⟨hp.trans hp', hr'.trans hr⟩
  unfold State.retestWaiting
  split <;> exact pair _ _

theorem evaluateCapacity_idle (h : ∀ p, (s.call p).lineCall = false) :
    Only [.cc] s s.evaluateCapacity ∧ s.evaluateCapacity.cc.recs = s.cc.recs := by
  have carries := fun p => CallRec.not_carries (h p)
  have full : ∀ p, (s.call p).downgradable = false := fun p => by simp [CallRec.downgradable, carries p]
  unfold State.evaluateCapacity
  simp only [List.foldl_cons, List.foldl_nil, full, Bool.false_eq_true, if_false, ite_self, downgradeOver_idle 2 full,
    releaseOver_idle 2 carries]
  obtain ⟨hp, hr⟩ := retestWaiting_idle (s := s.modCc fun c => { c with lastR := s.voiceRequirement }) h
  exact ⟨(only_modCc s _).trans hp, hr⟩

theorem widthChanged_idle (w : Nat) (h : ∀ p, (s.call p).lineCall = false) :
    Only [.cc] s (s.widthChanged w) ∧ (s.widthChanged w).cc.recs = s.cc.recs := by
  unfold State.widthChanged
  split
  · exact ⟨.refl _ s, rfl⟩
  · obtain ⟨hp, hr⟩ := evaluateCapacity_idle
      (s := s.modCc fun c => { c with pDown := s.pMinDown, pUp := s.pMinUp }) h
    exact ⟨(only_modCc s _).trans hp, hr⟩

end

/-! ## Leaving service (R16, R45, R74, R107) -/

/-- Leaving service up to the flush: the change of state, then what the tables and the tracker give up. -/
def State.leaveTables (s : State) (l : LinkState) : State :=
  (((s.leaveHead l).modTt fun x =>
    { x with inFlight := .none, waitingRate := none, upWaiting := none, needProgress := none }).setMaskInForce
      s.settings.line.requestedMask).ftUpd FT.leaveService

theorem only_leaveTables (l : LinkState) : Only [.le, .tt, .ft, .tu, .plk] s (s.leaveTables l) :=
  .seq (l := [.le, .tt, .ft, .tu, .plk])
    (.seq (l := [.le, .tt, .ft, .tu, .plk]) (.seq (only_leaveHead s l) (only_modTt _ _)) (only_setMaskInForce _ _))
    (only_ftUpd _ _)

theorem leaveService_eq (l : LinkState) (c : RelCause) :
    s.leaveService l c =
      (((s.leaveTables l).flush.linkGone c .a).linkGone c .b).widthChanged s.agreedWidth := by
  have hset : (s.leaveHead l).settings = s.settings := (only_leaveHead s l).settings
  simp only [State.leaveTables, ← hset]
  rfl

/-- After the flush only the calls, their ports and the pending notices change. -/
theorem leaveService_after_flush (l : LinkState) (c : RelCause) :
    Only [.cc, .plk, .ports] (s.leaveTables l).flush (s.leaveService l c)
    ∧ ∀ p, ((s.leaveService l c).call p).lineCall = false := by
  rw [leaveService_eq]
  generalize (s.leaveTables l).flush = t
  have gone : ∀ p, (((t.linkGone c .a).linkGone c .b).call p).lineCall = false := by
    intro p
    cases p with
    | a => rw [show Port.a = Port.b.other from rfl, linkGone_call_other]; exact linkGone_lineCall t c .a
    | b => exact linkGone_lineCall _ c .b
  obtain ⟨hw, hr⟩ := widthChanged_idle s.agreedWidth gone
  refine ⟨.seq (.trans (only_linkGone t c .a) (only_linkGone _ c .b)) hw, fun p => ?_⟩
  rw [State.call, hr]
  exact gone p

theorem leaveService_lineCall (l : LinkState) (c : RelCause) (p : Port) :
    ((s.leaveService l c).call p).lineCall = false := (leaveService_after_flush s l c).2 p

theorem leaveService_le (l : LinkState) (c : RelCause) : (s.leaveService l c).le = s.armedRaw.le.leave l := by
  have after := ((leaveService_after_flush s l c).1.le (by decide)).trans ((only_flush (s.leaveTables l)).le (by decide))
  rw [after, State.leaveTables, (only_ftUpd _ _).le (by decide), (only_setMaskInForce _ _).le (by decide),
    State.modTt_le, leaveHead_le]

theorem leaveService_tt (l : LinkState) (c : RelCause) :
    (s.leaveService l c).tt.inFlight = .none ∧ (s.leaveService l c).tt.waitingRate = none
    ∧ (s.leaveService l c).tt.upWaiting = none
    ∧ (s.leaveService l c).tt.maskInForce = s.settings.line.requestedMask := by
  have after := ((leaveService_after_flush s l c).1.tt (by decide)).trans ((only_flush (s.leaveTables l)).tt (by decide))
  rw [after, State.leaveTables, (only_ftUpd _ _).tt (by decide)]
  exact ⟨rfl, rfl, rfl, rfl⟩

@[simp] theorem ftUpd_ft (f : FT → FT) : (s.ftUpd f).ft = f s.ft := by simp [State.ftUpd]

theorem leaveService_ft (l : LinkState) (c : RelCause) :
    (s.leaveService l c).ft.agreement = none ∧ (s.leaveService l c).ft.request = .none := by
  have after := ((leaveService_after_flush s l c).1.ft (by decide)).trans ((only_flush (s.leaveTables l)).ft (by decide))
  rw [after, State.leaveTables, ftUpd_ft]
  exact ⟨rfl, rfl⟩

/-- The flush of R74, but for its counts and the data path of the host. -/
theorem flush_ss : s.flush.ss.txs = [] ∧ s.flush.ss.waiting = [] ∧ s.flush.ss.outQueue = []
    ∧ s.flush.ss.repeats = Reset.repeats ∧ s.flush.ss.dataPartial = none ∧ s.flush.ss.mgmtPartial = none
    ∧ s.flush.ss.upQueue = s.ss.upQueue := by
  have result (t : State) (rs : List TxReq) : Only [.tu, .plk] t (rs.foldl (fun s r => s.undelivered r.tag) t) :=
    .foldl _ (fun t _ => only_undelivered t _) _ _
  unfold State.flush
  dsimp only
  rw [(result _ _).ss (by decide)]
  split <;> split <;> exact ⟨rfl, rfl, rfl, rfl, rfl, rfl, rfl⟩

theorem leaveService_ss (l : LinkState) (c : RelCause) :
    (s.leaveService l c).ss.txs = [] ∧ (s.leaveService l c).ss.waiting = [] ∧ (s.leaveService l c).ss.outQueue = []
    ∧ (s.leaveService l c).ss.repeats = Reset.repeats ∧ (s.leaveService l c).ss.dataPartial = none
    ∧ (s.leaveService l c).ss.mgmtPartial = none ∧ (s.leaveService l c).ss.upQueue = s.ss.upQueue := by
  have before : (s.leaveTables l).ss = s.ss := (only_leaveTables s l).ss (by decide)
  rw [(leaveService_after_flush s l c).1.ss (by decide), ← before]
  exact flush_ss _

/-- The flush moves no fault record and writes no history (R74). -/
theorem flush_fs : s.flush.fs.recs = s.fs.recs ∧ s.flush.fs.history = s.fs.history
    ∧ s.flush.fs.nextSeq = s.fs.nextSeq := by
  have result (t : State) (rs : List TxReq) : Only [.tu, .plk] t (rs.foldl (fun s r => s.undelivered r.tag) t) :=
    .foldl _ (fun t _ => only_undelivered t _) _ _
  unfold State.flush
  dsimp only
  rw [(result _ _).fs (by decide)]
  split <;> split <;> exact ⟨rfl, rfl, rfl⟩

theorem leaveService_fs (l : LinkState) (c : RelCause) :
    (s.leaveService l c).fs.recs = s.fs.recs ∧ (s.leaveService l c).fs.history = s.fs.history
    ∧ (s.leaveService l c).fs.nextSeq = s.fs.nextSeq := by
  have before : (s.leaveTables l).fs = s.fs := (only_leaveTables s l).fs (by decide)
  rw [(leaveService_after_flush s l c).1.fs (by decide), ← before]
  exact flush_fs _

/-! ## The line hold set (R2, R3) -/

theorem LineHold.isEmpty_of_has {h : LineHold} {m : LineMember} (hm : h.has m = true) : h.isEmpty = false := by
  cases m <;> simp_all [LineHold.has, LineHold.isEmpty]

theorem LineHold.has_put (h : LineHold) (m k : LineMember) (v : Bool) :
    (h.put m v).has k = if k = m then v else h.has k := by
  cases m <;> cases k <;> rfl

/-- The line's law, case by case (R2, R3). -/
theorem lineLaw_cases :
    (s.le.hold.isEmpty = true ∧ s.le.link.driverOn = true ∧ s.lineLaw = s)
    ∨ (s.le.hold.isEmpty = true ∧ s.le.link.driverOn = false ∧ s.lineLaw = s.enterQuiet)
    ∨ (s.le.hold.isEmpty = false ∧ s.le.link = s.le.hold.state ∧ s.lineLaw = s)
    ∨ (s.le.hold.isEmpty = false ∧ s.lineLaw = s.leaveService s.le.hold.state .linkLost)
    ∨ (s.le.hold.isEmpty = false ∧ s.lineLaw = s.setLink s.le.hold.state) := by
  unfold State.lineLaw
  cases he : s.le.hold.isEmpty
  · by_cases hl : s.le.link = s.le.hold.state
    · simp [hl]
    · cases hi : s.inService <;> simp [hl]
  · cases hd : s.le.link.driverOn <;> simp

theorem armedRaw_le_cases : s.armedRaw.le = s.le
    ∨ s.tu.current ≠ none ∧ s.armedRaw.le = { s.le with hold := s.le.hold.put .test true } := by
  cases ht : s.tu.current with
  | none => exact .inl (by simp [State.armedRaw, ht])
  | some c => exact s.armedRaw_le.imp_right fun e => ⟨by simp, e⟩

/-- With a member held the link ends in the state the hold set requires. The set changes only by the TEST of a test in
ARMING, as the link leaves service. -/
theorem lineLaw_held (hn : s.le.hold.isEmpty = false) :
    s.lineLaw.le.hold.isEmpty = false ∧ s.lineLaw.le.link = s.lineLaw.le.hold.state
    ∧ (s.lineLaw.le.hold = s.le.hold ∨ s.tu.current ≠ none ∧ s.lineLaw.le.hold = s.le.hold.put .test true) := by
  rcases lineLaw_cases s with ⟨he, -⟩ | ⟨he, -⟩ | ⟨-, hl, e⟩ | ⟨-, e⟩ | ⟨-, e⟩
  · simp [hn] at he
  · simp [hn] at he
  · rw [e]; exact ⟨hn, hl, .inl rfl⟩
  · rw [e, leaveService_le]
    rcases armedRaw_le_cases s with e | ⟨ht, e⟩ <;> rw [e] <;> simp [LE.leave, hn, s.le.hold.state_test hn]
    exact .inr ht
  · rw [e, State.setLink_le]; exact ⟨hn, rfl, .inl rfl⟩

theorem lineLaw_empty (he : s.le.hold.isEmpty = true) :
    s.lineLaw.le.hold = s.le.hold
    ∧ (s.le.link.driverOn = true → s.lineLaw = s)
    ∧ (s.le.link.driverOn = false → s.lineLaw.le.link = .quiet ∧ s.lineLaw.le.phaseTimer = some 200) := by
  rcases lineLaw_cases s with ⟨-, hd, e⟩ | ⟨-, hd, e⟩ | ⟨hn, -⟩ | ⟨hn, -⟩ | ⟨hn, -⟩
  · simp [e, hd]
  · simp [e, hd, enterQuiet_le]
  all_goals simp [he] at hn

theorem lineLaw_reduction : s.lineLaw.le.reduction = s.le.reduction := by
  rcases lineLaw_cases s with ⟨-, -, e⟩ | ⟨-, -, e⟩ | ⟨-, -, e⟩ | ⟨-, e⟩ | ⟨-, e⟩ <;> rw [e]
  · rw [enterQuiet_le]
  · rw [leaveService_le]
    rcases s.armedRaw_le with e | e <;> rw [e] <;> rfl
  · rw [State.setLink_le]

/-- Aborting the test takes at most TEST from the line hold set, and that only where a test runs. -/
theorem abortRaw_le (a : AbortCause) :
    (s.abortRaw a).le = s.le ∨ s.tu.current ≠ none ∧ (s.abortRaw a).le = { s.le with hold := s.le.hold.put .test false } := by
  unfold State.abortRaw
  cases ht : s.tu.current with
  | none => exact .inl rfl
  | some c =>
    have record := (only_recordTest s c .aborted (some a) none).le (by decide)
    dsimp only [State.endTest]
    unfold State.dropTestHold
    split <;> simp [record]

end Sys2Proof.Machine
end

section
/-!
PROOFS. LINE_CONFIGURE (R21): the three settings, and the line hold set that follows link enable.
-/

namespace Sys2Proof.Machine

-- One proof at a time: the text is compiled as one, and each proof that waits for the others holds a thread.
set_option Elab.async false

variable (s : State)

/-! ## A member joins or leaves the line hold set (R2, R3) -/

/-- The state in which the line's law finds a member that has joined: the test whose TEST the set held is ended. -/
def State.lineJoined (s : State) (m : LineMember) : State :=
  let s := (s.modLe fun x => { x with hold := x.hold.put m true }).raise .link
  if m != .test && s.le.hold.test && s.insulating then s.abortRaw .held else s

theorem lineHoldAdd_eq (m : LineMember) (h : s.le.hold.has m = false) :
    s.lineHoldAdd m = (s.lineJoined m).lineLaw := by
  simp [State.lineHoldAdd, State.lineJoined, h]

/-- The member is in the set; no other joins, and only TEST may leave, with the test it belonged to. -/
theorem lineJoined_le (m : LineMember) :
    (s.lineJoined m).le.hold.has m = true ∧ (s.lineJoined m).le.reduction = s.le.reduction
    ∧ (s.tu.current = none → (s.lineJoined m).le.hold = s.le.hold.put m true)
    ∧ (s.tu.current = none → (s.lineJoined m).tu.current = none) := by
  unfold State.lineJoined
  dsimp only
  generalize ht : (s.modLe fun x => { x with hold := x.hold.put m true }).raise .link = t
  have hle : t.le = { s.le with hold := s.le.hold.put m true } := by rw [← ht]; rfl
  have htu : t.tu = s.tu := by rw [← ht]; rfl
  split
  · rename_i hc
    have hm : m ≠ .test := by rintro rfl; simp at hc
    have same (hn : s.tu.current = none) : t.abortRaw .held = t := by simp [State.abortRaw, htu, hn]
    have kept : (t.abortRaw .held).le.hold.has m = true ∧ (t.abortRaw .held).le.reduction = s.le.reduction := by
      rcases abortRaw_le t .held with e | ⟨-, e⟩ <;> simp [e, hle, LineHold.has_put, hm]
    exact ⟨kept.1, kept.2, fun hn => by rw [same hn, hle], fun hn => by rw [same hn, htu, hn]⟩
  · simp [hle, LineHold.has_put, htu]

theorem lineHoldAdd_le (m : LineMember) (h : s.le.hold.has m = false) :
    (s.lineHoldAdd m).le.hold.has m = true ∧ (s.lineHoldAdd m).le.reduction = s.le.reduction
    ∧ (s.tu.current = none → (s.lineHoldAdd m).le.hold = s.le.hold.put m true)
    ∧ (s.lineHoldAdd m).le.link = (s.lineHoldAdd m).le.hold.state := by
  obtain ⟨hm, hr, hh, hc⟩ := lineJoined_le s m
  obtain ⟨-, hl, hcases⟩ := lineLaw_held _ (LineHold.isEmpty_of_has hm)
  rw [lineHoldAdd_eq s m h]
  refine ⟨?_, (lineLaw_reduction _).trans hr, fun hn => ?_, hl⟩
  · rcases hcases with e | ⟨-, e⟩ <;> rw [e]
    · exact hm
    · rw [LineHold.has_put]; split <;> simp [hm]
  · rcases hcases with e | ⟨ht, -⟩
    · rw [e, hh hn]
    · exact absurd (hc hn) ht

theorem lineHoldRemove_le (m : LineMember) (h : s.le.hold.has m = true) :
    ((m ≠ .test → (s.lineHoldRemove m).le.hold.has m = false) ∧ (s.lineHoldRemove m).le.reduction = s.le.reduction)
    ∧ (s.tu.current = none → (s.lineHoldRemove m).le.hold = s.le.hold.put m false)
    ∧ ((s.lineHoldRemove m).le.hold.isEmpty = false → (s.lineHoldRemove m).le.link = (s.lineHoldRemove m).le.hold.state)
    ∧ ((s.lineHoldRemove m).le.hold.isEmpty = true → s.le.link.driverOn = false →
        (s.lineHoldRemove m).le.link = .quiet ∧ (s.lineHoldRemove m).le.phaseTimer = some 200) := by
  let t := (s.modLe fun x => { x with hold := x.hold.put m false }).raise .link
  have hr : s.lineHoldRemove m = t.lineLaw := by simp [State.lineHoldRemove, h, t]
  have hle : t.le = { s.le with hold := s.le.hold.put m false } := rfl
  rw [hr]
  cases he : t.le.hold.isEmpty
  · obtain ⟨hn, hl, hcases⟩ := lineLaw_held t he
    refine ⟨⟨fun hm => ?_, (lineLaw_reduction t).trans rfl⟩, fun hc => ?_, fun _ => hl, fun h => absurd h (by simp [hn])⟩
    · rcases hcases with e | ⟨-, e⟩ <;> simp [e, hle, LineHold.has_put, hm]
    · rcases hcases with e | ⟨ht, -⟩
      · exact e
      · exact absurd hc ht
  · obtain ⟨hh, hon, hoff⟩ := lineLaw_empty t he
    exact ⟨⟨fun _ => by simp [hh, hle, LineHold.has_put], (lineLaw_reduction t).trans rfl⟩, fun _ => hh,
      fun hn => absurd (hh ▸ hn) (by simp [he]), fun _ hd => hoff hd⟩

/-! ## Link enable (R21) -/

/-- Link enable as it stands is no change of the hold set. -/
theorem applyLinkEnable_same (h : s.le.hold.disabled = !s.settings.line.linkEnable) : s.applyLinkEnable = s := by
  unfold State.applyLinkEnable
  cases he : s.settings.line.linkEnable <;>
    simp [he] at h <;> simp [State.lineHoldAdd, State.lineHoldRemove, LineHold.has, h]

/-- Link enable changed: DISABLED joins or leaves, and the link follows. -/
theorem applyLinkEnable_change (h : s.le.hold.disabled = s.settings.line.linkEnable) :
    s.applyLinkEnable.le.hold.disabled = (!s.settings.line.linkEnable)
    ∧ s.applyLinkEnable.le.reduction = s.le.reduction
    ∧ (s.tu.current = none → s.applyLinkEnable.le.hold = { s.le.hold with disabled := !s.settings.line.linkEnable })
    ∧ (s.applyLinkEnable.le.hold.isEmpty = false → s.applyLinkEnable.le.link = s.applyLinkEnable.le.hold.state)
    ∧ (s.applyLinkEnable.le.hold.isEmpty = true → s.le.link = .idle ∨ s.le.link = .testHold →
        s.applyLinkEnable.le.link = .quiet ∧ s.applyLinkEnable.le.phaseTimer = some 200) := by
  unfold State.applyLinkEnable
  cases he : s.settings.line.linkEnable <;> rw [he] at h
  · obtain ⟨hm, hr, hh, hl⟩ := lineHoldAdd_le s .disabled h
    exact ⟨hm, hr, hh, fun _ => hl, fun hx => absurd hx (by simp [LineHold.isEmpty_of_has hm])⟩
  · obtain ⟨⟨hm, hr⟩, hh, hl, hq⟩ := lineHoldRemove_le s .disabled h
    refine ⟨hm (by decide), hr, hh, hl, fun hx hlink => hq hx ?_⟩
    rcases hlink with e | e <;> rw [e] <;> rfl

/-! ## The request (R21, R168) -/

/-- What LINE_CONFIGURE asks of the three settings. -/
def configuredLine (x : LineSettings) (l : Option Bool) (m : Option Nat) (u : Option Bool) : LineSettings :=
  { x with linkEnable := l.getD x.linkEnable, marginTarget := (m.map (min 15)).getD x.marginTarget
           upshiftEnable := u.getD x.upshiftEnable }

theorem takeEnum_known {α : Type} (old : α) (x : Option α) : takeEnum old (x.map .known) = some (x.getD old) := by
  cases x <;> rfl

theorem takeEnum_outside {α : Type} (old : α) (c : Nat) : takeEnum old (some (.outside c)) = none := rfl

theorem takeNat_fifteen (old : Nat) (m : Option Nat) : takeNat 0 15 old m = (m.map (min 15)).getD old := by
  cases m <;> simp [takeNat, clampNat]

/-- The state whose reply LINE_CONFIGURE forms. -/
def State.lineConfigured (s : State) (l : Option Bool) (m : Option Nat) (u : Option Bool) : State :=
  (s.modSettings fun y => { y with line := configuredLine y.line l m u }).applyLinkEnable

theorem calm_lineConfigured (l : Option Bool) (m : Option Nat) (u : Option Bool) :
    Calm allSides (s.modSettings fun y => { y with line := configuredLine y.line l m u }) (s.lineConfigured l m u) :=
  calm_applyLinkEnable (.refl _ _)

theorem lineConfigured_settings (l : Option Bool) (m : Option Nat) (u : Option Bool) :
    (s.lineConfigured l m u).settings = { s.settings with line := configuredLine s.settings.line l m u } :=
  (calm_lineConfigured s l m u).settings

theorem lineConfigure_known (l : Option Bool) (m : Option Nat) (u : Option Bool) :
    s.lineConfigure (l.map .known) m (u.map .known) =
      (s.lineConfigured l m u).reply (.ok (wBool (s.lineConfigured l m u).settings.line.linkEnable
        ++ w8 (s.lineConfigured l m u).settings.line.marginTarget
        ++ wBool (s.lineConfigured l m u).settings.line.upshiftEnable)) := by
  rw [(calm_lineConfigured s l m u).settings]
  simp only [State.lineConfigure, takeEnum_known, takeNat_fifteen]
  rfl

theorem lineConfigure_refused (l : Option (Enum Bool)) (m : Option Nat) (u : Option (Enum Bool))
    (h : (∃ c, l = some (.outside c)) ∨ ∃ c, u = some (.outside c)) :
    s.lineConfigure l m u = s.reply (.no .badArgument) := by
  unfold State.lineConfigure
  rcases h with ⟨c, rfl⟩ | ⟨c, rfl⟩
  · simp [takeEnum_outside]
  · simp only [takeEnum_outside]
    cases takeEnum s.settings.line.linkEnable l <;> rfl

/-! ## SETTINGS_DEFAULTS (R21, R178) -/

/-- What applying the settings of another group leaves: the LINE settings and the request queue. -/
structure LineKept (z s : State) : Prop where
  line : s.settings.line = z.settings.line
  requests : s.plk.requests = z.plk.requests

section
variable {s}

theorem LineKept.trans {z t : State} (h : LineKept z s) (k : LineKept s t) : LineKept z t :=
  ⟨k.line.trans h.line, k.requests.trans h.requests⟩

theorem Calm.lineKept {z : State} (h : Calm allSides z s) : LineKept z s := ⟨by rw [h.settings], h.requests⟩

end

theorem lineKept_applyPort (p : Port) (x : PortSettings) : LineKept s (s.applyPort p x) := by
  unfold State.applyPort
  extract_lets old s1 s2 s3
  have h1 : LineKept s s1 := ⟨rfl, rfl⟩
  have h2 : LineKept s1 s2 := by
    unfold s2
    split <;> exact ⟨rfl, rfl⟩
  have h3 : LineKept s s3 := (h1.trans h2).trans (calm_applyPortEnable p (.refl allSides s2)).lineKept
  split
  · exact h3
  · exact h3.trans (calm_shedLaw (.refl allSides s3)).lineKept

theorem lineKept_applyFaults (x : FaultSettings) (l : List FaultId) : LineKept s (s.applyFaults x l) := by
  have raises : ∀ (l : List FaultId) (t : State), LineKept t (l.foldl (fun s i => s.policyRaise i) t) := by
    intro l
    induction l with
    | nil => exact fun _ => ⟨rfl, rfl⟩
    | cons i l ih => exact fun t => (calm_policyRaise i (.refl allSides t)).lineKept.trans (ih _)
  unfold State.applyFaults
  extract_lets pin s1 s2
  have h1 : LineKept s s1 := ⟨rfl, rfl⟩
  have h2 : LineKept s s2 := h1.trans (raises l s1)
  exact h2.trans ⟨by simp, by simp⟩

theorem lineKept_applyDefaults :
    LineKept (s.modSettings fun x => { x with line := Config.defaults.line }) s.applyDefaults := by
  unfold State.applyDefaults
  extract_lets d s1 s2 s3 s4 s5 s6
  have h2 : LineKept (s.modSettings fun x => { x with line := d.line }) s2 := by
    unfold s2
    split <;> exact ⟨rfl, rfl⟩
  have h4 : LineKept s2 s4 := (calm_applyLinkEnable (.refl allSides s2)).lineKept.trans ⟨rfl, rfl⟩
  have h5 : LineKept s4 s5 := (lineKept_applyPort s4 .a _).trans (lineKept_applyPort _ .b _)
  have h6 : LineKept s5 s6 := ⟨rfl, rfl⟩
  exact (((h2.trans h4).trans h5).trans h6).trans (lineKept_applyFaults s6 _ _)

/-! ## The obligation -/

/-- Settles O22: where link enable finds DISABLED as it wants it `applyLinkEnable_same`, else
`applyLinkEnable_change`. -/
theorem lineConfigureSets : Obligations.LineConfigureSets := by
  refine ⟨fun l m u rest s h hr => ⟨?_, fun ho => ?_⟩, fun s h hc => ?_⟩
  · rintro l' u' rfl rfl
    let t := s.modSettings fun y => { y with line := configuredLine y.line l' m u' }
    let v := s.lineConfigured l' m u'
    have calm : Calm allSides t v := calm_lineConfigured s l' m u'
    have hset : v.settings = t.settings := calm.settings
    have answered : exec (.lineConfigure (l'.map .known) m (u'.map .known)) s = .next (State.settle
        (v.replied 0x02 .ok (wBool v.settings.line.linkEnable ++ w8 v.settings.line.marginTarget
          ++ wBool v.settings.line.upshiftEnable))) := by
      refine congrArg _ ((live_request _ h rfl hr).trans ?_)
      rw [lineConfigure_known, reply_eq ((asked_congr calm.requests).trans h.2)]
      rfl
    by_cases hd : s.le.hold.disabled = !t.settings.line.linkEnable
    · have same : v = t := applyLinkEnable_same t hd
      exact ⟨v, hset, by rw [same]; exact hd, fun _ => by rw [same]; rfl,
        fun hne => absurd (by rw [same]; rfl) hne, by rw [same]; rfl, calm.sts, calm.uptime, calm.mode, calm.custody,
        calm.accounts, calm.requests, calm.upQueue, answered⟩
    · have hd' : t.le.hold.disabled = t.settings.line.linkEnable := Bool.ne_not.mp hd
      obtain ⟨hdis, hred, hhold, hheld, hquiet⟩ := applyLinkEnable_change t hd'
      have hdis' : v.le.hold.disabled = !v.settings.line.linkEnable := by rw [hset]; exact hdis
      refine ⟨v, hset, hdis', fun e => absurd (e.trans hdis) hd, fun _ => ⟨fun hc => ?_, hheld, hquiet⟩, hred, calm.sts,
        calm.uptime, calm.mode, calm.custody, calm.accounts, calm.requests, calm.upQueue, answered⟩
      rw [hdis', hset]
      exact hhold hc
  · refine congrArg _ ((live_request _ h rfl hr).trans ?_)
    rw [lineConfigure_refused s l m u ho, reply_eq h.2]
    rfl
  · refine ⟨s.applyDefaults, congrArg _ ((live_request _ h rfl rfl).trans ?_), ?_⟩
    · rw [if_neg hc, reply_eq ((asked_congr (lineKept_applyDefaults s).requests).trans h.2)]
      rfl
    · rw [(lineKept_applyDefaults s).line]
      exact ⟨rfl, rfl, rfl⟩

end Sys2Proof.Machine
end

section
/-!
PROOFS. The fault records and the history after each path of a record (R154 to R157, R160).
-/

namespace Sys2Proof.Machine

-- One proof at a time: the text is compiled as one, and each proof that waits for the others holds a thread.
set_option Elab.async false

variable (s : State)

/-! ## The history (R160) -/

/-- The history with an entry more: the oldest of 32 goes. -/
def historyWith (h : List HistEntry) (e : HistEntry) : List HistEntry := (h ++ [e]).drop ((h ++ [e]).length - 32)

/-- The newest `k` entries. -/
def newestEntries (k : Nat) (h : List HistEntry) : List HistEntry := h.drop (h.length - k)

theorem mem_of_newest {k : Nat} {h : List HistEntry} {e : HistEntry} (he : e ∈ newestEntries k h) : e ∈ h :=
  List.mem_of_mem_drop he

theorem newest_historyWith (h : List HistEntry) (e : HistEntry) : e ∈ newestEntries 1 (historyWith h e) := by
  have hlast : newestEntries 1 (historyWith h e) = [e] := by
    unfold newestEntries historyWith
    rw [List.drop_drop, List.drop_append_of_le_length] <;> simp <;> omega
  simp [hlast]

/-- An entry among the newest `k` is among the newest `k + 1` once another has joined. -/
theorem newest_historyWith_older {k : Nat} {h : List HistEntry} {e : HistEntry} (x : HistEntry) (hk : k < 32)
    (he : e ∈ newestEntries k h) : e ∈ newestEntries (k + 1) (historyWith h x) := by
  have split : newestEntries (k + 1) (historyWith h x) = newestEntries k h ++ [x] := by
    unfold newestEntries historyWith
    rw [List.drop_drop, List.drop_append_of_le_length (by simp; omega)]
    congr 2
    simp
    omega
  simp [split, he]

/-! ## One record's move (R154) -/

section
variable (i : FaultId) (v : Option Int)

@[simp] theorem faultRec_modFault (f : FaultRec → FaultRec) : (s.modFault i f).faultRec i = f (s.faultRec i) :=
  perFault_get_set _ _ _

theorem faultRec_modFault_ne (f : FaultRec → FaultRec) {j : FaultId} (h : j ≠ i) :
    (s.modFault i f).faultRec j = s.faultRec j := perFault_get_set_ne _ _ _ _ h

theorem historyAdd_fs (t : Transition) : (s.historyAdd i t v).fs =
    { s.fs with
      history := historyWith s.fs.history
        { seq := s.fs.nextSeq, uptime := s.uptime, record := i, transition := t, value := v }
      nextSeq := (s.fs.nextSeq + 1) % 65536 } := by
  simp [State.historyAdd, historyWith]

@[simp] theorem faultRec_historyAdd (j : FaultId) (t : Transition) : (s.historyAdd i t v).faultRec j = s.faultRec j := by
  rw [State.faultRec, historyAdd_fs]; rfl

section
variable (st : FaultState) (run : Option Policy) (retry : Timer) (t : Transition)

@[simp] theorem faultRec_faultMove : (s.faultMove i st run retry t v).faultRec i =
    { s.faultRec i with state := st, run := run, retry := retry } := by simp [State.faultMove]

theorem faultRec_faultMove_ne {j : FaultId} (h : j ≠ i) :
    (s.faultMove i st run retry t v).faultRec j = s.faultRec j := by
  simp [State.faultMove, faultRec_modFault_ne _ _ _ h]

theorem faultMove_history : (s.faultMove i st run retry t v).fs.history = historyWith s.fs.history
    { seq := s.fs.nextSeq, uptime := s.uptime, record := i, transition := t, value := v } := by
  rw [State.faultMove, historyAdd_fs]; rfl

end

@[simp] theorem faultRec_faultOccur : (s.faultOccur i v).faultRec i = (s.faultRec i).occur s.uptime v := by
  simp [State.faultOccur]

theorem faultRec_faultOccur_ne {j : FaultId} (h : j ≠ i) : (s.faultOccur i v).faultRec j = s.faultRec j :=
  faultRec_modFault_ne _ _ _ h

/-! ## Reports (R155, R156) -/

/-- A report moves no other record, and makes at most one entry of the history. -/
structure Reported (i : FaultId) (z s : State) : Prop where
  others : ∀ j, j ≠ i → s.faultRec j = z.faultRec j
  history : s.fs.history = z.fs.history ∨ ∃ e, s.fs.history = historyWith z.fs.history e

theorem Reported.refl : Reported i s s := ⟨fun _ _ => rfl, .inl rfl⟩

theorem reported_faultMove (st : FaultState) (run : Option Policy) (retry : Timer) (t : Transition) :
    Reported i s (s.faultMove i st run retry t v) :=
  ⟨fun _ h => faultRec_faultMove_ne s i v st run retry t h, .inr ⟨_, faultMove_history s i v st run retry t⟩⟩

/-- A report after an update of its own record. -/
theorem Reported.after {f : FaultRec → FaultRec} {t : State} (h : Reported i (s.modFault i f) t) : Reported i s t :=
  ⟨fun j hj => (h.others j hj).trans (faultRec_modFault_ne s i f hj), h.history⟩

theorem reported_historyAdd (t : Transition) : Reported i s (s.historyAdd i t v) :=
  ⟨fun j _ => faultRec_historyAdd s i v j t, .inr ⟨_, by rw [historyAdd_fs]⟩⟩

theorem reported_occurMove (st : FaultState) (run : Option Policy) (retry : Timer) (t : Transition) :
    Reported i s ((s.faultOccur i v).faultMove i st run retry t v) :=
  (reported_faultMove (s.faultOccur i v) i v st run retry t).after

theorem reported_occurAdd (t : Transition) : Reported i s ((s.faultOccur i v).historyAdd i t v) :=
  (reported_historyAdd (s.faultOccur i v) i v t).after

theorem reported_faultEventCore : Reported i s (s.faultEventCore i v).1 := by
  unfold State.faultEventCore
  dsimp only
  split
  iterate 2
    · split
      · exact .refl s i
      all_goals exact reported_occurMove s i v _ _ _ _
  · exact reported_occurMove s i v _ _ _ _
  · exact reported_occurAdd s i v _
  · exact .refl s i

theorem reported_faultRaise : Reported i s (s.faultRaise i v).1 := by
  unfold State.faultRaise
  split
  · exact .refl s i
  all_goals exact reported_occurMove s i v _ _ _ _

theorem reported_faultConditionCore (present : Bool) : Reported i s (s.faultConditionCore i present v).1 := by
  unfold State.faultConditionCore
  dsimp only
  split
  · exact .refl s i
  refine Reported.after s i (f := fun r => { r with condition := present }) ?_
  split
  · split
    iterate 2 exact reported_faultRaise _ i v
    · exact reported_occurMove _ i v _ _ _ _
    · exact reported_occurAdd _ i v _
    · exact .refl _ i
  · split
    · split <;> exact reported_faultMove _ i v _ _ _ _
    · exact .refl _ i

/-- A report leaves the condition as it is. -/
theorem occur_condition (r : FaultRec) (now : BitVec 32) : (r.occur now v).condition = r.condition := rfl

theorem faultRaise_condition : ((s.faultRaise i v).1.faultRec i).condition = (s.faultRec i).condition := by
  unfold State.faultRaise
  split <;> simp [occur_condition]

/-- After the report the condition stands as reported (R155). -/
theorem faultConditionCore_condition (present : Bool) :
    ((s.faultConditionCore i present v).1.faultRec i).condition = present := by
  unfold State.faultConditionCore
  dsimp only
  split
  · assumption
  split
  · split <;> simp [faultRaise_condition, occur_condition, *]
  · split
    · split <;> simp
    · simp

/-- The present condition of a record CLEAR or RECOVERED raises it (R155). -/
theorem faultConditionCore_raise (hc : (s.faultRec i).condition = false)
    (hs : (s.faultRec i).state = .clear ∨ (s.faultRec i).state = .recovered) :
    s.faultConditionCore i true v = (s.modFault i fun r => { r with condition := true }).faultRaise i v := by
  unfold State.faultConditionCore
  rcases hs with hs | hs <;> simp [hc, hs]

end

/-! ## LINK_LOSS through a retrain (R157) -/

theorem linkLossRetraining_eq (h : (s.faultRec .linkLoss).state = .retryWait) : s.linkLossRetraining =
    s.faultMove .linkLoss .active (s.faultRec .linkLoss).run none .resumed (s.faultRec .linkLoss).value := by
  simp [State.linkLossRetraining, h]

theorem linkLossRetraining_idle (h : (s.faultRec .linkLoss).state ≠ .retryWait) : s.linkLossRetraining = s := by
  simp [State.linkLossRetraining, h]

theorem linkLossFailed_eq (h : (s.faultRec .linkLoss).state = .active) : s.linkLossFailed =
    s.faultMove .linkLoss .retryWait (s.faultRec .linkLoss).run none .retryStarted (s.faultRec .linkLoss).value := by
  simp [State.linkLossFailed, h]

theorem linkLossFailed_idle (h : (s.faultRec .linkLoss).state ≠ .active) : s.linkLossFailed = s := by
  simp [State.linkLossFailed, h]

theorem linkLossOver_eq (h : (s.faultRec .linkLoss).state = .active ∨ (s.faultRec .linkLoss).state = .retryWait) :
    s.linkLossOver = s.faultMove .linkLoss .recovered none none .recovered (s.faultRec .linkLoss).value := by
  simp [State.linkLossOver, h]

theorem linkLossOver_idle (h : (s.faultRec .linkLoss).state ≠ .active) (h' : (s.faultRec .linkLoss).state ≠ .retryWait) :
    s.linkLossOver = s := by
  simp [State.linkLossOver, h, h']

theorem reported_linkLossFailed : Reported .linkLoss s s.linkLossFailed := by
  by_cases h : (s.faultRec .linkLoss).state = .active
  · rw [linkLossFailed_eq s h]; exact reported_faultMove s _ _ _ _ _ _
  · rw [linkLossFailed_idle s h]; exact .refl s _

end Sys2Proof.Machine
end

section
/-!
PROOFS. The training attempt: its advances, its failures with the back-off, and the eighth failure in a row (R4 to R12,
R157).
-/

namespace Sys2Proof.Machine

-- One proof at a time: the text is compiled as one, and each proof that waits for the others holds a thread.
set_option Elab.async false

variable (s : State)

/-! ## Link states of the attempt -/

/-- From one state whose driver runs to another, but from EXCHANGE only into service: the notice aside, the line engine
alone changes. -/
theorem setLink_training (l : LinkState) (hn : l.driverOn = true)
    (he : s.le.link ≠ .exchange ∨ l = .inService) (hl : s.le.link ≠ l) :
    s.setLink l =
      (s.modLe fun x => { x with link := l, phaseTimer := none, backoff := none, exchange := none }).raise .link := by
  have driver : (s.le.link.driverOn && !l.driverOn) = false := by simp [hn]
  have mask : (decide (s.le.link = .exchange) && l != .inService) = false := by
    rcases he with h | h <;> simp [h]
  simp only [State.setLink, driver, mask, Bool.false_eq_true, if_false]
  rw [State.raiseIf, if_pos (by simpa using hl)]

/-- The tracker is stopped only where the driver is turned off (R45). -/
theorem setLink_ft (l : LinkState) (hn : l.driverOn = true) : (s.setLink l).ft = s.ft := by
  have driver : (s.le.link.driverOn && !l.driverOn) = false := by simp [hn]
  simp only [State.setLink, driver, Bool.false_eq_true, if_false]
  rw [State.raiseIf_ft]
  split <;> rfl

/-- The mask in force follows the requested mask where EXCHANGE is left for any state but IN_SERVICE (R37). -/
theorem setLink_tt (l : LinkState) : (s.setLink l).tt =
    if s.le.link = .exchange ∧ l ≠ .inService then
      { s.tt with
        maskInForce := s.settings.line.requestedMask
        down := List.zipWith (fun t k => { t with masked := k }) s.tt.down s.settings.line.requestedMask }
    else s.tt := by
  unfold State.setLink
  dsimp only
  rw [State.raiseIf_tt]
  have tables (t : State) (h : t.tt = s.tt) (hs : t.settings = s.settings) :
      (if s.le.link = .exchange && l != .inService then t.setMaskInForce t.settings.line.requestedMask else t).tt =
      if s.le.link = .exchange ∧ l ≠ .inService then
        { s.tt with
          maskInForce := s.settings.line.requestedMask
          down := List.zipWith (fun t k => { t with masked := k }) s.tt.down s.settings.line.requestedMask }
      else s.tt := by
    by_cases hc : s.le.link = .exchange ∧ l ≠ .inService
    · rw [if_pos (by simpa using hc), if_pos hc, ← h, ← hs]; rfl
    · rw [if_neg (by simpa using hc), if_neg hc, h]
  refine tables _ ?_ ?_
  · split
    · exact (only_ftUpd _ _).tt (by decide)
    · rfl
  · split
    · exact (only_ftUpd _ _).settings
    · rfl

theorem backoffMs_eq (p : Policy) (step : Nat) :
    backoffMs p step = if p = .retryFast then 1000 * min 8 (2 ^ step) else 1000 * min 64 (2 ^ (step + 1)) := by
  cases p <;> rfl

/-! ## A failed attempt up to TRAIN_FAIL (R9, R10, R12) -/

/-- The failure recorded and the back-off begun. -/
def State.attempted (s : State) (c : AttemptCause) : State :=
  (((s.modLe fun x =>
    { x with lastFailure := c, attempts := min 255 (x.attempts + 1)
             reduction := if c = .capacity then min 15 (x.reduction + 3) else x.reduction }).enterRetrainWait).linkLossFailed).raise
    .link

theorem attemptFail_eq (c : AttemptCause) : s.attemptFail c =
    if s.le.attempts = 7 then (s.attempted c).trainFail true else s.attempted c := by
  have hn : min 255 (s.le.attempts + 1) = 8 ↔ s.le.attempts = 7 := by omega
  simp only [State.attemptFail, satInc, hn]
  rfl

theorem attempted_le (c : AttemptCause) : (s.attempted c).le =
    { s.le with
      lastFailure := c, attempts := min 255 (s.le.attempts + 1)
      reduction := if c = .capacity then min 15 (s.le.reduction + 3) else s.le.reduction
      link := .retrainWait, phaseTimer := none, exchange := none
      backoff := some (backoffMs s.settings.faults.records.linkLoss.policy s.le.backoffStep)
      backoffStep := min 5 (s.le.backoffStep + 1) } := by
  unfold State.attempted
  rw [State.raise_le, (only_linkLossFailed _).le (by decide), enterRetrainWait_le]
  rfl

theorem attempted_tt (c : AttemptCause) : (s.attempted c).tt =
    if s.le.link = .exchange then
      { s.tt with
        maskInForce := s.settings.line.requestedMask
        down := List.zipWith (fun t k => { t with masked := k }) s.tt.down s.settings.line.requestedMask }
    else s.tt := by
  unfold State.attempted
  rw [State.raise_tt, (only_linkLossFailed _).tt (by decide), State.enterRetrainWait, State.modLe_tt, setLink_tt]
  simp

theorem only_attempted (c : AttemptCause) : Only [.le, .tt, .fs, .plk] s (s.attempted c) := by
  have h : Only [.le, .tt, .ft, .fs, .plk] s (s.attempted c) :=
    .seq (l := [.le, .tt, .ft, .fs, .plk])
      (.seq (l := [.le, .tt, .ft, .plk]) (.seq (only_modLe s _) (only_enterRetrainWait _)) (only_linkLossFailed _))
      (only_raise _ _)
  have hft : (s.attempted c).ft = s.ft := by
    unfold State.attempted
    rw [State.raise_ft, (only_linkLossFailed _).ft (by decide), State.enterRetrainWait, State.modLe_ft,
      setLink_ft _ _ rfl, State.modLe_ft]
  exact h.drop .ft hft

/-! ## A member joins the line hold set while the line trains -/

/-- What a change of link state between states of no service leaves of the line engine. -/
theorem lineLaw_training (h : s.le.link ≠ .inService) :
    s.lineLaw.le = { s.le with link := s.lineLaw.le.link, phaseTimer := s.lineLaw.le.phaseTimer
                               backoff := s.lineLaw.le.backoff, exchange := s.lineLaw.le.exchange }
    ∧ Only [.le, .tt, .ft, .plk] s s.lineLaw ∧ (s.le.link ≠ .exchange → s.lineLaw.tt = s.tt) := by
  have hin : s.inService = false := by simpa [State.inService] using h
  unfold State.lineLaw
  split
  · split
    · exact ⟨rfl, .refl _ s, fun _ => rfl⟩
    · refine ⟨by rw [enterQuiet_le], only_enterQuiet s, fun he => ?_⟩
      rw [State.enterQuiet, State.modLe_tt, setLink_tt, if_neg (by simp [he])]
  · dsimp only
    split
    · exact ⟨rfl, .refl _ s, fun _ => rfl⟩
    · rw [if_neg (by simp [hin])]
      refine ⟨by rw [State.setLink_le], only_setLink s _, fun he => ?_⟩
      rw [setLink_tt, if_neg (by simp [he])]

/-- Aborting the LINE_INSULATION that runs touches no port. -/
theorem abortRaw_insulating (a : AbortCause) (h : s.insulating = true) : (s.abortRaw a).ports = s.ports := by
  unfold State.abortRaw
  cases ht : s.tu.current with
  | none => rfl
  | some c =>
    have kind : c.kind = .lineInsulation := by
      simp only [State.insulating, State.testing, ht, Option.map_some, Option.getD_some, Bool.and_eq_true,
        beq_iff_eq] at h
      exact h.1
    have record := (only_recordTest s c .aborted (some a) none).ports (by decide)
    dsimp only [State.endTest]
    unfold State.dropTestHold
    rw [kind]
    cases c.phase <;> simp [record]

/-- A member joining the line hold set of a line out of service: the fields of the line engine that move, and the blocks
that stay. -/
theorem lineHoldAdd_training (m : LineMember) (h : s.le.link ≠ .inService) (he : s.le.link ≠ .exchange) :
    (∃ hold link timer backoff exchange, (s.lineHoldAdd m).le =
      { s.le with hold := hold, link := link, phaseTimer := timer, backoff := backoff, exchange := exchange })
    ∧ Only [.mu, .tu, .ss, .le, .ft, .plk] s (s.lineHoldAdd m) := by
  by_cases hm : s.le.hold.has m = true
  · simp only [State.lineHoldAdd, hm, if_true]
    exact ⟨⟨_, _, _, _, _, rfl⟩, .refl _ s⟩
  rw [lineHoldAdd_eq s m (by simpa using hm)]
  have joined : (∃ hold, (s.lineJoined m).le = { s.le with hold := hold })
      ∧ Only [.mu, .tu, .ss, .le, .plk] s (s.lineJoined m) := by
    unfold State.lineJoined
    dsimp only
    have put : Only [.le, .plk] s ((s.modLe fun x => { x with hold := x.hold.put m true }).raise .link) :=
      .seq (only_modLe s _) (only_raise _ _)
    generalize ht : (s.modLe fun x => { x with hold := x.hold.put m true }).raise .link = t at put
    have hle : t.le = { s.le with hold := s.le.hold.put m true } := by rw [← ht]; rfl
    split
    · rename_i hc
      have ports := abortRaw_insulating t .held (by simp at hc; exact hc.2)
      refine ⟨?_, put.seq ((only_abortRaw t .held).drop (m := [.mu, .tu, .ss, .le, .plk]) .ports ports)⟩
      rcases abortRaw_le t .held with e | ⟨-, e⟩ <;> rw [e, hle] <;> exact ⟨_, rfl⟩
    · exact ⟨⟨_, hle⟩, put.within⟩
  obtain ⟨⟨hold, hle⟩, hj⟩ := joined
  generalize s.lineJoined m = t at hle hj
  have hlink : t.le.link = s.le.link := by rw [hle]
  obtain ⟨hlaw, honly, htt⟩ := lineLaw_training t (by rw [hlink]; exact h)
  refine ⟨⟨hold, t.lineLaw.le.link, t.lineLaw.le.phaseTimer, t.lineLaw.le.backoff, t.lineLaw.le.exchange, ?_⟩,
    hj.seq (honly.drop (m := [.le, .ft, .plk]) .tt (htt (by rw [hlink]; exact he)))⟩
  rw [hle] at hlaw
  exact hlaw

/-! ## TRAIN_FAIL reported (R11) -/

/-- Up to its action the report moves the record alone. -/
def State.trainFailCore (s : State) : State :=
  (s.faultConditionCore .trainFail true (some (s.le.attempts : Int))).1

theorem only_trainFailCore : Only [.fs, .plk] s s.trainFailCore := only_faultConditionCore s _ _ _

theorem trainFail_eq : s.trainFail true = s.trainFailCore
    ∨ s.trainFail true = s.trainFailCore.lineHoldAdd .latched := by
  unfold State.trainFail State.trainFailCore
  dsimp only
  split
  · exact .inr rfl
  · exact .inl rfl

theorem trainFail_training (h : s.le.link ≠ .inService) (he : s.le.link ≠ .exchange) :
    (∃ hold link timer backoff exchange, (s.trainFail true).le =
      { s.le with hold := hold, link := link, phaseTimer := timer, backoff := backoff, exchange := exchange })
    ∧ Only [.mu, .tu, .ss, .le, .ft, .fs, .plk] s (s.trainFail true)
    ∧ (s.trainFail true).fs = s.trainFailCore.fs := by
  have hc := only_trainFailCore s
  have hle : s.trainFailCore.le = s.le := hc.le (by decide)
  rcases trainFail_eq s with e | e <;> rw [e]
  · exact ⟨⟨_, _, _, _, _, by rw [hle]⟩, hc.within, rfl⟩
  · obtain ⟨⟨hold, link, timer, backoff, exchange, hx⟩, honly⟩ :=
      lineHoldAdd_training s.trainFailCore .latched (by rw [hle]; exact h) (by rw [hle]; exact he)
    exact ⟨⟨hold, link, timer, backoff, exchange, by rw [hx, hle]⟩, hc.seq honly, honly.fs (by decide)⟩

/-! ## A failed attempt -/

/-- What every failed attempt leaves (R9, R10, R12). -/
theorem attemptFail_result (c : AttemptCause) :
    (s.attemptFail c).le.lastFailure = c ∧ (s.attemptFail c).le.attempts = min 255 (s.le.attempts + 1)
    ∧ (s.attemptFail c).le.reduction = (if c = .capacity then min 15 (s.le.reduction + 3) else s.le.reduction)
    ∧ (s.attemptFail c).le.backoffStep = min 5 (s.le.backoffStep + 1)
    ∧ (s.attemptFail c).tt = (s.attempted c).tt
    ∧ Only [.mu, .tu, .ss, .le, .tt, .ft, .fs, .plk] s (s.attemptFail c)
    ∧ (s.le.attempts = 7 → ((s.attemptFail c).faultRec .trainFail).condition = true) := by
  have hle := attempted_le s c
  have only := only_attempted s c
  rw [attemptFail_eq]
  split
  · obtain ⟨⟨hold, link, timer, backoff, exchange, hx⟩, honly, hfs⟩ :=
      trainFail_training (s.attempted c) (by simp [hle]) (by simp [hle])
    have cond : ((s.attempted c).trainFailCore.faultRec .trainFail).condition = true :=
      faultConditionCore_condition _ _ _ _
    rw [hx, hle]
    exact ⟨rfl, rfl, rfl, rfl, honly.tt (by decide), only.seq honly, fun _ => by rw [State.faultRec, hfs]; exact cond⟩
  · rw [hle]
    exact ⟨rfl, rfl, rfl, rfl, rfl, only.within, fun h => absurd h ‹_›⟩

/-! ## The advances of the attempt (R4 to R6, R12) -/

section
variable {s}

theorem quietTimerExpiry_advances (hd : s.dormant = false) (hl : s.le.link = .quiet) (ht : s.le.phaseTimer ≠ none) :
    exec .quietTimerExpiry s = .next (State.settle (State.raise
      { s with le := { s.le with
          link := .handshake, phaseTimer := some 2000, backoff := none, exchange := none } } .link)) := by
  refine congrArg _ ((live_awake s _ hd).trans (congrArg _ ?_))
  rw [if_pos (by simp [hl, Option.isSome_iff_ne_none, ht]),
    setLink_training s .handshake rfl (.inl (by simp [hl])) (by simp [hl])]
  rfl

theorem startReply_advances (hd : s.dormant = false) (hl : s.le.link = .handshake) :
    exec .startReply s = .next (State.settle (State.raise
      { s with le := { s.le with
          link := .probe, phaseTimer := none, backoff := none, exchange := none, probeCount := 0, probeUnhit := 0
          probeDown := List.replicate 224 0, probeUp := List.replicate 26 0, probeUpReadings := 0 } } .link)) := by
  refine congrArg _ ((live_awake s _ hd).trans (congrArg _ ?_))
  rw [if_pos (by simp [hl]), setLink_training s .probe rfl (.inl (by simp [hl])) (by simp [hl])]
  rfl

theorem quietTimerExpiry_idle (hd : s.dormant = false) (hl : s.le.link ≠ .quiet) :
    exec .quietTimerExpiry s = .next s.settle := by
  refine congrArg _ ((live_awake s _ hd).trans (congrArg _ ?_))
  rw [if_neg (by simp [hl])]

theorem startReply_idle (hd : s.dormant = false) (hl : s.le.link ≠ .handshake) :
    exec .startReply s = .next s.settle := by
  refine congrArg _ ((live_awake s _ hd).trans (congrArg _ ?_))
  rw [if_neg hl]

theorem backOffExpiry_idle (hd : s.dormant = false) (hl : s.le.link ≠ .retrainWait) :
    exec .backOffExpiry s = .next s.settle := by
  refine congrArg _ ((live_awake s _ hd).trans (congrArg _ ?_))
  rw [if_neg (by simp [hl])]

theorem backOffExpiry_advances (hd : s.dormant = false) (hl : s.le.link = .retrainWait) (hb : s.le.backoff ≠ none) :
    exec .backOffExpiry s = .next s.enterQuiet.linkLossRetraining.settle := by
  refine congrArg _ ((live_awake s _ hd).trans (congrArg _ ?_))
  rw [if_pos (by simp [hl, Option.isSome_iff_ne_none, hb])]

/-- The commands that fail an attempt, each with its cause and its occasion (R5, R7). -/
theorem attempt_fails {c : Instr} {cause : AttemptCause} (hd : s.dormant = false)
    (h : (c = .refusal ∧ cause = .refused ∧ (s.le.link = .handshake ∨ s.le.link = .exchange))
      ∨ (c = .handshakeTimeout ∧ cause = .timeout ∧ s.le.link = .handshake ∧ s.le.phaseTimer ≠ none)
      ∨ (c = .exchangeTimeout ∧ cause = .timeout ∧ s.le.link = .exchange ∧ s.le.phaseTimer ≠ none)) :
    exec c s = .next (s.attemptFail cause).settle ∧ cause ≠ .capacity ∧ s.le.link.driverOn = true := by
  rcases h with ⟨rfl, rfl, hl⟩ | ⟨rfl, rfl, hl, ht⟩ | ⟨rfl, rfl, hl, ht⟩
  · refine ⟨congrArg _ ((live_awake s _ hd).trans (congrArg _ ?_)), by decide, by rcases hl with e | e <;> rw [e] <;> rfl⟩
    rw [if_pos (by simpa using hl)]
  · refine ⟨congrArg _ ((live_awake s _ hd).trans (congrArg _ ?_)), by decide, by rw [hl]; rfl⟩
    rw [if_pos (by simp [hl, Option.isSome_iff_ne_none, ht])]
  · refine ⟨congrArg _ ((live_awake s _ hd).trans (congrArg _ ?_)), by decide, by rw [hl]; rfl⟩
    rw [if_pos (by simp [hl, Option.isSome_iff_ne_none, ht])]

/-- A retrain begins at the end of the back-off; the LINK_LOSS record that waits is ACTIVE again (R12, R157). -/
theorem retrain_begins (s : State) (hl : s.le.link = .retrainWait) :
    s.enterQuiet.linkLossRetraining.le =
      { s.le with link := .quiet, phaseTimer := some 200, backoff := none, exchange := none }
    ∧ (s.fs.recs.linkLoss.state = .retryWait → s.enterQuiet.linkLossRetraining.fs.recs.linkLoss.state = .active)
    ∧ (s.fs.recs.linkLoss.state ≠ .retryWait → s.enterQuiet.linkLossRetraining.fs = s.fs)
    ∧ Only [.le, .fs, .plk] s s.enterQuiet.linkLossRetraining := by
  have quiet : Only [.le, .plk] s s.enterQuiet := by
    rw [State.enterQuiet, setLink_training s .quiet rfl (.inl (by simp [hl])) (by simp [hl])]
    exact .seq (l := [.le, .plk]) (.seq (only_modLe s _) (only_raise _ _)) (only_modLe _ _)
  have hfs : s.enterQuiet.fs = s.fs := quiet.fs (by decide)
  have retraining := only_linkLossRetraining s.enterQuiet
  refine ⟨by rw [retraining.le (by decide), enterQuiet_le], fun h => ?_, fun h => ?_, quiet.seq retraining⟩
  · have hr : (s.enterQuiet.faultRec .linkLoss).state = .retryWait := by rw [State.faultRec, hfs]; exact h
    rw [linkLossRetraining_eq _ hr]
    exact congrArg FaultRec.state (faultRec_faultMove s.enterQuiet .linkLoss _ _ _ _ _)
  · have hr : (s.enterQuiet.faultRec .linkLoss).state ≠ .retryWait := by rw [State.faultRec, hfs]; exact h
    rw [linkLossRetraining_idle _ hr, hfs]

end

/-- Settles O34: the advances command by command, the failures by `attemptFail_result`. -/
theorem trainingAdvances : Obligations.TrainingAdvances := by
  refine ⟨fun s hd => ⟨quietTimerExpiry_advances hd, startReply_advances hd, fun hl hb => ?_,
    quietTimerExpiry_idle hd, startReply_idle hd, backOffExpiry_idle hd⟩, fun c cause s hd hc => ?_⟩
  · obtain ⟨hle, hwait, hstay, only⟩ := retrain_begins s hl
    exact ⟨_, backOffExpiry_advances hd hl hb, hle, hwait, hstay, only.tt (by decide), only.ft (by decide),
      only.ss (by decide), only.ports (by decide), only.cc (by decide), only.mu (by decide), only.sup (by decide),
      only.tu (by decide), only.sts, only.settings⟩
  · obtain ⟨hexec, hcause, hdriver⟩ := attempt_fails hd hc
    obtain ⟨hlast, hn, hred, hstep, htt, only, hcond⟩ := attemptFail_result s cause
    have calm := calm_attemptFail cause (.refl allSides s) hdriver
    refine ⟨s.attemptFail cause, hexec, hlast, hn, by rw [hred, if_neg hcause], hstep, fun hx => ?_, only.settings,
      only.sts, calm.accounts, only.sup (by decide), only.ports (by decide), calm.requests, fun h7 => ?_, hcond⟩
    · rw [htt, attempted_tt, if_pos hx]
    · have hle := attempted_le s cause
      have only := only_attempted s cause
      rw [attemptFail_eq, if_neg h7, hle]
      exact ⟨rfl, congrArg some (backoffMs_eq _ _), rfl, only.ft (by decide), only.ss (by decide), only.cc (by decide), only.tu (by decide),
        only.mu (by decide)⟩

end Sys2Proof.Machine
end

section
/-!
PROOFS. PROBE_END and UPSTREAM_TABLE (R7, R25, R26), and the eighth failure in a row (R11, R12, R157).
-/

namespace Sys2Proof.Machine

-- One proof at a time: the text is compiled as one, and each proof that waits for the others holds a thread.
set_option Elab.async false

section
variable {s : State}

/-! ## PROBE_END (R6, R7, R26) -/

/-- The mean of the readings of the unhit symbols, half up (R26). -/
theorem probeMean_eq (n x : Nat) : probeMean n x = if n = 0 then 0 else min 240 ((2 * x + n) / (2 * n)) := rfl

theorem probeEnd_ends (hd : s.dormant = false) (hl : s.le.link = .probe) (hn : 4000 ≤ s.le.probeCount) :
    exec .probeEnd s = .next (s.enterExchange (s.le.probeDown.map (probeMean s.le.probeUnhit))
      (s.le.probeUp.map (probeMean s.le.probeUpReadings))).settle := by
  refine congrArg _ ((live_awake s _ hd).trans (congrArg _ ?_))
  rw [if_pos (by simp [hl, Config.probeSymbols, hn])]

/-- What EXCHANGE sends (R7). -/
def State.offer (s : State) (dn un : List Nat) : Exchange :=
  { snrDown := dn, snrUp := un, profile := s.effProfile, margin := s.margin, cap := Profile.cap s.effProfile
    down := s.loadDown dn s.tt.maskInForce s.effProfile
    need := if s.effProfile = .lifeline then some s.need else none
    sched := s.exchangeSchedule, up := none, confirmed := false }

theorem enterExchange_begins (dn un : List Nat) (hl : s.le.link = .probe)
    (hb : 30 ≤ (s.loadDown dn s.tt.maskInForce s.effProfile).sum) :
    s.enterExchange dn un =
      ((s.modLe fun x => { x with link := .exchange, phaseTimer := some 1000, backoff := none
                                  exchange := some (s.offer dn un) }).raise .link).modTt fun t =>
        { t with needSent := if s.effProfile = .lifeline then some s.need else none, needProgress := none } := by
  have floor : ¬ (s.loadDown dn s.tt.maskInForce s.effProfile).sum < Config.floorBits := Nat.not_lt.mpr hb
  unfold State.enterExchange
  dsimp only
  rw [if_neg floor, setLink_training s .exchange rfl (.inl (by simp [hl])) (by simp [hl])]
  rfl

theorem enterExchange_fails (dn un : List Nat) (hb : (s.loadDown dn s.tt.maskInForce s.effProfile).sum < 30) :
    s.enterExchange dn un = (s.setLink .exchange).attemptFail .capacity := by
  unfold State.enterExchange
  exact if_pos hb

/-- R48: the schedule of EXCHANGE. -/
theorem exchangeSchedule_locked {p : Nat} {n : Sym} (ht : s.ft.tracking = .locked) (hp : s.ft.period = some p)
    (hn : s.ft.next = some n) : ∃ c, s.exchangeSchedule = some c ∧ c.period = p
      ∧ c.width = s.settings.gate.windowWidth ∧ c.anchor = 8 ∧ c.origin = firstWindowFrom (n - 1) p s.le.sym
      ∧ c.offset = (dist c.origin s.le.sym).toNat := by
  unfold State.exchangeSchedule
  rw [ht, hp, hn]
  exact ⟨_, rfl, rfl, rfl, rfl, rfl, rfl⟩

theorem exchangeSchedule_searching (ht : s.ft.tracking = .searching) : s.exchangeSchedule = none := by
  unfold State.exchangeSchedule
  rw [ht]

/-! ## UPSTREAM_TABLE (R7, R25) -/

theorem overCap_iff (cap budget : Nat) (bits : List Nat) : overCap cap budget bits = true ↔
    (∃ b ∈ bits, cap < b) ∨ budget < (bits.filter fun b => b ≠ 0).length := by
  simp [overCap, loadedTones]

theorem notOverCap {cap budget : Nat} {bits tones : List Nat} (hbits : bits = tones) (hcap : ∀ b ∈ bits, b ≤ cap)
    (hbudget : (bits.filter fun b => b ≠ 0).length ≤ budget) : ¬ overCap cap budget tones = true := by
  subst hbits
  rw [overCap_iff]
  rintro (⟨b, hb, hc⟩ | hc)
  · exact absurd (hcap b hb) (Nat.not_le.mpr hc)
  · exact absurd hbudget (Nat.not_le.mpr hc)

/-- The answer judged: over the cap or the budget, below the floor, or taken. -/
theorem upstreamTable_judged {x : Exchange} (tones : List (Nat × Nat)) (hd : s.dormant = false)
    (hl : s.le.link = .exchange) (hx : s.le.exchange = some x) (hu : x.up = none) :
    exec (.upstreamTable tones) s = .next (State.settle
      (if overCap x.cap (Profile.upBudget x.profile) (tones.map (·.1)) then s.attemptFail .cap
       else if (tones.map (·.1)).sum < 30 then s.attemptFail .capacity
       else s.modLe fun e => { e with exchange := some { x with
         up := some (tones.map fun t => (t.1, min 240 t.2)), confirmed := true } })) := by
  refine congrArg _ ((live_awake s _ hd).trans (congrArg _ ?_))
  rw [hx]
  dsimp only
  rw [if_pos (by simp [hl, hu])]
  rfl

/-! ## The eighth failure in a row (R11, R12, R157) -/

/-- The report of a TRAIN_FAIL record CLEAR or RECOVERED whose condition was absent, by its policy. -/
theorem trainFail_raised (hc : (s.faultRec .trainFail).condition = false)
    (hs : (s.faultRec .trainFail).state = .clear ∨ (s.faultRec .trainFail).state = .recovered) :
    ((s.faultSetting .trainFail).policy = .latched →
      s.trainFail true = s.trainFailCore.lineHoldAdd .latched
      ∧ (s.trainFailCore.faultRec .trainFail).state = .latched)
    ∧ ((s.faultSetting .trainFail).policy = .report → s.trainFail true = s.trainFailCore
      ∧ (s.trainFailCore.faultRec .trainFail).state = .active
      ∧ (s.trainFailCore.faultRec .trainFail).run = some .report)
    ∧ ((s.faultSetting .trainFail).policy = .silent → s.trainFail true = s.trainFailCore
      ∧ s.trainFailCore.faultRec .trainFail = { s.faultRec .trainFail with condition := true }) := by
  have core := faultConditionCore_raise s .trainFail (some (s.le.attempts : Int)) hc hs
  let t := s.modFault .trainFail fun r => { r with condition := true }
  have setting : (s.faultSetting .trainFail).policy = (t.faultSetting .trainFail).policy := rfl
  refine ⟨fun hp => ?_, fun hp => ?_, fun hp => ?_⟩ <;> rw [setting] at hp <;>
    simp [State.trainFail, State.trainFailCore, core, State.faultRaise, hp, t]

theorem trainFailCore_others (j : FaultId) (h : j ≠ .trainFail) : s.trainFailCore.faultRec j = s.faultRec j :=
  (reported_faultConditionCore s .trainFail _ true).others j h

/-- The LINK_LOSS record after a failed attempt: one that was ACTIVE waits again, any other stays (R157). -/
theorem attempted_linkLoss (c : AttemptCause) :
    ((s.faultRec .linkLoss).state = .active → ((s.attempted c).faultRec .linkLoss).state = .retryWait)
    ∧ ((s.faultRec .linkLoss).state ≠ .active → (s.attempted c).faultRec .linkLoss = s.faultRec .linkLoss)
    ∧ (s.attempted c).faultRec .trainFail = s.faultRec .trainFail := by
  have before : (((s.modLe fun x =>
      { x with lastFailure := c, attempts := min 255 (x.attempts + 1)
               reduction := if c = .capacity then min 15 (x.reduction + 3) else x.reduction }).enterRetrainWait)).fs
      = s.fs := (only_enterRetrainWait _).fs (by decide)
  unfold State.attempted
  generalize (s.modLe _).enterRetrainWait = t at before
  have recs (i : FaultId) : t.faultRec i = s.faultRec i := by rw [State.faultRec, before]; rfl
  have raised (u : State) (i : FaultId) : (u.raise .link).faultRec i = u.faultRec i := rfl
  refine ⟨fun h => ?_, fun h => ?_, ?_⟩ <;> rw [raised]
  · rw [linkLossFailed_eq t (by rw [recs]; exact h), faultRec_faultMove]
  · rw [linkLossFailed_idle t (by rw [recs]; exact h), recs]
  · rw [(reported_linkLossFailed t).others _ (by decide), recs]

/-- LATCHED joining an empty hold set of a line in RETRAIN_WAIT: the line is held in IDLE, the back-off stopped. -/
theorem lineHoldAdd_latched_retrainWait (hl : s.le.link = .retrainWait) (he : s.le.hold.isEmpty = true) :
    (s.lineHoldAdd .latched).le =
      { s.le with hold := { s.le.hold with latched := true }, link := .idle, phaseTimer := none, backoff := none
                  exchange := none } := by
  have members : s.le.hold.latched = false ∧ s.le.hold.test = false := by
    simp only [LineHold.isEmpty, Bool.not_eq_true', Bool.or_eq_false_iff] at he
    obtain ⟨⟨⟨⟨⟨-, hla⟩, -⟩, -⟩, hte⟩, -⟩ := he
    exact ⟨hla, hte⟩
  let t := (s.modLe fun x => { x with hold := x.hold.put .latched true }).raise .link
  have joined : s.lineJoined .latched = t := by
    simp [State.lineJoined, t, LineHold.put, members.2]
  have state : t.le.hold.state = .idle := by simp [t, LineHold.state, LineHold.onlyTest, LineHold.put, members.2]
  rw [lineHoldAdd_eq s .latched members.1, joined]
  have hin : t.inService = false := by simp [State.inService, t, hl]
  have law : t.lineLaw = t.setLink .idle := by
    have : t.le.hold.isEmpty = false := by simp [t, LineHold.isEmpty, LineHold.put]
    have hne : t.le.link ≠ .idle := by simp [t, hl]
    simp [State.lineLaw, this, state, hin, hne]
  rw [law, State.setLink_le]
  rfl

end

/-- Settles O35: the offer of `enterExchange_begins`, the answer of `upstreamTable_judged`, the failures by
`attemptFail_result`, and the eighth in a row by `trainFail_raised`. -/
theorem probeAndExchange : Obligations.ProbeAndExchange := by
  refine ⟨fun dn un bits s hd hl hn hdn hun hbits => ⟨fun hb => ?_, fun hb => ?_⟩,
    fun tones bits x s hbits hd hl hx hu => ⟨fun hover => ?_, fun hcap hbudget => ⟨fun hb => ?_, fun hb => ?_⟩⟩,
    fun c s hd h7 hc hcond hstate => ?_⟩
  · subst hdn hun hbits
    have begins := enterExchange_begins (s.le.probeDown.map (probeMean s.le.probeUnhit))
      (s.le.probeUp.map (probeMean s.le.probeUpReadings)) hl hb
    have run := probeEnd_ends hd hl hn
    rw [begins] at run
    refine ⟨s.exchangeSchedule, _, run, ?_, exchangeSchedule_searching,
      fun p n => exchangeSchedule_locked, rfl, rfl, rfl, rfl, rfl, rfl, rfl, rfl, rfl, rfl, rfl⟩
    have cap : Profile.cap s.effProfile = match s.effProfile with
        | .full => 10
        | .trim => 6
        | .lifeline => 4 := by cases s.effProfile <;> rfl
    simp only [State.modTt_le, State.raise_le, State.modLe_le, State.offer, cap]
    rfl
  · subst hdn hun hbits
    let t := s.setLink .exchange
    have hle : t.le = _ := State.setLink_le s .exchange
    have htt : t.tt = s.tt := by rw [setLink_tt, if_neg (by simp [hl])]
    have only : Only [.le, .tt, .ft, .plk] s t := only_setLink s .exchange
    obtain ⟨hlast, hat, hred, -, htab, onlyFail, -⟩ := attemptFail_result t .capacity
    have calm := (calm_setLink_train .exchange (.refl allSides s) (by rw [hl]; rfl) rfl).step
      (calm_attemptFail .capacity (.refl allSides t) (by rw [hle]; rfl))
    have run := probeEnd_ends hd hl hn
    rw [enterExchange_fails (s.le.probeDown.map (probeMean s.le.probeUnhit)) _ hb] at run
    refine ⟨t.attemptFail .capacity, run, hlast, ?_, ?_, ?_, calm.settings, calm.sts, calm.accounts, (onlyFail.sup (by decide)).trans (only.sup (by decide)),
      (onlyFail.ports (by decide)).trans (only.ports (by decide))⟩
    · rw [hred, if_pos rfl, hle]
    · rw [hat, hle]
    · rw [htab, attempted_tt, if_pos (by rw [hle]), htt, only.settings]
  · obtain ⟨hlast, hat, hred, -, -, only, -⟩ := attemptFail_result s .cap
    refine ⟨s.attemptFail .cap, ?_, hlast, hat, hred, only.settings⟩
    rw [upstreamTable_judged tones hd hl hx hu, if_pos ((overCap_iff _ _ _).mpr (hbits ▸ hover))]
  · obtain ⟨hlast, hat, hred, -, -, only, -⟩ := attemptFail_result s .capacity
    refine ⟨s.attemptFail .capacity, ?_, hlast, hat, hred, only.settings⟩
    rw [upstreamTable_judged tones hd hl hx hu, if_neg (notOverCap hbits hcap hbudget), if_pos (hbits ▸ hb)]
  · rw [upstreamTable_judged tones hd hl hx hu, if_neg (notOverCap hbits hcap hbudget),
      if_neg (Nat.not_lt.mpr (hbits ▸ hb))]
    rfl
  · obtain ⟨cause, hexec, -, -⟩ : ∃ cause, exec c s = .next (s.attemptFail cause).settle ∧ cause ≠ .capacity
        ∧ s.le.link.driverOn = true := by
      rcases hc with ⟨rfl, h⟩ | ⟨rfl, h⟩ | ⟨rfl, h⟩
      · exact ⟨.refused, attempt_fails hd (.inl ⟨rfl, rfl, h⟩)⟩
      · exact ⟨.timeout, attempt_fails hd (.inr (.inl ⟨rfl, rfl, h⟩))⟩
      · exact ⟨.timeout, attempt_fails hd (.inr (.inr ⟨rfl, rfl, h⟩))⟩
    obtain ⟨-, hat, -, -, -, -, hfail⟩ := attemptFail_result s cause
    obtain ⟨hactive, hother, htrain⟩ := attempted_linkLoss (s := s) cause
    have hle := attempted_le s cause
    have eighth : s.attemptFail cause = (s.attempted cause).trainFail true := by rw [attemptFail_eq, if_pos h7]
    have setting : (s.attempted cause).faultSetting .trainFail = s.settings.faults.records.trainFail := by
      rw [State.faultSetting, (only_attempted s cause).settings]; rfl
    obtain ⟨hlatched, hreport, hsilent⟩ := trainFail_raised (s := s.attempted cause)
      (by rw [htrain]; exact hcond) (by rw [htrain]; exact hstate)
    rw [setting] at hlatched hreport hsilent
    -- The report leaves the LINK_LOSS record as the failed attempt left it.
    have linkLoss : (s.attemptFail cause).faultRec .linkLoss = (s.attempted cause).faultRec .linkLoss := by
      obtain ⟨-, -, hfs⟩ := trainFail_training (s.attempted cause) (by simp [hle]) (by simp [hle])
      rw [eighth, State.faultRec, hfs]
      exact trainFailCore_others _ (by decide)
    refine ⟨s.attemptFail cause, hexec, by rw [hat, h7]; rfl, hfail h7, fun h => ?_, fun h => ?_, fun hp he => ?_,
      fun hp => ?_, fun hp => ?_, fun hp => ?_⟩
    · exact (congrArg FaultRec.state linkLoss).trans (hactive h)
    · exact linkLoss.trans (hother h)
    · obtain ⟨hadd, hstate⟩ := hlatched hp
      have core : (s.attempted cause).trainFailCore.le = (s.attempted cause).le :=
        (only_trainFailCore _).le (by decide)
      have hlead := lineHoldAdd_latched_retrainWait (s := (s.attempted cause).trainFailCore) (by rw [core, hle])
        (by rw [core, hle]; exact he)
      obtain ⟨-, -, hfs⟩ := trainFail_training (s.attempted cause) (by simp [hle]) (by simp [hle])
      rw [eighth]
      refine ⟨by rw [hfs]; exact hstate, ?_, ?_, ?_⟩ <;> rw [hadd, hlead, core, hle]
    · rw [eighth, (hreport hp).1]
      exact (hreport hp).2
    · rw [eighth, (hsilent hp).1]
      exact (hsilent hp).2.trans (by rw [htrain]; rfl)
    · have quiet : s.attemptFail cause = (s.attempted cause).trainFailCore := by
        rw [eighth]
        rcases hp with hp | hp
        · exact (hreport hp).1
        · exact (hsilent hp).1
      rw [quiet, (only_trainFailCore _).le (by decide), hle]
      exact ⟨rfl, rfl, congrArg some (backoffMs_eq _ _)⟩

end Sys2Proof.Machine
end

section
/-!
PROOFS. The losses of the link in service (R13 to R16, R18, R74), with the LINK_LOSS record (R157).
-/

namespace Sys2Proof.Machine

-- One proof at a time: the text is compiled as one, and each proof that waits for the others holds a thread.
set_option Elab.async false

variable (s : State)

/-! ## What leaving service and a change of state leave of the test and the tracker -/

theorem undelivered_current (tag : Nat) : (s.undelivered tag).tu.current = s.tu.current := by
  unfold State.undelivered
  split
  · rfl
  · dsimp only
    split <;> rfl

theorem flush_current : s.flush.tu.current = s.tu.current := by
  have result (rs : List TxReq) (t : State) :
      (rs.foldl (fun s r => s.undelivered r.tag) t).tu.current = t.tu.current := by
    induction rs generalizing t with
    | nil => rfl
    | cons r rs ih => exact (ih _).trans (undelivered_current t r.tag)
  unfold State.flush
  dsimp only
  rw [result]
  split <;> split <;> rfl

/-- As service ends a test in ARMING runs (R145). -/
theorem leaveService_current (l : LinkState) (c : RelCause) :
    (s.leaveService l c).tu.current = s.armedRaw.tu.current := by
  rw [(leaveService_after_flush s l c).1.tu (by decide), flush_current, State.leaveTables,
    (only_ftUpd _ _).tu (by decide), (only_setMaskInForce _ _).tu (by decide), State.modTt_tu, State.leaveHead,
    State.modLe_tu, (only_setLink _ _).tu (by decide)]

theorem armedRaw_arming (t : CurrentTest) (ht : s.tu.current = some t) (hp : t.phase = .arming) :
    s.armedRaw.tu.current = some (t.run s.uptime) ∧ s.armedRaw.le = { s.le with hold := s.le.hold.put .test true } := by
  simp [State.armedRaw, ht, hp]

/-- A change of link state stops the tracker at most (R45). -/
theorem setLink_ft_cases (l : LinkState) : (s.setLink l).ft = s.ft ∨ (s.setLink l).ft = s.ft.driverOff := by
  have masked (t : State) (c : Prop) [Decidable c] (m : List Bool) : (if c then t.setMaskInForce m else t).ft = t.ft := by
    split <;> rfl
  unfold State.setLink
  dsimp only
  rw [State.raiseIf_ft, masked]
  split
  · rw [ftUpd_ft]; exact .inr rfl
  · exact .inl rfl

theorem setLink_gate (l : LinkState) :
    (s.setLink l).ft.agreement = s.ft.agreement ∧ (s.setLink l).ft.request = s.ft.request := by
  rcases setLink_ft_cases s l with e | e <;> rw [e] <;> exact ⟨rfl, rfl⟩

/-! ## The record of an event (R156, R157) -/

/-- An event reported to a record CLEAR or RECOVERED whose policy does not ignore it. -/
theorem faultEventCore_raised (i : FaultId) (v : Int) (p : Policy) (hp : p = (s.faultSetting i).policy)
    (hn : p ≠ .silent) (hs : (s.faultRec i).state = .clear ∨ (s.faultRec i).state = .recovered) :
    (s.faultEventCore i (some v)).1.faultRec i = { s.faultRec i with
      state := if p = .latched then .latched else if p = .report then .recovered else .retryWait
      run := if p = .report then none else some p
      retry := if p = .latched ∨ p = .report then none else FaultId.retryTimer i p
      count := min 255 ((s.faultRec i).count + 1), firstSeen := (s.faultRec i).firstSeen <|> some s.uptime
      lastSeen := some s.uptime, value := some v }
    ∧ (s.faultEventCore i (some v)).1.fs.history = historyWith s.fs.history
      ⟨s.fs.nextSeq, s.uptime, i, if p = .latched then .latched else .raised, some v⟩ := by
  obtain ⟨act, event⟩ : ∃ act, s.faultEventCore i (some v) = ((s.faultOccur i (some v)).faultMove i
      (if p = .latched then .latched else if p = .report then .recovered else .retryWait)
      (if p = .report then none else some p) (if p = .latched ∨ p = .report then none else FaultId.retryTimer i p)
      (if p = .latched then .latched else .raised) (some v), act) := by
    unfold State.faultEventCore
    rcases hs with hs | hs <;> simp only [hs] <;> cases p <;> simp_all [← hp]
  rw [event, faultRec_faultMove, faultRec_faultOccur, faultMove_history]
  exact ⟨rfl, rfl⟩

/-! ## A loss of the link (R15) -/

/-- The line as service ends: the loss recorded, and LATCHED in the hold set where the record is LATCHED (R157). -/
def State.lossRecorded (s : State) (c : LossCause) : State :=
  let s := ((s.modLe fun x => { x with lastLoss := c }).raise .link)
  let s := (s.faultEventCore .linkLoss (some (c.ctorIdx : Int))).1
  if (s.faultRec .linkLoss).state = .latched then
    (s.modLe fun x => { x with hold := x.hold.put .latched true }).raiseIf (!s.le.hold.latched) .link
  else s

/-- Whether the LINK_LOSS policy waits before a retrain (R15). -/
def Policy.waits (p : Policy) : Bool := p == .retryFast || p == .retrySlow

/-- The state that follows the end of service (R15). -/
def State.afterLoss (s : State) (waits : Bool) : State :=
  if !s.le.hold.isEmpty then s.setLink s.le.hold.state else if waits then s.enterRetrainWait else s.enterQuiet

/-- The state for which a loss leaves service. -/
def lossTarget (hold : LineHold) (waits : Bool) : LinkState :=
  if !hold.isEmpty then .idle else if waits then .retrainWait else .quiet

theorem loss_eq (c : LossCause) (h : s.le.link = .inService) : s.loss c =
    ((s.lossRecorded c).leaveService
      (lossTarget (s.lossRecorded c).le.hold (Policy.waits (s.faultSetting .linkLoss).policy)) .linkLost).afterLoss
      (Policy.waits (s.faultSetting .linkLoss).policy) := by
  have hin : s.inService = true := by simp [State.inService, h]
  unfold State.loss State.afterLoss lossTarget State.lossRecorded Policy.waits
  rw [if_neg (by simp [hin])]

theorem only_lossRecorded (c : LossCause) : Only [.le, .fs, .plk] s (s.lossRecorded c) :=
  .ite (fun _ => .seq (l := [.le, .fs, .plk])
      (.seq (l := [.le, .plk]) (.seq (only_modLe s _) (only_raise _ _)) (only_faultEventCore _ _ _))
      (.seq (n := [.le, .fs, .plk]) (only_modLe _ _) (only_raiseIf _ _ _)))
    fun _ => .seq (l := [.le, .plk]) (.seq (only_modLe s _) (only_raise _ _)) (only_faultEventCore _ _ _)

/-- The event as reported, before the hold set is looked at. -/
def State.lossReported (s : State) (c : LossCause) : State :=
  (((s.modLe fun x => { x with lastLoss := c }).raise .link).faultEventCore .linkLoss (some (c.ctorIdx : Int))).1

theorem lossRecorded_eq (c : LossCause) :
    (s.lossRecorded c).fs = (s.lossReported c).fs
    ∧ (((s.lossReported c).faultRec .linkLoss).state = .latched →
      (s.lossRecorded c).le = { s.le with lastLoss := c, hold := s.le.hold.put .latched true })
    ∧ (((s.lossReported c).faultRec .linkLoss).state ≠ .latched →
      (s.lossRecorded c).le = { s.le with lastLoss := c }) := by
  have hle : (s.lossReported c).le = { s.le with lastLoss := c } :=
    (only_faultEventCore _ .linkLoss (some (c.ctorIdx : Int))).le (by decide)
  by_cases h : ((s.lossReported c).faultRec .linkLoss).state = .latched
  · have e : s.lossRecorded c =
        ((s.lossReported c).modLe fun x => { x with hold := x.hold.put .latched true }).raiseIf
          (!(s.lossReported c).le.hold.latched) .link := if_pos h
    rw [e]
    exact ⟨by simp, fun _ => by simp [hle], fun hn => absurd h hn⟩
  · have e : s.lossRecorded c = s.lossReported c := if_neg h
    rw [e]
    exact ⟨rfl, fun hl => absurd hl h, fun _ => hle⟩

/-- The moves of the line engine after a loss. -/
theorem afterLoss_le (w : Bool) :
    (∃ link timer backoff step exchange, (s.afterLoss w).le = { s.le with
      link := link, phaseTimer := timer, backoff := backoff, backoffStep := step, exchange := exchange })
    ∧ (s.le.hold.isEmpty = false → (s.afterLoss w).le.link = s.le.hold.state)
    ∧ (s.le.hold.isEmpty = true → w = true → (s.afterLoss w).le.link = .retrainWait
      ∧ (s.afterLoss w).le.backoff = some (backoffMs (s.faultSetting .linkLoss).policy s.le.backoffStep))
    ∧ (s.le.hold.isEmpty = true → w = false → (s.afterLoss w).le.link = .quiet
      ∧ (s.afterLoss w).le.phaseTimer = some 200) := by
  unfold State.afterLoss
  cases he : s.le.hold.isEmpty
  · simp only [Bool.not_false, if_true]
    rw [State.setLink_le]
    exact ⟨⟨_, _, _, _, _, rfl⟩, fun _ => rfl, by simp, by simp⟩
  · cases w
    · simp only [Bool.not_true, Bool.false_eq_true, if_false]
      rw [enterQuiet_le]
      exact ⟨⟨_, _, _, _, _, rfl⟩, by simp, by simp, fun _ _ => ⟨rfl, rfl⟩⟩
    · simp only [Bool.not_true, Bool.false_eq_true, if_false, if_true]
      rw [enterRetrainWait_le]
      exact ⟨⟨_, _, _, _, _, rfl⟩, by simp, fun _ _ => ⟨rfl, rfl⟩, by simp⟩

theorem only_afterLoss (w : Bool) : Only [.le, .tt, .ft, .plk] s (s.afterLoss w) :=
  .ite (fun _ => only_setLink s _) fun _ => .ite (fun _ => only_enterRetrainWait s) fun _ => only_enterQuiet s

/-- Out of EXCHANGE the change of state after a loss leaves the tables, and of the tracker what a gate agreement is. -/
theorem afterLoss_tables (w : Bool) (h : s.le.link ≠ .exchange) : (s.afterLoss w).tt = s.tt
    ∧ (s.afterLoss w).ft.agreement = s.ft.agreement ∧ (s.afterLoss w).ft.request = s.ft.request := by
  have set (l : LinkState) : (s.setLink l).tt = s.tt := by rw [setLink_tt, if_neg (by simp [h])]
  unfold State.afterLoss
  split
  · exact ⟨set _, setLink_gate s _⟩
  split
  · exact ⟨set _, setLink_gate s _⟩
  · exact ⟨set _, setLink_gate s _⟩

/-! ## What a loss leaves -/

/-- The link once it has left service, before the state that follows. -/
def State.lossLeft (s : State) (c : LossCause) : State :=
  (s.lossRecorded c).leaveService
    (lossTarget (s.lossRecorded c).le.hold (Policy.waits (s.faultSetting .linkLoss).policy)) .linkLost

section
variable {s} (c : LossCause)

theorem lossLeft_le : ∃ hold, (s.lossLeft c).le =
    LE.leave { s.le with lastLoss := c, hold := hold }
      (lossTarget (s.lossRecorded c).le.hold (Policy.waits (s.faultSetting .linkLoss).policy)) := by
  have recorded : ∃ hold, (s.lossRecorded c).le = { s.le with lastLoss := c, hold := hold } := by
    obtain ⟨-, hl, hn⟩ := lossRecorded_eq s c
    by_cases h : ((s.lossReported c).faultRec .linkLoss).state = .latched
    · exact ⟨_, hl h⟩
    · exact ⟨_, hn h⟩
  obtain ⟨hold, e⟩ := recorded
  unfold State.lossLeft
  rw [leaveService_le]
  rcases armedRaw_le_cases (s.lossRecorded c) with h | ⟨-, h⟩ <;> rw [h, e] <;> exact ⟨_, rfl⟩

theorem lossTarget_ne (hold : LineHold) (w : Bool) :
    lossTarget hold w ≠ .exchange ∧ lossTarget hold w ≠ .inService := by
  unfold lossTarget
  split
  · decide
  · split <;> decide

theorem LineHold.state_ne (h : LineHold) : h.state ≠ .inService := by
  unfold LineHold.state
  split <;> decide

/-- The line engine after a loss (R13 to R16, R18). -/
theorem loss_line (h : s.le.link = .inService) :
    (s.loss c).le.lastLoss = c ∧ (s.loss c).le.link ≠ .inService ∧ (s.loss c).le.syncFails = 0
    ∧ (s.loss c).le.lowPower = 0 ∧ (s.loss c).le.farEnd = none ∧ (s.loss c).le.pending = none
    ∧ ((s.loss c).le.hold.isEmpty = true → Policy.waits s.settings.faults.records.linkLoss.policy = true →
      (s.loss c).le.link = .retrainWait ∧ (s.loss c).le.backoff = some
        (backoffMs s.settings.faults.records.linkLoss.policy s.le.backoffStep))
    ∧ ((s.loss c).le.hold.isEmpty = true → Policy.waits s.settings.faults.records.linkLoss.policy = false →
      (s.loss c).le.link = .quiet ∧ (s.loss c).le.phaseTimer = some 200)
    ∧ ((s.loss c).le.hold.isEmpty = false → (s.loss c).le.link = (s.loss c).le.hold.state) := by
  have e : s.loss c = (s.lossLeft c).afterLoss (Policy.waits (s.faultSetting .linkLoss).policy) := loss_eq s c h
  obtain ⟨hold, hv⟩ := lossLeft_le (s := s) c
  obtain ⟨⟨link, timer, backoff, step, exchange, hle⟩, hheld, hwait, hquiet⟩ :=
    afterLoss_le (s.lossLeft c) (Policy.waits (s.faultSetting .linkLoss).policy)
  have hhold : (s.loss c).le.hold = (s.lossLeft c).le.hold := by rw [e, hle]
  have hset : (s.lossLeft c).faultSetting .linkLoss = s.faultSetting .linkLoss := by
    unfold State.lossLeft State.faultSetting
    rw [(only_leaveService _ _ _).settings, (only_lossRecorded s c).settings]
  have hstep : (s.lossLeft c).le.backoffStep = s.le.backoffStep := by rw [hv]; rfl
  rw [hset, hstep] at hwait
  refine ⟨?_, fun hi => ?_, ?_, ?_, ?_, ?_, fun he hw => ?_, fun he hw => ?_, fun hn => ?_⟩
  · rw [e, hle, hv]; rfl
  · rw [e] at hi
    cases hn : (s.lossLeft c).le.hold.isEmpty
    · rw [hheld hn] at hi; exact LineHold.state_ne _ hi
    · cases hw : Policy.waits (s.faultSetting .linkLoss).policy
      · rw [(hquiet hn hw).1] at hi; cases hi
      · rw [(hwait hn hw).1] at hi; cases hi
  · rw [e, hle, hv]; rfl
  · rw [e, hle, hv]; rfl
  · rw [e, hle, hv]; rfl
  · rw [e, hle, hv]; rfl
  · rw [hhold] at he; rw [e]; exact hwait he hw
  · rw [hhold] at he; rw [e]; exact hquiet he hw
  · rw [hhold] at hn ⊢; rw [e]; exact hheld hn

/-- What goes with the service (R16, R45, R74, R107). -/
theorem loss_flushes (h : s.le.link = .inService) :
    (s.loss c).tt.inFlight = .none ∧ (s.loss c).tt.waitingRate = none ∧ (s.loss c).tt.upWaiting = none
    ∧ (s.loss c).tt.maskInForce = s.settings.line.requestedMask
    ∧ (s.loss c).ft.agreement = none ∧ (s.loss c).ft.request = .none
    ∧ (s.loss c).ss.txs = [] ∧ (s.loss c).ss.outQueue = [] ∧ (s.loss c).ss.repeats = Reset.repeats
    ∧ (s.loss c).ss.dataPartial = none ∧ (s.loss c).ss.mgmtPartial = none
    ∧ ∀ p, ((s.loss c).call p).lineCall = false := by
  have e : s.loss c = (s.lossLeft c).afterLoss (Policy.waits (s.faultSetting .linkLoss).policy) := loss_eq s c h
  obtain ⟨hold, hv⟩ := lossLeft_le (s := s) c
  obtain ⟨htt, hagree, hrequest⟩ := afterLoss_tables (s.lossLeft c) (Policy.waits (s.faultSetting .linkLoss).policy)
    (by rw [hv]; exact (lossTarget_ne _ _).1)
  have after := only_afterLoss (s.lossLeft c) (Policy.waits (s.faultSetting .linkLoss).policy)
  obtain ⟨t1, t2, t3, t4⟩ := leaveService_tt (s.lossRecorded c)
    (lossTarget (s.lossRecorded c).le.hold (Policy.waits (s.faultSetting .linkLoss).policy)) .linkLost
  obtain ⟨f1, f2⟩ := leaveService_ft (s.lossRecorded c)
    (lossTarget (s.lossRecorded c).le.hold (Policy.waits (s.faultSetting .linkLoss).policy)) .linkLost
  obtain ⟨x1, -, x2, x3, x4, x5, -⟩ := leaveService_ss (s.lossRecorded c)
    (lossTarget (s.lossRecorded c).le.hold (Policy.waits (s.faultSetting .linkLoss).policy)) .linkLost
  rw [(only_lossRecorded s c).settings] at t4
  have calls (p : Port) : ((s.loss c).call p).lineCall = false := by
    rw [e, State.call, after.cc (by decide), State.lossLeft]
    exact leaveService_lineCall _ _ _ p
  rw [e] at calls ⊢
  rw [htt, hagree, hrequest, after.ss (by decide), State.lossLeft]
  exact ⟨t1, t2, t3, t4, f1, f2, x1, x2, x3, x4, x5, calls⟩

theorem lossLeft_fs : (s.lossLeft c).fs.recs = (s.lossReported c).fs.recs
    ∧ (s.lossLeft c).fs.history = (s.lossReported c).fs.history := by
  obtain ⟨hrecs, hhist, -⟩ := leaveService_fs (s.lossRecorded c)
    (lossTarget (s.lossRecorded c).le.hold (Policy.waits (s.faultSetting .linkLoss).policy)) .linkLost
  have reported := (lossRecorded_eq s c).1
  unfold State.lossLeft
  exact ⟨hrecs.trans (congrArg FS.recs reported), hhist.trans (congrArg FS.history reported)⟩

/-- The LINK_LOSS record and the history are as the event left them. -/
theorem loss_fs (h : s.le.link = .inService) :
    (s.loss c).faultRec .linkLoss = (s.lossReported c).faultRec .linkLoss
    ∧ (s.loss c).fs.history = (s.lossReported c).fs.history := by
  have e : s.loss c = (s.lossLeft c).afterLoss (Policy.waits (s.faultSetting .linkLoss).policy) := loss_eq s c h
  have after := (only_afterLoss (s.lossLeft c) (Policy.waits (s.faultSetting .linkLoss).policy)).fs (by decide)
  obtain ⟨hrecs, hhist⟩ := lossLeft_fs (s := s) c
  rw [e, State.faultRec, after, hrecs, hhist]
  exact ⟨rfl, rfl⟩

/-- LATCHED is in the hold set where the record is LATCHED, and otherwise as it was. -/
theorem loss_latched (h : s.le.link = .inService) :
    (((s.lossReported c).faultRec .linkLoss).state = .latched → (s.loss c).le.hold.latched = true)
    ∧ (((s.lossReported c).faultRec .linkLoss).state ≠ .latched → (s.loss c).le.hold.latched = s.le.hold.latched) := by
  have e : s.loss c = (s.lossLeft c).afterLoss (Policy.waits (s.faultSetting .linkLoss).policy) := loss_eq s c h
  obtain ⟨⟨link, timer, backoff, step, exchange, hle⟩, -⟩ :=
    afterLoss_le (s.lossLeft c) (Policy.waits (s.faultSetting .linkLoss).policy)
  have latched : (s.loss c).le.hold.latched = (s.lossRecorded c).le.hold.latched := by
    rw [e, hle]
    simp only [State.lossLeft, leaveService_le]
    rcases armedRaw_le_cases (s.lossRecorded c) with h | ⟨-, h⟩ <;> rw [h] <;> rfl
  obtain ⟨-, hl, hn⟩ := lossRecorded_eq s c
  exact ⟨fun hr => by rw [latched, hl hr]; rfl, fun hr => by rw [latched, hn hr]⟩

/-- A test in ARMING runs once the link has left service (R145). -/
theorem loss_test (h : s.le.link = .inService) (t : CurrentTest) (ht : s.tu.current = some t) (hp : t.phase = .arming) :
    (s.loss c).tu.current = some (t.run s.uptime) ∧ (s.loss c).le.hold.test = true := by
  have e : s.loss c = (s.lossLeft c).afterLoss (Policy.waits (s.faultSetting .linkLoss).policy) := loss_eq s c h
  have only := only_lossRecorded s c
  obtain ⟨hcur, hle⟩ := armedRaw_arming (s.lossRecorded c) t (by rw [only.tu (by decide)]; exact ht) hp
  obtain ⟨⟨link, timer, backoff, step, exchange, hx⟩, -⟩ :=
    afterLoss_le (s.lossLeft c) (Policy.waits (s.faultSetting .linkLoss).policy)
  refine ⟨?_, ?_⟩
  · rw [e, (only_afterLoss _ _).tu (by decide), State.lossLeft, leaveService_current, hcur, only.uptime]
  · rw [e, hx]
    simp only [State.lossLeft, leaveService_le, hle]
    rfl

end

/-- Settles O39: a loss is `State.lossRecorded`, then leaving service, then `State.afterLoss`. -/
theorem lossesLeaveService : Obligations.LossesLeaveService := by
  intro c cause s hd hl hc
  have hexec : exec c s = .next (s.loss cause).settle := by
    have hin : s.inService = true := by simp [State.inService, hl]
    rcases hc with ⟨rfl, rfl, h⟩ | ⟨rfl, rfl, h⟩ | ⟨rfl, rfl, h⟩ | ⟨rfl, rfl, p, t, hp, h⟩ <;>
      refine congrArg _ ((live_awake s _ hd).trans (congrArg _ ?_))
    · rw [if_pos (by simp [hin, Config.syncLimit, h])]
    · rw [if_pos (by simp [hin, Config.powerLimit, h])]
    · rw [if_pos (by simp [hin, Option.isSome_iff_ne_none, h])]
    · rw [hp]
      simp [hin, h]
  have calm := calm_loss cause (.refl allSides s)
  obtain ⟨l1, l2, l3, l4, l5, l6, hwait, hquiet, hheld⟩ := loss_line cause hl
  obtain ⟨t1, t2, t3, t4, f1, f2, x1, x2, x3, x4, x5, hcalls⟩ := loss_flushes cause hl
  obtain ⟨hrec, hhist⟩ := loss_fs cause hl
  obtain ⟨hlatched, hnot⟩ := loss_latched cause hl
  refine ⟨s.loss cause, hexec, l1, l2, l3, l4, l5, l6, t1, t2, t3, t4, f1, f2, x1, x2, x3, x4, x5, hcalls,
    fun he hp => hwait he (by rcases hp with hp | hp <;> rw [hp] <;> rfl), fun he hp => hquiet he (by rw [hp]; rfl), hheld,
    fun r p hr hp hn hs => ?_, loss_test cause hl, calm.settings, calm.sts, calm.uptime, calm.mode, calm.accounts,
    calm.requests, calm.upQueue⟩
  subst hr
  obtain ⟨erec, ehist⟩ := faultEventCore_raised ((s.modLe fun x => { x with lastLoss := cause }).raise .link) .linkLoss
    (cause.ctorIdx : Int) p hp hn hs
  rw [show (if p = .latched ∨ p = .report then none else FaultId.retryTimer .linkLoss p) = none from by
    simp [FaultId.retryTimer]] at erec
  have state : ((s.lossReported cause).faultRec .linkLoss).state = .latched ↔ p = .latched := by
    rw [show (s.lossReported cause).faultRec .linkLoss = _ from erec]
    cases p <;> simp
  refine ⟨?_, ⟨_, ?_, rfl⟩, fun hp => hlatched (state.mpr hp), fun hp => hnot fun hx => hp (state.mp hx)⟩
  · rw [hrec]
    exact erec
  · rw [hhist, show (s.lossReported cause).fs.history = _ from ehist]
    exact mem_of_newest (newest_historyWith _ _)

end Sys2Proof.Machine
end

section
/-!
PROOFS. RESTART with its two scopes (R19, R92, R181), and the end of a TRAIN_FAIL condition (R11, R155).
-/

namespace Sys2Proof.Machine

-- One proof at a time: the text is compiled as one, and each proof that waits for the others holds a thread.
set_option Elab.async false

/-! ## The end of a TRAIN_FAIL condition (R11, R155) -/

section
variable (s : State)

/-- A condition reported absent asks for no action: the report alone is made. -/
theorem trainFail_absent_eq :
    s.trainFail false = (s.faultConditionCore .trainFail false (some (s.le.attempts : Int))).1 := by
  have act : (s.faultConditionCore .trainFail false (some (s.le.attempts : Int))).2 ≠ .apply := by
    unfold State.faultConditionCore
    dsimp only
    split
    · simp
    rw [if_neg (by decide)]
    split
    · split <;> simp
    · simp
  unfold State.trainFail
  dsimp only
  rw [if_neg act]

theorem only_trainFail_absent : Only [.fs, .plk] s (s.trainFail false) := by
  rw [trainFail_absent_eq]; exact only_faultConditionCore s _ _ _

theorem reported_trainFail_absent : Reported .trainFail s (s.trainFail false) := by
  rw [trainFail_absent_eq]; exact reported_faultConditionCore s _ _ _

/-- A condition reported absent, by the record's state and run policy (R155). -/
theorem faultConditionCore_absent (i : FaultId) (v : Option Int) (hc : (s.faultRec i).condition = true) :
    ((s.faultRec i).state ≠ .active → (s.faultConditionCore i false v).1.faultRec i =
      { s.faultRec i with condition := false })
    ∧ ((s.faultRec i).state = .active → (s.faultRec i).run = some .retryFast ∨ (s.faultRec i).run = some .retrySlow →
      (s.faultConditionCore i false v).1.faultRec i = { s.faultRec i with
        condition := false, state := .retryWait
        retry := some (if (s.faultRec i).run = some .retryFast then 500 else 5000) })
    ∧ ((s.faultRec i).state = .active → (s.faultRec i).run ≠ some .retryFast → (s.faultRec i).run ≠ some .retrySlow →
      (s.faultConditionCore i false v).1 = (s.modFault i fun r => { r with condition := false }).faultMove i .recovered
        none none .recovered v) := by
  refine ⟨fun hs => ?_, fun hs hr => ?_, fun hs hf hsl => ?_⟩
  · unfold State.faultConditionCore
    dsimp only
    rw [if_neg (by simp [hc]), if_neg (by decide)]
    split
    · exact absurd ‹_› hs
    · simp
  · unfold State.faultConditionCore
    dsimp only
    rw [if_neg (by simp [hc]), if_neg (by decide), hs]
    dsimp only
    rcases hr with hr | hr <;> rw [hr] <;> simp [Policy.retryMs, hr]
  · unfold State.faultConditionCore
    dsimp only
    rw [if_neg (by simp [hc]), if_neg (by decide), hs]
    dsimp only
    split
    · exact absurd ‹_› hf
    · exact absurd ‹_› hsl
    · rfl

/-- The condition's end is read in any later state that keeps the record and the history's newest entry. -/
theorem trainFailEnded_of {s t u : State} (ht : t.faultRec .trainFail = s.faultRec .trainFail) (hup : t.uptime = s.uptime)
    (hu : u.faultRec .trainFail = (t.trainFail false).faultRec .trainFail)
    (hh : ∀ e ∈ newestEntries 1 (t.trainFail false).fs.history, e ∈ u.fs.history) : s.trainFailEnded u := by
  rintro r rfl
  rw [← ht, hu]
  have absent := faultConditionCore_absent t .trainFail (some (t.le.attempts : Int))
  rw [← trainFail_absent_eq] at absent
  refine ⟨fun hc => ?_, fun hc hs => (absent hc).1 hs, fun hc hs hr => (absent hc).2.1 hs hr, fun hc hs hf hsl => ?_⟩
  · rw [trainFail_absent_eq, State.faultConditionCore]
    dsimp only
    rw [if_pos hc]
  · have moved := (absent hc).2.2 hs hf hsl
    refine ⟨by rw [moved, faultRec_faultMove, faultRec_modFault],
      ⟨t.fs.nextSeq, t.uptime, .trainFail, .recovered, some (t.le.attempts : Int)⟩, hh _ ?_, rfl, hup, rfl⟩
    rw [moved, faultMove_history]
    exact newest_historyWith _ _

end

/-! ## The scope of the request (R181) -/

section
variable {s : State}

/-- The request whose scope is the command's own. -/
theorem restartRequest_own {x : Scope} {b : Byte} (run : State → State) (h : s.asks [0x03, 1, b])
    (hb : b.toNat = x.ctorIdx) :
    s.restartRequest x run = (run s).reply (.ok (wIdx x.ctorIdx)) := by
  obtain ⟨e, hf, hx, hbody⟩ := front_of_asks h
  have read : readAll (rReq (rEnum [Scope.line, Scope.ports])) [1, b] = some (.known x) := by
    cases x <;> simp [readAll, rReq, rArg, rEnum, rByte, enumOf, hb, Scope.ctorIdx]
  unfold State.restartRequest
  rw [hf]
  dsimp only
  rw [if_neg (by simp [hx]), hbody]
  dsimp only
  rw [if_neg (by decide), read]
  exact if_pos rfl

/-- A scope that is none. -/
theorem restartRequest_outside {x : Scope} {b : Byte} (run : State → State) (h : s.asks [0x03, 1, b])
    (hb : 2 ≤ b.toNat) : s.restartRequest x run = s.replied 0x03 .badArgument [] := by
  obtain ⟨e, hf, hx, hbody⟩ := front_of_asks h
  have read : readAll (rReq (rEnum [Scope.line, Scope.ports])) [1, b] = some (.outside b.toNat) := by
    have none : ([Scope.line, Scope.ports] : List Scope)[b.toNat]? = none := List.getElem?_eq_none hb
    simp [readAll, rReq, rArg, rEnum, rByte, enumOf, none]
  unfold State.restartRequest
  rw [hf]
  dsimp only
  rw [if_neg (by simp [hx]), hbody]
  dsimp only
  rw [if_neg (by decide), read]
  exact reply_eq h.2 _

end

/-! ## Scope LINE (R19, R45, R74) -/

section
variable (s : State)

/-- Out of service first, and no line test (log 88). -/
def State.lineCleared (s : State) : State :=
  let s := if s.inService then s.leaveService .quiet .restart else s
  if s.testing fun c => c.kind != .portLoop then s.abortRaw .restart else s

/-- Then the records of the attempt and of the line, and the tracker's search. -/
def State.lineReset (s : State) : State :=
  (s.lineCleared.modLe fun x =>
    { x with attempts := 0, reduction := 0, backoffStep := 0, lastFailure := .none, lastLoss := .none }).ftUpd FT.search

/-- Then the link's state: QUIET, or the one the hold set requires. -/
def State.lineSettled (s : State) : State :=
  let t := s.lineReset.trainFail false
  if t.le.hold.isEmpty then t.enterQuiet else t.setLink t.le.hold.state

theorem restartLine_eq : s.restartLine = s.lineSettled.modTt fun _ =>
    { Reset.tables with maskInForce := s.lineSettled.settings.line.requestedMask } := by
  unfold State.restartLine State.lineSettled State.lineReset State.lineCleared
  rfl

theorem lineCleared_fs : s.lineCleared.fs.recs = s.fs.recs ∧ s.lineCleared.uptime = s.uptime := by
  have abort (t : State) (c : Bool) : (if c then t.abortRaw .restart else t).fs = t.fs
      ∧ (if c then t.abortRaw .restart else t).uptime = t.uptime := by
    cases c
    · exact ⟨rfl, rfl⟩
    · exact ⟨(only_abortRaw t _).fs (by decide), (only_abortRaw t _).uptime⟩
  unfold State.lineCleared
  dsimp only
  rw [(abort _ _).1, (abort _ _).2]
  split
  · exact ⟨(leaveService_fs s _ _).1, (only_leaveService s _ _).uptime⟩
  · exact ⟨rfl, rfl⟩

/-- Out of service a request waits its turn: neither the list nor the outbound queue takes it (R70, R74). -/
theorem requestTx_outOfService (k : TxKind) (p : Option Port) (b : List Byte) (tag : Nat) (h : s.inService = false) :
    s.requestTx k p b tag = s.modSs fun x => { x with waiting := x.waiting ++ [⟨k, p, b, tag⟩] } := by
  simp [State.requestTx, h]

/-- Ending a test out of service touches neither the transaction list nor the outbound queue. -/
theorem abortRaw_lists (a : AbortCause) (h : s.inService = false) :
    (s.abortRaw a).ss.txs = s.ss.txs ∧ (s.abortRaw a).ss.outQueue = s.ss.outQueue := by
  unfold State.abortRaw
  split
  · exact ⟨rfl, rfl⟩
  · rename_i c _
    rw [(only_endTest _ _).ss (by decide)]
    unfold State.recordTest State.writeResult
    dsimp only
    split
    · rw [requestTx_outOfService]
      · exact ⟨rfl, rfl⟩
      · exact h
    · exact ⟨rfl, rfl⟩

theorem lineCleared_lists (h : s.le.link = .inService) : s.lineCleared.ss.txs = [] ∧ s.lineCleared.ss.outQueue = [] := by
  have hin : s.inService = true := by simp [State.inService, h]
  obtain ⟨htxs, -, hout, -⟩ := leaveService_ss s .quiet .restart
  have out : (s.leaveService .quiet .restart).inService = false := by
    rw [State.inService, leaveService_le]
    rfl
  unfold State.lineCleared
  rw [if_pos hin]
  dsimp only
  split
  · obtain ⟨e1, e2⟩ := abortRaw_lists _ .restart out
    exact ⟨e1.trans htxs, e2.trans hout⟩
  · exact ⟨htxs, hout⟩

/-- The link's state after RESTART LINE (R2, R19). -/
theorem lineSettled_le : s.lineSettled.le.attempts = 0 ∧ s.lineSettled.le.reduction = 0 ∧ s.lineSettled.le.backoffStep = 0
    ∧ s.lineSettled.le.lastFailure = .none ∧ s.lineSettled.le.lastLoss = .none ∧ s.lineSettled.le.backoff = none
    ∧ s.lineSettled.le.exchange = none
    ∧ (s.lineSettled.le.hold.isEmpty = true → s.lineSettled.le.link = .quiet ∧ s.lineSettled.le.phaseTimer = some 200)
    ∧ (s.lineSettled.le.hold.isEmpty = false → s.lineSettled.le.link = s.lineSettled.le.hold.state) := by
  have hle : (s.lineReset.trainFail false).le = { s.lineCleared.le with
      attempts := 0, reduction := 0, backoffStep := 0, lastFailure := .none, lastLoss := .none } := by
    rw [(only_trainFail_absent _).le (by decide), State.lineReset, (only_ftUpd _ _).le (by decide)]
    rfl
  unfold State.lineSettled
  dsimp only
  split
  · rename_i he
    rw [enterQuiet_le, hle]
    rw [hle] at he
    exact ⟨rfl, rfl, rfl, rfl, rfl, rfl, rfl, fun _ => ⟨rfl, rfl⟩, fun hn => absurd hn (by simp [he])⟩
  · rename_i he
    rw [State.setLink_le, hle]
    rw [hle] at he
    exact ⟨rfl, rfl, rfl, rfl, rfl, rfl, rfl, fun hn => absurd hn he, fun _ => rfl⟩

theorem only_lineSettled : Only [.le, .tt, .ft, .fs, .plk] s.lineReset s.lineSettled :=
  (only_trainFail_absent s.lineReset).seq
    (.ite (fun _ => only_enterQuiet _) fun _ => only_setLink _ _ : Only [.le, .tt, .ft, .plk] _ s.lineSettled)

theorem lineSettled_ft : s.lineSettled.ft.tracking = .searching ∧ s.lineSettled.ft.period = none
    ∧ s.lineSettled.ft.next = none := by
  have searched : (s.lineReset.trainFail false).ft = s.lineCleared.ft.search := by
    rw [(only_trainFail_absent _).ft (by decide), State.lineReset, ftUpd_ft]
    rfl
  have set (t : State) (ht : t.ft = s.lineCleared.ft.search) (l : LinkState) :
      (t.setLink l).ft.tracking = .searching ∧ (t.setLink l).ft.period = none ∧ (t.setLink l).ft.next = none := by
    rcases setLink_ft_cases t l with e | e <;> rw [e, ht] <;> exact ⟨rfl, rfl, rfl⟩
  unfold State.lineSettled
  dsimp only
  split
  · exact set _ searched .quiet
  · exact set _ searched _

theorem total_emptyTone (n : Nat) : total (List.replicate n Reset.emptyTone) = 0 := by
  rw [total, List.map_replicate, List.sum_replicate]
  exact Nat.mul_zero n

/-- The tables as they start: no bits in either direction, the cap at 10 (R19). -/
theorem restartLine_tt : s.restartLine.tt.cap = 10 ∧ total s.restartLine.tt.down = 0
    ∧ total s.restartLine.tt.up = 0 ∧ s.restartLine.tt.maskInForce = s.settings.line.requestedMask := by
  have calm := calm_restartLine (.refl allSides s)
  rw [restartLine_eq] at calm ⊢
  exact ⟨rfl, total_emptyTone 224, total_emptyTone 26, congrArg (fun x => x.line.requestedMask) calm.settings⟩

/-- Settles the first scope: the parts of `restartLine_eq`, with the record of TRAIN_FAIL by `trainFailEnded_of`. -/
theorem restartLine_clears (h : s.asks [0x03, 1, 0]) :
    exec .restartLine s = .next (s.restartLine.replied 0x03 .ok [0]).settle
    ∧ s.restartLine.ft = s.lineSettled.ft ∧ s.restartLine.le = s.lineSettled.le
    ∧ s.trainFailEnded s.restartLine ∧ s.restartLine.faultRec .linkLoss = s.faultRec .linkLoss
    ∧ (s.le.link = .inService → s.restartLine.ss.txs = [] ∧ s.restartLine.ss.outQueue = []) := by
  have calm := calm_restartLine (.refl allSides s)
  have reset : Only [.le, .ft, .plk] s.lineCleared s.lineReset := .seq (only_modLe _ _) (only_ftUpd _ _)
  have hfs : s.lineSettled.fs = (s.lineReset.trainFail false).fs := by
    unfold State.lineSettled
    dsimp only
    split
    · exact (only_enterQuiet _).fs (by decide)
    · exact (only_setLink _ _).fs (by decide)
  have hrec (i : FaultId) : s.lineReset.faultRec i = s.faultRec i := by
    rw [State.faultRec, reset.fs (by decide), (lineCleared_fs s).1]
    rfl
  refine ⟨?_, rfl, rfl, trainFailEnded_of (hrec _) (reset.uptime.trans (lineCleared_fs s).2) ?_ ?_, ?_, fun hl => ?_⟩
  · refine congrArg _ ((live_awake s _ h.1).trans (congrArg _ ?_))
    rw [restartRequest_own _ h rfl, reply_eq ((asked_congr calm.requests).trans h.2)]
    rfl
  · rw [State.faultRec, restartLine_eq, State.modTt_fs, hfs]
    rfl
  · rw [restartLine_eq, State.modTt_fs, hfs]
    exact fun e he => mem_of_newest he
  · rw [State.faultRec, restartLine_eq, State.modTt_fs, hfs]
    exact ((reported_trainFail_absent _).others .linkLoss (by decide)).trans (hrec _)
  · rw [restartLine_eq, State.modTt_ss, (only_lineSettled s).ss (by decide), reset.ss (by decide)]
    exact lineCleared_lists s hl

end

/-! ## Scope PORTS (R92, R107) -/

/-- A port as RESTART PORTS leaves it (R92). -/
structure PP.Rested (x : PP) : Prop where
  digits : x.digits = []
  overflow : x.overflow = false
  ringRequest : x.ringRequest = none
  cadence : x.cadence = none
  pulses : x.pulses = 0
  hook : x.hook = .onHook
  feed : x.hold.isEmpty = true → x.feed = .standby

theorem PP.restart_rested (x : PP) : PP.Rested x.restart := by
  unfold PP.restart
  dsimp only
  split
  · exact ⟨rfl, rfl, rfl, rfl, rfl, rfl, fun _ => rfl⟩
  · rename_i hn
    exact ⟨rfl, rfl, rfl, rfl, rfl, rfl, fun he => absurd he hn⟩

/-- Both ports rest. -/
def State.Resting (s : State) : Prop := ∀ p, PP.Rested (s.port p)

section
variable {s t : State}

/-- Operations that change no port keep both at rest. -/
theorem State.Resting.of_ports (h : s.Resting) (e : t.ports = s.ports) : t.Resting := by
  intro p
  rw [State.port, e]
  exact h p

/-- An update of one port that keeps it at rest. -/
theorem State.Resting.modPort (h : s.Resting) (p : Port) (f : PP → PP) (hf : ∀ x, PP.Rested x → PP.Rested (f x)) :
    (s.modPort p f).Resting := by
  intro q
  have ha := h .a
  have hb := h .b
  cases p <;> cases q
  · exact hf _ ha
  · exact hb
  · exact ha
  · exact hf _ hb

theorem resting_ringOff (p : Port) (h : s.Resting) : (s.ringOff p).Resting :=
  h.modPort p _ fun x hx => by
    dsimp only
    split
    · exact ⟨hx.digits, hx.overflow, rfl, rfl, hx.pulses, hx.hook, fun _ => rfl⟩
    · exact ⟨hx.digits, hx.overflow, rfl, rfl, hx.pulses, hx.hook, hx.feed⟩

theorem resting_setAudio (p : Port) (a : Audio) (u : Tone) (h : s.Resting) : (s.setAudio p a u).Resting :=
  h.modPort p _ fun _ hx => ⟨hx.digits, hx.overflow, hx.ringRequest, hx.cadence, hx.pulses, hx.hook, hx.feed⟩

theorem resting_updCall (p : Port) (f : CallRec → CallRec) (h : s.Resting) : (s.updCall p f).Resting := by
  have raised : ((s.modCallRaw p f).raiseIf (decide ((s.call p).shown ≠ (f (s.call p)).shown)) (.call p)).Resting :=
    h.of_ports (by simp [State.modCallRaw])
  unfold State.updCall
  dsimp only
  split
  · exact raised
  · exact resting_setAudio p _ _ raised

theorem resting_freeCall (p : Port) (c : RelCause) (h : s.Resting) : (s.freeCall p c).Resting := resting_updCall p _ h

theorem resting_releaseCall (p : Port) (c : RelCause) (h : s.Resting) : (s.releaseCall p c).Resting := by
  unfold State.releaseCall
  exact (resting_updCall p _ (resting_ringOff p h)).of_ports ((only_callTx _ p .release _ _ rfl).ports (by decide))

theorem resting_endSeizing (p : Port) (c : RelCause) (h : s.Resting) : (s.endSeizing p c).Resting := by
  unfold State.endSeizing
  split
  · exact resting_updCall p _ h
  · exact resting_freeCall p c (h.of_ports rfl)

theorem resting_nakAlert (p : Port) (c : NakCause) (h : s.Resting) : (s.nakAlert p c).Resting := by
  unfold State.nakAlert
  split
  · exact h.of_ports ((only_answer s _ _ _ _).ports (by decide))
  · exact h

theorem resting_leaveIntercom (p : Port) (c : RelCause) (h : s.Resting) : (s.leaveIntercom p c).Resting := by
  unfold State.leaveIntercom
  split
  · exact resting_freeCall p c (resting_ringOff p h)
  · exact resting_updCall p _ h
  · exact resting_updCall p _ h
  · exact h

theorem resting_endIntercom (p : Port) (c : RelCause) (h : s.Resting) : (s.endIntercom p c).Resting := by
  unfold State.endIntercom
  split
  iterate 3 exact resting_freeCall p c (resting_ringOff p h)
  · exact h

theorem resting_portGone (p : Port) (c : RelCause) (h : s.Resting) : (s.portGone p c).Resting := by
  unfold State.portGone
  split
  · exact h
  · exact h
  · exact resting_releaseCall p c h
  · exact resting_releaseCall p c h
  · exact resting_endSeizing p c h
  · split
    · exact resting_freeCall p c (resting_nakAlert p .busy h)
    · exact resting_releaseCall p c h
  iterate 3 exact resting_leaveIntercom p.other .normal (resting_freeCall p c (resting_ringOff p h))
  iterate 4 exact resting_freeCall p c h

/-- Each port restarts; the other keeps what it was. -/
theorem restartPort_ports (s : State) (p : Port) :
    (s.restartPort p).port p = (s.port p).restart ∧ (s.restartPort p).port p.other = s.port p.other := by
  unfold State.restartPort
  simp [State.port, State.modPort]

theorem restartPorts_resting (s : State) : s.restartPorts.Resting := by
  unfold State.restartPorts
  generalize s.abortIf (fun c => c.kind == .portLoop) .restart = t
  have resting : ((t.restartPort .a).restartPort .b).Resting := by
    obtain ⟨ha, -⟩ := restartPort_ports t .a
    obtain ⟨hb, ho⟩ := restartPort_ports (t.restartPort .a) .b
    rintro (_ | _)
    · have kept : ((t.restartPort .a).restartPort .b).port .a = (t.restartPort .a).port .a := ho
      rw [kept, ha]
      exact PP.restart_rested _
    · rw [hb]
      exact PP.restart_rested _
  exact resting_portGone .b _ (resting_portGone .a _ (resting_endIntercom .b _ (resting_endIntercom .a _ resting)))

end

/-- Settles O29: `restartLine_clears` and `lineSettled_le` for scope LINE, `restartPorts_resting` for scope PORTS,
`restartRequest_outside` for any other. -/
theorem restartsClear : Obligations.RestartsClear := by
  refine ⟨fun s h => ?_, fun s h => ?_, fun b s hb h => ⟨?_, ?_⟩⟩
  · have calm := calm_restartLine (.refl allSides s)
    obtain ⟨hexec, hft, hle, hended, hloss, hlists⟩ := restartLine_clears s h
    obtain ⟨l1, l2, l3, l4, l5, l6, l7, hquiet, hheld⟩ := lineSettled_le s
    obtain ⟨f1, f2, f3⟩ := lineSettled_ft s
    obtain ⟨hcap, hdown, hup, hmask⟩ := restartLine_tt s
    refine ⟨s.restartLine, hexec, ?_⟩
    rw [hle, hft]
    exact ⟨l1, l2, l3, l4, l5, l6, l7, hcap, hdown, hup, hmask, f1, f2, f3, hquiet, hheld, hlists, hended, hloss,
      calm.settings, calm.sts, calm.uptime, calm.mode, calm.custody, calm.requests, calm.upQueue⟩
  · have calm := calm_restartPorts (.refl allSides s)
    refine ⟨s.restartPorts, ?_, fun p => ?_, calm.settings, calm.sts, calm.uptime, calm.mode, calm.custody, calm.requests,
      calm.accounts, calm.upQueue⟩
    · refine congrArg _ ((live_awake s _ h.1).trans (congrArg _ ?_))
      rw [restartRequest_own _ h rfl, reply_eq ((asked_congr calm.requests).trans h.2)]
      rfl
    · obtain ⟨h1, h2, h3, h4, h5, h6, h7⟩ := restartPorts_resting s p
      exact ⟨h1, h2, h3, h4, h5, h6, h7⟩
  · exact congrArg _ ((live_awake s _ h.1).trans (congrArg _ (restartRequest_outside _ h hb)))
  · exact congrArg _ ((live_awake s _ h.1).trans (congrArg _ (restartRequest_outside _ h hb)))

end Sys2Proof.Machine
end

section
/-!
PROOFS. SYMBOL_RECEIVED (R1, R6, R13, R24, R25, R41 to R43, R50, R52): what each stage of a symbol moves.
-/

namespace Sys2Proof.Machine

-- One proof at a time: the text is compiled as one, and each proof that waits for the others holds a thread.
set_option Elab.async false

/-! ## Requesting a quiet transaction -/

section
variable (s : State) (p : Option Port) (body : List Byte) (tag : Nat)

theorem enqueue_eq (x : SS) (who : Sender) (msg : List Byte) :
    x.enqueue who msg = { x with outQueue := (x.enqueue who msg).outQueue, mgmtSeq := (x.enqueue who msg).mgmtSeq } := rfl

/-- What a request may move in the scheduler. -/
theorem requestTx_ss {k : TxKind} (h : k.quiet = true) : (s.requestTx k p body tag).ss = { s.ss with
    outQueue := (s.requestTx k p body tag).ss.outQueue, mgmtSeq := (s.requestTx k p body tag).ss.mgmtSeq
    txs := (s.requestTx k p body tag).ss.txs, nextNumber := (s.requestTx k p body tag).ss.nextNumber
    waiting := (s.requestTx k p body tag).ss.waiting } := by
  unfold State.requestTx
  dsimp only
  split
  · rw [State.grant, granted_quiet _ _ _ h]
    rfl
  · rfl

/-- A request with a free entry and none waiting is granted at once (R70). -/
theorem requestTx_now (k : TxKind) (hin : s.le.link = .inService) (hw : s.ss.waiting = []) (hn : s.ss.txs.length < 8) :
    s.requestTx k p body tag = s.grant ⟨k, p, body, tag⟩ := by
  unfold State.requestTx
  exact if_pos (by simp [State.inService, hin, hw, Config.maxTransactions, hn])

theorem grant_txs (r : TxReq) : (s.grant r).ss.txs.map (·.req) = s.ss.txs.map (·.req) ++ [r] := by
  rw [State.grant, (only_granted _ r _).ss (by cases r.kind <;> decide)]
  simp [State.modSs, SS.enqueue]

/-- A request granted at once joins the list (R70). -/
theorem requestTx_granted (k : TxKind) (hin : s.le.link = .inService) (hw : s.ss.waiting = [])
    (hn : s.ss.txs.length < 8) :
    (s.requestTx k p body tag).ss.txs.map (·.req) = s.ss.txs.map (·.req) ++ [⟨k, p, body, tag⟩] := by
  rw [requestTx_now s p body tag k hin hw hn, grant_txs]

end

/-! ## The tracker's stages -/

section
variable (x : FT) (c : Sym)

/-- A window opens as the one predicted, or not at all. -/
theorem openWindow_cases (width : Nat) : x.openWindow c width = x
    ∨ ∃ n, x.tracking = .locked ∧ x.window = none ∧ x.next = some n
      ∧ x.openWindow c width = { x with window := some { start := n - 1, width := width, caught := false } } := by
  unfold FT.openWindow
  split
  · rename_i n ht hw hn
    split
    · exact .inr ⟨n, ht, hw, hn, rfl⟩
    · exact .inl rfl
  · exact .inl rfl

theorem openWindow_eq (width : Nat) : x.openWindow c width = { x with window := (x.openWindow c width).window } := by
  rcases openWindow_cases x c width with e | ⟨_, _, _, _, e⟩ <;> rw [e]

theorem openWindow_open (width : Nat) {w : Window} (h : x.window = some w) : x.openWindow c width = x := by
  unfold FT.openWindow
  simp [h]

theorem openWindow_early (width : Nat) {n : Sym} (hn : x.next = some n) (h : dist c (n - 1) < 0) :
    x.openWindow c width = x := by
  unfold FT.openWindow
  split
  · rename_i m _ _ hm
    cases hn.symm.trans hm
    exact if_neg (by omega)
  · rfl

theorem floorStep_eq (e : Int) (hit gated : Bool) : x.floorStep e hit gated =
    { x with floor := (x.floorStep e hit gated).floor, learn := (x.floorStep e hit gated).learn } := by
  unfold FT.floorStep
  split <;> rfl

theorem burstStep_eq (hit : Bool) : (x.burstStep c hit).1 = { x with burst := (x.burstStep c hit).1.burst } := by
  unfold FT.burstStep
  split
  · split <;> rfl
  · split
    · split <;> rfl
    · split <;> rfl

/-- When a burst opens (R41, step 4). -/
theorem burstStep_opens (hit : Bool) : (x.burstStep c hit).2
    = (hit && (x.burst.map fun b => decide (4 < dist c b.latest)).getD true) := by
  unfold FT.burstStep
  split
  · rename_i hb
    cases hit <;> simp [hb]
  · rename_i b hb
    cases hit
    · simp [hb]
      split <;> rfl
    · simp only [hb, if_true, Option.map_some, Option.getD_some, Bool.true_and]
      split
      · simp; omega
      · simp; omega

/-- The open burst after the symbol. -/
theorem burstStep_burst (hit : Bool) : (x.burstStep c hit).1.burst =
    if (x.burstStep c hit).2 then some ⟨c, c⟩ else if hit then x.burst.map fun b => { b with latest := c }
    else x.burst.filter fun b => decide (dist c b.latest < 4) := by
  unfold FT.burstStep
  split
  · rename_i hb
    cases hit <;> simp [hb]
  · rename_i b hb
    cases hit
    · simp only [hb, Bool.false_eq_true, if_false, Option.filter_some]
      split
      · rw [if_neg (by simp), if_neg (by simp; omega)]
      · rw [if_neg (by simp), if_pos (by simp; omega)]
        exact hb
    · simp only [hb, if_true, Option.map_some]
      split <;> simp

theorem closeWindow_eq : x.closeWindow c = { x with window := (x.closeWindow c).window } := by
  unfold FT.closeWindow
  split
  · split <;> rfl
  · rfl

/-- The symbol's last stage moves the window and the schedule in force alone. -/
theorem windowsMove_eq (width : Nat) : ((x.closeWindow c).openWindow (c + 1) width).roll (c + 1) = { x with
    window := ((x.closeWindow c).openWindow (c + 1) width).window, agreement := (x.roll (c + 1)).agreement } := by
  rw [openWindow_eq, closeWindow_eq]
  rfl

theorem roll_agreement : (x.roll c).agreement = x.agreement.map (fun a => { a with
    cur := { a.cur with
      origin := if (a.cur.period : Int) ≤ dist c a.cur.origin then a.cur.origin + BitVec.ofNat 32 a.cur.period
        else a.cur.origin } }) := by
  unfold FT.roll
  dsimp only
  congr 1
  funext a
  split <;> simp [*]

theorem track_eq : (x.track c).1 = { x with
    tracking := (x.track c).1.tracking, period := (x.track c).1.period, next := (x.track c).1.next
    misses := (x.track c).1.misses, window := (x.track c).1.window
    stats := { x.stats with caught := (x.track c).1.stats.caught, stray := (x.track c).1.stats.stray } } := by
  unfold FT.track
  split
  · split
    · rfl
    · split <;> rfl
  · split
    · split
      · split <;> rfl
      · rfl
    · rfl

/-! ## The lock test (R42) -/

theorem lockPeriod_append (l : List Sym) (t₁ t₂ t₃ t₄ t₅ : Sym) (is : List Nat)
    (h : is = [(t₂ - t₁).toNat, (t₃ - t₂).toNat, (t₄ - t₃).toNat, (t₅ - t₄).toNat]) :
    ((∀ a ∈ is, 3200 ≤ a ∧ a ≤ 8000 ∧ ∀ b ∈ is, a ≤ b + 4) →
      lockPeriod (l ++ [t₁, t₂, t₃, t₄, t₅]) = some ((is.sum + 2) / 4))
    ∧ ((∃ a ∈ is, a < 3200 ∨ 8000 < a ∨ ∃ b ∈ is, b + 4 < a) → lockPeriod (l ++ [t₁, t₂, t₃, t₄, t₅]) = none) := by
  have newest : ((l ++ [t₁, t₂, t₃, t₄, t₅]).reverse).take 5 = [t₅, t₄, t₃, t₂, t₁] := by simp
  have h₁ := (t₂ - t₁).isLt
  have h₂ := (t₃ - t₂).isLt
  have h₃ := (t₄ - t₃).isLt
  have h₄ := (t₅ - t₄).isLt
  unfold lockPeriod
  rw [newest]
  dsimp only
  rw [← h]
  generalize (t₂ - t₁).toNat = a, (t₃ - t₂).toNat = b, (t₄ - t₃).toNat = d, (t₅ - t₄).toNat = e at h h₁ h₂ h₃ h₄
  subst h
  refine ⟨fun hall => ?_, fun hsome => ?_⟩
  · simp only [List.forall_mem_cons, List.not_mem_nil, false_implies, implies_true, and_true] at hall
    refine (if_pos ?_).trans (congrArg some ?_)
    · simp only [Config.periodMin, Config.periodMax, List.foldl_cons, List.foldl_nil]
      omega
    · simp only [roundHalfUp, List.sum_cons, List.sum_nil]
      omega
  · simp only [List.exists_mem_cons_iff, List.not_mem_nil, false_and, exists_false, or_false] at hsome
    refine if_neg ?_
    simp only [Config.periodMin, Config.periodMax, List.foldl_cons, List.foldl_nil]
    omega

theorem lockPeriod_few (l : List Sym) (h : l.length < 5) : lockPeriod l = none := by
  unfold lockPeriod
  split
  · rename_i heq
    have len := congrArg List.length heq
    simp at len
    omega
  · rfl

end

/-! ## What a burst does to the tracking (R42, R43) -/

section
variable {x : FT} (c : Sym)

/-- The tracker with the burst in its arrivals, and counted unless it is gated (R42, R52). -/
def FT.joined (x : FT) (c : Sym) (gated : Bool) : FT := (if gated then x else x.ungated).arrive c

theorem joined_eq (gated : Bool) : x.joined c gated = { x with
    arrivals := (if 8 ≤ x.arrivals.length then x.arrivals.drop 1 else x.arrivals) ++ [c]
    hits := if gated then x.hits else min 65535 (x.hits + 1)
    stats := { x.stats with total := if gated then x.stats.total else inc32 x.stats.total } } := by
  cases gated <;> rfl

/-- While an agreement ends after a loss of lock, or while the newest arrivals do not lock, the search goes on. -/
theorem track_searches (ht : x.tracking = .searching) (h : x.agreement ≠ none ∨ lockPeriod x.arrivals = none) :
    x.track c = (x, false) := by
  unfold FT.track
  rw [ht]
  dsimp only
  split
  · rfl
  · rename_i hn
    have hl : lockPeriod x.arrivals = none := h.resolve_left fun ha => ha (by simpa using hn)
    rw [hl]

theorem track_locks (ht : x.tracking = .searching) (ha : x.agreement = none) {p : Nat}
    (h : lockPeriod x.arrivals = some p) : x.track c = ({ x with
      tracking := .locked, period := some p, next := some (c + BitVec.ofNat 32 p), misses := 0, window := none }, false) := by
  unfold FT.track
  rw [ht]
  dsimp only
  rw [if_neg (by simp [ha]), h]

/-- In a search no burst counts as caught or stray. -/
theorem track_searching_uncounted (ht : x.tracking = .searching) :
    (x.track c).2 = false ∧ (x.track c).1.stats = x.stats ∧ (x.track c).1.request = x.request := by
  unfold FT.track
  rw [ht]
  dsimp only
  split
  · exact ⟨rfl, rfl, rfl⟩
  · split <;> exact ⟨rfl, rfl, rfl⟩

theorem track_window (ht : x.tracking = .locked) {w : Window} {p : Nat} {n : Sym} (hw : x.window = some w)
    (hp : x.period = some p) (hn : x.next = some n) : x.track c =
      if w.covers c then (if w.caught then (x, false) else (x.catchBurst c p n w, true)) else (x.stray, false) := by
  unfold FT.track
  rw [ht, hw, hp, hn]

theorem track_unexpected (ht : x.tracking = .locked) (hw : x.window = none) : x.track c = (x.stray, false) := by
  unfold FT.track
  rw [ht, hw]

end

/-! ## The drift check (R50) -/

section
variable {s : State}

theorem driftCheck_ft (s : State) : s.driftCheck.ft = { s.ft with request := s.driftCheck.ft.request } := by
  unfold State.driftCheck
  split
  · split
    · rw [(only_requestTx_quiet _ _ _ _ _ rfl).ft (by decide)]
      rfl
    · rfl
  · rfl

theorem driftCheck_ss (s : State) : s.driftCheck.ss = { s.ss with
    outQueue := s.driftCheck.ss.outQueue, mgmtSeq := s.driftCheck.ss.mgmtSeq, txs := s.driftCheck.ss.txs
    nextNumber := s.driftCheck.ss.nextNumber, waiting := s.driftCheck.ss.waiting } := by
  unfold State.driftCheck
  split
  · split
    · exact requestTx_ss _ _ _ _ rfl
    · rfl
  · rfl

variable {a : Agreement} {p : Nat} {n : Sym} {k : Nat}
  (ha : s.ft.agreement = some a) (hp : s.ft.period = some p) (hn : s.ft.next = some n)
  (hk : k = (dist (n - 1) a.cur.origin % (a.cur.period : Int)).toNat)
include ha hp hn hk

/-- The schedule in force stands where the tracker is not locked to it in service, a change is under way, or the
caught window is within a symbol of it and as wide. -/
theorem driftCheck_keeps (h : s.le.link ≠ .inService ∨ a.active = false ∨ a.endSf ≠ none ∨ a.repl ≠ none
    ∨ s.ft.request ≠ .none ∨ s.ft.retry ≠ none
    ∨ (min k (a.cur.period - k) < 2 ∧ s.settings.gate.windowWidth = a.cur.width)) : s.driftCheck = s := by
  unfold State.driftCheck
  rw [ha, hp, hn]
  dsimp only
  refine if_neg fun hall => ?_
  simp only [State.inService, Sched.drifted, ← hk, Bool.and_eq_true, beq_iff_eq, Option.isNone_iff_eq_none,
    Bool.or_eq_true, decide_eq_true_eq, bne_iff_ne, ne_eq] at hall
  obtain ⟨⟨⟨⟨⟨⟨⟨hl, hac⟩, -⟩, he⟩, hr⟩, hq⟩, ht⟩, hd⟩ := hall
  rcases h with h | h | h | h | h | h | ⟨hm, hw⟩
  · exact h hl
  · simp [h] at hac
  · exact h he
  · exact h hr
  · exact h hq
  · exact h ht
  · exact hd.elim (fun hd => by omega) fun hd => hd hw

theorem driftCheck_replaces (hl : s.le.link = .inService) (ht : s.ft.tracking = .locked) (hac : a.active = true)
    (he : a.endSf = none) (hr : a.repl = none) (hq : s.ft.request = .none) (hre : s.ft.retry = none)
    (h : 2 ≤ min k (a.cur.period - k) ∨ s.settings.gate.windowWidth ≠ a.cur.width) :
    s.driftCheck = (s.modFt fun x => { x with request := .set (s.formSchedule p n) }).requestTx .gateSet none
      (s.formSchedule p n).body := by
  unfold State.driftCheck
  rw [ha, hp, hn]
  dsimp only
  have drifted : a.cur.drifted (n - 1) s.settings.gate.windowWidth = true := by
    simpa only [Sched.drifted, ← hk, Bool.or_eq_true, decide_eq_true_eq, bne_iff_ne] using h
  exact if_pos (by rw [drifted]; simp [State.inService, hl, ht, hac, he, hr, hq, hre])

end

/-! ## A burst that opens -/

section
variable (s : State) (c : Sym) (gated : Bool)

/-- The tracker's own part of a new burst. -/
def State.tracked (s : State) (c : Sym) (gated : Bool) : State := s.ftUpd fun x => ((x.joined c gated).track c).1

theorem tracked_ft : (s.tracked c gated).ft = ((s.ft.joined c gated).track c).1 := ftUpd_ft s _

theorem newBurst_eq : s.newBurst c gated =
    if ((s.ft.joined c gated).track c).2 then (s.tracked c gated).driftCheck else s.tracked c gated := rfl

theorem only_newBurst : Only [.ft, .plk, .ss] s (s.newBurst c gated) := by
  rw [newBurst_eq]
  exact .ite (fun _ => .seq (m := [.ft, .ss]) (only_ftUpd s _) (only_driftCheck _)) fun _ => (only_ftUpd s _).within (by decide)

theorem newBurst_ft : (s.newBurst c gated).ft =
    { ((s.ft.joined c gated).track c).1 with request := (s.newBurst c gated).ft.request } := by
  rw [← tracked_ft, newBurst_eq]
  split
  · exact driftCheck_ft _
  · rfl

theorem newBurst_ss : (s.newBurst c gated).ss = { s.ss with
    outQueue := (s.newBurst c gated).ss.outQueue, mgmtSeq := (s.newBurst c gated).ss.mgmtSeq
    txs := (s.newBurst c gated).ss.txs, nextNumber := (s.newBurst c gated).ss.nextNumber
    waiting := (s.newBurst c gated).ss.waiting } := by
  have same : (s.tracked c gated).ss = s.ss := (only_ftUpd s _).ss (by decide)
  rw [newBurst_eq, ← same]
  split
  · exact driftCheck_ss _
  · rfl

theorem raise_plk (n : Notice) :
    (s.raise n).plk = { s.plk with notices := (s.raise n).plk.notices, noticeSeq := (s.raise n).plk.noticeSeq } := by
  unfold State.raise
  simp only [State.modPlk_plk]
  split
  · split <;> rfl
  · rfl

theorem raiseIf_plk (b : Bool) (n : Notice) : (s.raiseIf b n).plk =
    { s.plk with notices := (s.raiseIf b n).plk.notices, noticeSeq := (s.raiseIf b n).plk.noticeSeq } := by
  cases b
  · rfl
  · exact raise_plk s n

theorem newBurst_plk : (s.newBurst c gated).plk = { s.plk with
    notices := (s.newBurst c gated).plk.notices, noticeSeq := (s.newBurst c gated).plk.noticeSeq } := by
  have raised : (s.tracked c gated).plk = { s.plk with
      notices := (s.tracked c gated).plk.notices, noticeSeq := (s.tracked c gated).plk.noticeSeq } :=
    raiseIf_plk (s.modFt _) _ _
  have plk : (s.newBurst c gated).plk = (s.tracked c gated).plk := by
    rw [newBurst_eq]
    split
    · exact (only_driftCheck _).plk (by decide)
    · rfl
  rw [plk]
  exact raised

/-- A burst that is not caught calls for no drift check. -/
theorem newBurst_uncaught (h : ((s.ft.joined c gated).track c).2 = false) :
    (s.newBurst c gated).ft = ((s.ft.joined c gated).track c).1 ∧ (s.newBurst c gated).ss = s.ss := by
  rw [newBurst_eq, if_neg (by simp [h])]
  exact ⟨tracked_ft s c gated, (only_ftUpd s _).ss (by decide)⟩

end

/-! ## The line engine at a symbol (R13, R24 to R26) -/

section
variable (x : LE) (i : SymbolIn) (c : Sym) (hit gated : Bool)

/-- The counts and sums a symbol moves (R6, R13). -/
def LE.atSymbol (x : LE) (i : SymbolIn) (c : Sym) (hit gated : Bool) : LE :=
  if x.link = .probe then (if x.probeCount < 4000 then x.probeSymbol i hit else x)
  else if x.link = .inService then (if gated then x else x.lossCounts i ((c - x.sfStart).toNat % 40 == 0))
  else x

theorem atSymbol_eq : x.atSymbol i c hit gated = { x with
    syncFails := (x.atSymbol i c hit gated).syncFails, lowPower := (x.atSymbol i c hit gated).lowPower
    probeCount := (x.atSymbol i c hit gated).probeCount, probeUnhit := (x.atSymbol i c hit gated).probeUnhit
    probeDown := (x.atSymbol i c hit gated).probeDown, probeUp := (x.atSymbol i c hit gated).probeUp
    probeUpReadings := (x.atSymbol i c hit gated).probeUpReadings } := by
  unfold LE.atSymbol LE.probeSymbol
  cases hit <;> split
  iterate 2
    · split <;> rfl
    · split
      · split <;> rfl
      · rfl

theorem atSymbol_counts (h : x.link = .inService) (hg : gated = false) :
    (x.atSymbol i c hit gated).lowPower = (if i.belowFloor then min 40 (x.lowPower + 1) else 0)
    ∧ ((c - x.sfStart).toNat % 40 = 0 →
      (x.atSymbol i c hit gated).syncFails = if i.syncPass then 0 else min 8 (x.syncFails + 1))
    ∧ ((c - x.sfStart).toNat % 40 ≠ 0 → (x.atSymbol i c hit gated).syncFails = x.syncFails) := by
  unfold LE.atSymbol
  rw [if_neg (by simp [h]), if_pos h, if_neg (by simp [hg])]
  exact ⟨rfl, fun hs => if_pos (by simpa using hs), fun hs => if_neg (by simpa using hs)⟩

theorem atSymbol_uncounted (h : x.link ≠ .inService ∨ gated = true) :
    (x.atSymbol i c hit gated).lowPower = x.lowPower ∧ (x.atSymbol i c hit gated).syncFails = x.syncFails := by
  unfold LE.atSymbol
  split
  · unfold LE.probeSymbol
    split
    · cases hit <;> exact ⟨rfl, rfl⟩
    · exact ⟨rfl, rfl⟩
  · split
    · rename_i hl
      rw [if_pos (h.resolve_left fun hn => hn hl)]
      exact ⟨rfl, rfl⟩
    · exact ⟨rfl, rfl⟩

/-- A symbol of PROBE (R6, R26). -/
theorem atSymbol_probe (h : x.link = .probe) (hn : x.probeCount < 4000) :
    (x.atSymbol i c hit gated).probeCount = x.probeCount + 1
    ∧ (hit = true → x.atSymbol i c hit gated = { x with probeCount := x.probeCount + 1 })
    ∧ (hit = false →
      (x.atSymbol i c hit gated).probeUnhit = (if i.tones = [] then x.probeUnhit else x.probeUnhit + 1)
      ∧ (x.atSymbol i c hit gated).probeUpReadings
        = (if i.upstream = [] then x.probeUpReadings else x.probeUpReadings + 1)
      ∧ (x.atSymbol i c hit gated).probeDown = (x.probeDown.zipIdx.map fun y =>
          y.1 + ((i.tones.map fun t => instantSnr t.1 t.2)[y.2]?).getD 0)
      ∧ (x.atSymbol i c hit gated).probeUp = x.probeUp.zipIdx.map fun y => y.1 + (i.upstream[y.2]?).getD 0) := by
  have count : satInc Config.probeSymbols x.probeCount = x.probeCount + 1 := by
    unfold satInc Config.probeSymbols
    omega
  have probe : x.atSymbol i c hit gated = x.probeSymbol i hit := by
    rw [LE.atSymbol, if_pos h, if_pos hn]
  rw [probe]
  unfold LE.probeSymbol
  rw [count]
  refine ⟨by cases hit <;> rfl, by rintro rfl; rfl, ?_⟩
  rintro rfl
  refine ⟨?_, ?_, rfl, rfl⟩
  · simp [List.isEmpty_iff]
  · simp [List.isEmpty_iff]

theorem atSymbol_unprobed (h : x.link ≠ .probe ∨ 4000 ≤ x.probeCount) : x.atSymbol i c hit gated =
    { x with syncFails := (x.atSymbol i c hit gated).syncFails, lowPower := (x.atSymbol i c hit gated).lowPower } := by
  unfold LE.atSymbol
  split
  · rename_i hp
    rw [if_neg (by have := h.resolve_left fun hn => hn hp; omega)]
  · split
    · split <;> rfl
    · rfl

variable (s : State)

theorem lineSymbol_le : (s.lineSymbol i c hit gated).le = s.le.atSymbol i c hit gated := by
  unfold State.lineSymbol LE.atSymbol
  split
  · rename_i hp
    rw [if_pos hp]
    rfl
  · rename_i hl
    have served (a b : LE) : (if s.le.link = .probe then a else if s.le.link = .inService then b else s.le) = b := by
      rw [if_neg (by simp [hl]), if_pos hl]
    rw [served]
    cases gated
    · dsimp only
      split <;> rfl
    · dsimp only
      split <;> rfl
  · rename_i hp hl
    rw [if_neg hp, if_neg hl]

theorem only_lineSymbol : Only [.le, .tt] s (s.lineSymbol i c hit gated) := by
  unfold State.lineSymbol
  split
  · exact (only_modLe s _).within (by decide)
  · exact .seq (l := [.le]) (m := [.tt]) (.ite (fun _ => .refl _ s) fun _ => only_modLe s _)
      (.ite (fun _ => only_modTt _ _) fun _ => .refl _ _)
  · exact .refl _ s

/-- Only a clean sync symbol in service reads the tones (R24). -/
theorem lineSymbol_tt_kept (h : s.le.link ≠ .inService ∨ (c - s.le.sfStart).toNat % 40 ≠ 0 ∨ gated = true ∨ hit = true) :
    (s.lineSymbol i c hit gated).tt = s.tt := by
  unfold State.lineSymbol
  split
  · rfl
  · rename_i hl
    dsimp only
    rw [if_neg]
    · split <;> rfl
    · have := h.resolve_left fun hn => hn hl
      simp only [Bool.and_eq_true, beq_iff_eq, Bool.not_eq_true']
      rintro ⟨⟨h1, h2⟩, h3⟩
      rcases this with hs | hs | hs
      · exact hs h1
      · simp [hs] at h3
      · simp [hs] at h2
  · rfl

theorem lineSymbol_tt_read (hl : s.le.link = .inService) (hs : (c - s.le.sfStart).toNat % 40 = 0) (hg : gated = false)
    (hh : hit = false) (hn : i.tones.length = s.tt.down.length) : (s.lineSymbol i c hit gated).tt = { s.tt with
      down := List.zipWith (fun (r : ToneRec) (x : Nat) =>
        { r with s := (max 0 (min 240 ((r.s : Int) + ((x : Int) - r.s + 4) / 8))).toNat })
        s.tt.down (i.tones.map fun t => instantSnr t.1 t.2) } := by
  have rest : s.tt.down.drop i.tones.length = [] := List.drop_eq_nil_of_le hn.ge
  subst hg hh
  unfold State.lineSymbol
  rw [hl]
  dsimp only
  rw [if_pos (by rw [hs]; rfl)]
  simp only [State.modTt, State.modLe, Bool.false_eq_true, if_false, Tables.syncReading, rest, List.append_nil]
  rfl

end

/-! ## The symbol, stage by stage -/

section
variable (s : State) (i : SymbolIn) (hit gated : Bool)

/-- A predicted window begins where the symbol reaches it (R43). -/
def State.opened (s : State) : State := s.modFt fun x => x.openWindow s.le.sym s.settings.gate.windowWidth

/-- Then the floor, and the burst that forms (R41). -/
def State.listened (s : State) (i : SymbolIn) (hit gated : Bool) : State :=
  s.opened.modFt fun x => ((x.floorStep (clampInt 0 255 i.energy) hit gated).burstStep s.le.sym hit).1

/-- Whether a burst opens at the symbol. -/
def State.bursts (s : State) (hit : Bool) : Bool :=
  hit && (s.ft.burst.map fun b => decide (4 < dist s.le.sym b.latest)).getD true

/-- Then the burst, where one opens (R42, R43). -/
def State.burstTaken (s : State) (i : SymbolIn) (hit gated : Bool) : State :=
  if s.bursts hit then (s.listened i hit gated).newBurst s.le.sym gated else s.listened i hit gated

/-- Opening the window that the predicted one is leaves what is predicted as it was. -/
theorem opened_gated (c : Sym) : s.opened.gated c = s.gated c := by
  have agreed : s.opened.inAgreed c = s.inAgreed c := by
    unfold State.inAgreed State.opened
    rw [State.modFt_ft, openWindow_eq]
  have predicted : s.opened.predicted = s.predicted := by
    unfold State.opened State.predicted
    rw [State.modFt_ft, State.modFt_settings]
    rcases openWindow_cases s.ft s.le.sym s.settings.gate.windowWidth with e | ⟨n, ht, hw, hn, e⟩
    · rw [e]
    · simp [e, ht, hw, hn]
  unfold State.gated State.inPredicted
  rw [agreed, predicted]

theorem opened_isHit (e : Int) : s.opened.isHit e = s.isHit e := by
  unfold State.isHit State.opened
  rw [State.modFt_ft, openWindow_eq]
  rfl

/-- The tracker before the burst is taken: only the window, the floor and the forming burst have moved. -/
theorem listened_ft : (s.listened i hit gated).ft = { s.ft with
    window := (s.ft.openWindow s.le.sym s.settings.gate.windowWidth).window
    floor := (s.ft.floorStep (clampInt 0 255 i.energy) hit gated).floor
    learn := (s.ft.floorStep (clampInt 0 255 i.energy) hit gated).learn
    burst := (s.ft.burstStep s.le.sym hit).1.burst } := by
  have floor (x : FT) (w : Option Window) (e : Int) :
      { x with window := w }.floorStep e hit gated = { x.floorStep e hit gated with window := w } := by
    unfold FT.floorStep
    split <;> simp_all
  have burst (x : FT) (w : Option Window) (f l : Nat) : ({ x with window := w, floor := f, learn := l }.burstStep s.le.sym
      hit).1.burst = (x.burstStep s.le.sym hit).1.burst := by
    rw [burstStep_burst, burstStep_burst, burstStep_opens, burstStep_opens]
  unfold State.listened State.opened
  rw [State.modFt_ft, State.modFt_ft, openWindow_eq, floor, floorStep_eq, burstStep_eq]
  dsimp only
  rw [burst]

theorem bursts_eq : ((s.opened.ft.floorStep (clampInt 0 255 i.energy) hit gated).burstStep s.le.sym hit).2
    = s.bursts hit := by
  rw [burstStep_opens, floorStep_eq, State.opened, State.modFt_ft, openWindow_eq]
  rfl

theorem only_listened : Only [.ft] s (s.listened i hit gated) := .seq (only_modFt s _) (only_modFt _ _)

theorem only_burstTaken : Only [.ft, .plk, .ss] s (s.burstTaken i hit gated) :=
  .ite (fun _ => .seq (only_listened s i hit gated) (only_newBurst _ _ _))
    fun _ => (only_listened s i hit gated).within (by decide)

theorem symbol_eq (hh : hit = s.isHit (clampInt 0 255 i.energy)) (hg : gated = s.gated s.le.sym) :
    s.symbol i = (((s.burstTaken i hit gated).lineSymbol i s.le.sym hit gated).modFt fun x =>
      ((x.closeWindow s.le.sym).openWindow (s.le.sym + 1) s.settings.gate.windowWidth).roll (s.le.sym + 1)).modLe
        fun x => { x with sym := x.sym + 1 } := by
  have settings : ((s.burstTaken i hit gated).lineSymbol i s.le.sym hit gated).settings = s.settings :=
    (only_lineSymbol i s.le.sym hit gated _).settings.trans (only_burstTaken s i hit gated).settings
  rw [← opened_isHit] at hh
  rw [← opened_gated] at hg
  rw [← settings, State.burstTaken, ← bursts_eq s i hit gated, hh, hg]
  rfl

end

/-- Where the anchor of a schedule lies (R48). -/
theorem formSchedule_anchor (s : State) (p : Nat) (n : Sym) : (s.formSchedule p n).anchor =
    s.le.sf + BitVec.ofNat 32 ((dist (s.formSchedule p n).origin s.le.sfStart).toNat / 40) := by
  simp only [State.formSchedule]

theorem formSchedule_origin (s : State) (p : Nat) (n : Sym) :
    (s.formSchedule p n).origin = firstWindowFrom (n - 1) p (s.le.sfStart + 2560) := by
  have lead : (2560 : BitVec 32) = BitVec.ofNat 32 (40 * Config.gateLead) := by decide
  simp only [State.formSchedule, lead]

theorem formSchedule_offset (s : State) (p : Nat) (n : Sym) :
    (s.formSchedule p n).offset = (dist (s.formSchedule p n).origin s.le.sfStart).toNat % 40 := by
  simp only [State.formSchedule]

/-! ## A new burst, by what the tracker was doing -/

section
variable {s : State} (c : Sym) (gated : Bool)

/-- The arrivals with the burst, when the four before it are known. -/
theorem arrivals_joined {x : FT} (l : List Sym) (t₁ t₂ t₃ t₄ : Sym) (h : x.arrivals = l ++ [t₁, t₂, t₃, t₄]) :
    ∃ l', (x.joined c gated).arrivals = l' ++ [t₁, t₂, t₃, t₄, c] := by
  rw [joined_eq]
  dsimp only
  rw [h]
  split
  · rename_i hlen
    cases l with
    | nil => simp at hlen
    | cons a l => exact ⟨l, by simp⟩
  · exact ⟨l, by simp⟩

theorem newBurst_searching (ht : s.ft.tracking = .searching) :
    (s.newBurst c gated).ft.stats.caught = s.ft.stats.caught ∧ (s.newBurst c gated).ft.stats.stray = s.ft.stats.stray
    ∧ (s.newBurst c gated).ft.request = s.ft.request := by
  have hj : (s.ft.joined c gated).tracking = .searching := by rw [joined_eq]; exact ht
  obtain ⟨hno, hstats, hreq⟩ := track_searching_uncounted c hj
  rw [(newBurst_uncaught s c gated hno).1, hstats, hreq, joined_eq]
  exact ⟨rfl, rfl, rfl⟩

/-- The search goes on (R42). -/
theorem newBurst_searches (ht : s.ft.tracking = .searching)
    (h : s.ft.agreement ≠ none ∨ lockPeriod (s.ft.joined c gated).arrivals = none) :
    (s.newBurst c gated).ft.tracking = .searching ∧ (s.newBurst c gated).ft.period = s.ft.period
    ∧ (s.newBurst c gated).ft.next = s.ft.next := by
  have hj : (s.ft.joined c gated).tracking = .searching := by rw [joined_eq]; exact ht
  have ha : (s.ft.joined c gated).agreement = s.ft.agreement := by rw [joined_eq]
  have htrack := track_searches c hj (ha ▸ h)
  rw [(newBurst_uncaught s c gated (by rw [htrack])).1, htrack, joined_eq]
  exact ⟨ht, rfl, rfl⟩

/-- The newest five arrivals lock the tracker (R42). -/
theorem newBurst_locks (ht : s.ft.tracking = .searching) (ha : s.ft.agreement = none) {p : Nat}
    (h : lockPeriod (s.ft.joined c gated).arrivals = some p) :
    (s.newBurst c gated).ft.tracking = .locked ∧ (s.newBurst c gated).ft.period = some p
    ∧ (s.newBurst c gated).ft.next = some (c + BitVec.ofNat 32 p) ∧ (s.newBurst c gated).ft.misses = 0 := by
  have htrack := track_locks c (by rw [joined_eq]; exact ht) (by rw [joined_eq]; exact ha) h
  rw [(newBurst_uncaught s c gated (by rw [htrack])).1, htrack]
  exact ⟨rfl, rfl, rfl, rfl⟩

/-- No burst is expected: it is stray (R43). -/
theorem newBurst_unexpected (ht : s.ft.tracking = .locked) (hw : s.ft.window = none) :
    (s.newBurst c gated).ft.tracking = .locked ∧ (s.newBurst c gated).ft.period = s.ft.period
    ∧ (s.newBurst c gated).ft.next = s.ft.next ∧ (s.newBurst c gated).ft.misses = s.ft.misses
    ∧ (s.newBurst c gated).ft.stats.caught = s.ft.stats.caught
    ∧ (s.newBurst c gated).ft.stats.stray = inc32 s.ft.stats.stray
    ∧ (s.newBurst c gated).ft.request = s.ft.request := by
  have htrack := track_unexpected c (x := s.ft.joined c gated) (by rw [joined_eq]; exact ht) (by rw [joined_eq]; exact hw)
  rw [(newBurst_uncaught s c gated (by rw [htrack])).1, htrack, joined_eq]
  exact ⟨ht, rfl, rfl, rfl, rfl, rfl, rfl⟩

variable {w : Window} {p : Nat} {n : Sym} (ht : s.ft.tracking = .locked) (hw : s.ft.window = some w)
  (hp : s.ft.period = some p) (hn : s.ft.next = some n)
include ht hw hp hn

theorem track_joined : (s.ft.joined c gated).track c =
    if w.covers c then (if w.caught then (s.ft.joined c gated, false) else ((s.ft.joined c gated).catchBurst c p n w, true))
    else ((s.ft.joined c gated).stray, false) :=
  track_window c (by rw [joined_eq]; exact ht) (by rw [joined_eq]; exact hw) (by rw [joined_eq]; exact hp)
    (by rw [joined_eq]; exact hn)

/-- A burst outside the window is stray, a second one in it is nothing (R43). -/
theorem newBurst_passes (h : w.covers c = false ∨ w.caught = true) :
    (s.newBurst c gated).ft.tracking = .locked ∧ (s.newBurst c gated).ft.period = some p
    ∧ (s.newBurst c gated).ft.next = some n ∧ (s.newBurst c gated).ft.misses = s.ft.misses
    ∧ (s.newBurst c gated).ft.stats.caught = s.ft.stats.caught ∧ (s.newBurst c gated).ft.request = s.ft.request
    ∧ (s.newBurst c gated).ft.stats.stray = (if w.covers c then s.ft.stats.stray else inc32 s.ft.stats.stray) := by
  have htrack := track_joined c gated ht hw hp hn
  cases hc : w.covers c
  · rw [hc, if_neg (by decide)] at htrack
    rw [(newBurst_uncaught s c gated (by rw [htrack])).1, htrack, joined_eq]
    exact ⟨ht, hp, hn, rfl, rfl, rfl, rfl⟩
  · have hcaught : w.caught = true := h.resolve_left (by simp [hc])
    rw [hc, if_pos rfl, if_pos hcaught] at htrack
    rw [(newBurst_uncaught s c gated (by rw [htrack])).1, htrack, joined_eq]
    exact ⟨ht, hp, hn, rfl, rfl, rfl, rfl⟩

variable {p' : Nat} (hp' : p' = (max 3200 (min 8000 ((4 * (p : Int) + dist c n + 2) / 4))).toNat)
  (hc : w.covers c = true) (hf : w.caught = false)
include hp' hc hf

theorem track_catches : (s.ft.joined c gated).track c = ({ s.ft.joined c gated with
    period := some p', next := some (c + BitVec.ofNat 32 p'), misses := 0, window := some { w with caught := true }
    stats := { (s.ft.joined c gated).stats with caught := inc32 s.ft.stats.caught } }, true) := by
  have sum : 3 * (p : Int) + (p + dist c n) + 2 = 4 * p + dist c n + 2 := by omega
  have caught : (s.ft.joined c gated).stats.caught = s.ft.stats.caught := by rw [joined_eq]
  rw [track_joined c gated ht hw hp hn, hc, if_pos rfl, hf, if_neg (by decide), hp', ← caught, ← sum]
  rfl

/-- The first burst in the window is caught (R43). -/
theorem newBurst_caught :
    (s.newBurst c gated).ft.tracking = .locked ∧ (s.newBurst c gated).ft.period = some p'
    ∧ (s.newBurst c gated).ft.next = some (c + BitVec.ofNat 32 p') ∧ (s.newBurst c gated).ft.misses = 0
    ∧ (s.newBurst c gated).ft.stats.caught = inc32 s.ft.stats.caught
    ∧ (s.newBurst c gated).ft.stats.stray = s.ft.stats.stray
    ∧ (s.newBurst c gated).ft.window = some { w with caught := true } := by
  rw [newBurst_ft, track_catches c gated ht hw hp hn hp' hc hf, joined_eq]
  exact ⟨ht, rfl, rfl, rfl, rfl, rfl, rfl⟩

theorem newBurst_checked : s.newBurst c gated = (s.tracked c gated).driftCheck ∧ (s.tracked c gated).ft.tracking = .locked
    ∧ (s.tracked c gated).ft.agreement = s.ft.agreement ∧ (s.tracked c gated).ft.period = some p'
    ∧ (s.tracked c gated).ft.next = some (c + BitVec.ofNat 32 p')
    ∧ (s.tracked c gated).ft.request = s.ft.request ∧ (s.tracked c gated).ft.retry = s.ft.retry
    ∧ (s.tracked c gated).ss = s.ss ∧ (s.tracked c gated).le = s.le ∧ (s.tracked c gated).settings = s.settings := by
  have htrack := track_catches c gated ht hw hp hn hp' hc hf
  have only := only_ftUpd s fun x => ((x.joined c gated).track c).1
  refine ⟨by rw [newBurst_eq, htrack]; rfl, ?_⟩
  rw [tracked_ft, htrack, joined_eq]
  exact ⟨ht, rfl, rfl, rfl, rfl, rfl, only.ss (by decide), only.le (by decide), only.settings⟩

variable {a : Agreement} {k : Nat} (ha : s.ft.agreement = some a)
  (hk : k = (dist (c + BitVec.ofNat 32 p' - 1) a.cur.origin % (a.cur.period : Int)).toNat)
include ha hk

theorem newBurst_drift_keeps (h : s.le.link ≠ .inService ∨ a.active = false ∨ a.endSf ≠ none ∨ a.repl ≠ none
    ∨ s.ft.request ≠ .none ∨ s.ft.retry ≠ none
    ∨ (min k (a.cur.period - k) < 2 ∧ s.settings.gate.windowWidth = a.cur.width)) :
    (s.newBurst c gated).ft.request = s.ft.request ∧ (s.newBurst c gated).ss = s.ss := by
  obtain ⟨heq, -, hag, hpp, hnn, hreq, hret, hss, hle, hset⟩ := newBurst_checked c gated ht hw hp hn hp' hc hf
  rw [heq, driftCheck_keeps (hag.trans ha) hpp hnn hk (by rw [hle, hreq, hret, hset]; exact h)]
  exact ⟨hreq, hss⟩

theorem newBurst_drift_replaces (hl : s.le.link = .inService) (hac : a.active = true) (he : a.endSf = none)
    (hr : a.repl = none) (hq : s.ft.request = .none) (hre : s.ft.retry = none) (hwait : s.ss.waiting = [])
    (hlen : s.ss.txs.length < 8) (h : 2 ≤ min k (a.cur.period - k) ∨ s.settings.gate.windowWidth ≠ a.cur.width) :
    ∃ r : Sched, r.period = p' ∧ r.width = s.settings.gate.windowWidth
      ∧ r.origin = firstWindowFrom (c + BitVec.ofNat 32 p' - 1) p' (s.le.sfStart + 2560)
      ∧ r.anchor = s.le.sf + BitVec.ofNat 32 ((dist r.origin s.le.sfStart).toNat / 40)
      ∧ r.offset = (dist r.origin s.le.sfStart).toNat % 40
      ∧ (s.newBurst c gated).ft.request = .set r
      ∧ (s.newBurst c gated).ss.txs.map (·.req) = s.ss.txs.map (·.req) ++
          [⟨.gateSet, none, w16 r.period ++ w8 r.width ++ wBV r.anchor ++ w8 r.offset, 0⟩] := by
  obtain ⟨heq, htr, hag, hpp, hnn, hreq, hret, hss, hle, hset⟩ := newBurst_checked c gated ht hw hp hn hp' hc hf
  have formed : (s.tracked c gated).formSchedule p' (c + BitVec.ofNat 32 p') = s.formSchedule p' (c + BitVec.ofNat 32 p') := by
    unfold State.formSchedule
    rw [hle, hset]
  have replaced := driftCheck_replaces (hag.trans ha) hpp hnn hk (hle ▸ hl) htr hac he hr (hreq.trans hq) (hret.trans hre)
    (hset ▸ h)
  rw [formed] at replaced
  refine ⟨s.formSchedule p' (c + BitVec.ofNat 32 p'), rfl, rfl, formSchedule_origin s _ _, formSchedule_anchor s _ _,
    formSchedule_offset s _ _, ?_, ?_⟩
  · rw [heq, replaced, (only_requestTx_quiet _ _ _ _ _ rfl).ft (by decide)]
    rfl
  · rw [heq, replaced, requestTx_granted _ _ _ _ _, State.modFt_ss, hss]
    · rfl
    · exact (congrArg LE.link hle).trans hl
    · exact (congrArg SS.waiting hss).trans hwait
    · exact lt_of_eq_of_lt (congrArg (fun x => x.txs.length) hss) hlen

end

/-! ## The symbol as a whole -/

/-- No window is predicted at the symbol after an arrival that is a period away. -/
theorem next_window_later (c : Sym) (p : Nat) (h : 3200 ≤ p ∧ p ≤ 8000) :
    dist (c + 1) (c + BitVec.ofNat 32 p - 1) < 0 := by
  have apart : c + 1 - (c + BitVec.ofNat 32 p - 1) = BitVec.ofNat 32 (4294967298 - p) := by
    apply BitVec.eq_of_toNat_eq
    have := c.isLt
    simp
    omega
  rw [dist, apart, BitVec.toInt_eq_toNat_cond, BitVec.toNat_ofNat]
  omega

/-- A caught window runs to its last symbol, and none opens meanwhile (R43). -/
theorem windowsMove_caught {x : FT} (c : Sym) (width : Nat) {w : Window} {p : Nat}
    (hw : x.window = some { w with caught := true }) (hn : x.next = some (c + BitVec.ofNat 32 p))
    (hp : 3200 ≤ p ∧ p ≤ 8000) : ((x.closeWindow c).openWindow (c + 1) width).window =
      if (w.width : Int) ≤ dist c w.start + 1 then none else some { w with caught := true } := by
  have next : (x.closeWindow c).next = some (c + BitVec.ofNat 32 p) := by rw [closeWindow_eq]; exact hn
  rw [openWindow_early _ _ _ next (next_window_later c p hp)]
  unfold FT.closeWindow
  rw [hw]
  dsimp only
  by_cases hd : (w.width : Int) ≤ dist c w.start + 1
  · rw [if_pos hd, if_pos (by simpa using hd)]
  · rw [if_neg hd, if_neg (by simpa using hd), hw]

section
variable (s : State) (i : SymbolIn) (hit gated : Bool)
  (hh : hit = s.isHit (clampInt 0 255 i.energy)) (hg : gated = s.gated s.le.sym)

theorem burstTaken_quiet (h : s.bursts hit = false) : s.burstTaken i hit gated = s.listened i hit gated :=
  if_neg (by simp [h])

theorem burstTaken_opens (h : s.bursts hit = true) :
    s.burstTaken i hit gated = (s.listened i hit gated).newBurst s.le.sym gated := if_pos h

/-- Neither the burst nor the window moves what the floor has learnt, the impulse condition or its runs. -/
theorem burstTaken_ft : (s.burstTaken i hit gated).ft.floor = (s.ft.floorStep (clampInt 0 255 i.energy) hit gated).floor
    ∧ (s.burstTaken i hit gated).ft.learn = (s.ft.floorStep (clampInt 0 255 i.energy) hit gated).learn
    ∧ (s.burstTaken i hit gated).ft.burst = (s.ft.burstStep s.le.sym hit).1.burst
    ∧ (s.burstTaken i hit gated).ft.impulse = s.ft.impulse ∧ (s.burstTaken i hit gated).ft.highRun = s.ft.highRun
    ∧ (s.burstTaken i hit gated).ft.lowRun = s.ft.lowRun ∧ (s.burstTaken i hit gated).ft.retry = s.ft.retry
    ∧ (s.burstTaken i hit gated).ft.agreement = s.ft.agreement := by
  cases h : s.bursts hit
  · rw [burstTaken_quiet s i hit gated h, listened_ft]
    exact ⟨rfl, rfl, rfl, rfl, rfl, rfl, rfl, rfl⟩
  · rw [burstTaken_opens s i hit gated h, newBurst_ft, track_eq, joined_eq, listened_ft]
    exact ⟨rfl, rfl, rfl, rfl, rfl, rfl, rfl, rfl⟩

/-- What a new burst counts, whatever the tracker makes of it. -/
theorem burstTaken_counts (h : s.bursts hit = true) :
    (s.burstTaken i hit gated).ft.arrivals
      = (if 8 ≤ s.ft.arrivals.length then s.ft.arrivals.drop 1 else s.ft.arrivals) ++ [s.le.sym]
    ∧ (s.burstTaken i hit gated).ft.hits = (if gated then s.ft.hits else min 65535 (s.ft.hits + 1))
    ∧ (s.burstTaken i hit gated).ft.stats.total = (if gated then s.ft.stats.total else inc32 s.ft.stats.total)
    ∧ (s.burstTaken i hit gated).ft.stats.missed = s.ft.stats.missed
    ∧ (s.burstTaken i hit gated).ft.stats.peak = s.ft.stats.peak := by
  rw [burstTaken_opens s i hit gated h, newBurst_ft, track_eq, joined_eq, listened_ft]
  exact ⟨rfl, rfl, rfl, rfl, rfl⟩

theorem burstTaken_ss : (s.burstTaken i hit gated).ss = { s.ss with
    outQueue := (s.burstTaken i hit gated).ss.outQueue, mgmtSeq := (s.burstTaken i hit gated).ss.mgmtSeq
    txs := (s.burstTaken i hit gated).ss.txs, nextNumber := (s.burstTaken i hit gated).ss.nextNumber
    waiting := (s.burstTaken i hit gated).ss.waiting } := by
  cases h : s.bursts hit
  · rw [burstTaken_quiet s i hit gated h]
    rfl
  · rw [burstTaken_opens s i hit gated h]
    exact newBurst_ss (s.listened i hit gated) _ _

theorem burstTaken_plk : (s.burstTaken i hit gated).plk = { s.plk with
    notices := (s.burstTaken i hit gated).plk.notices, noticeSeq := (s.burstTaken i hit gated).plk.noticeSeq } := by
  cases h : s.bursts hit
  · rw [burstTaken_quiet s i hit gated h]
    rfl
  · rw [burstTaken_opens s i hit gated h]
    exact newBurst_plk (s.listened i hit gated) _ _

include hh hg

theorem only_symbol : Only [.ft, .plk, .ss, .le, .tt] s (s.symbol i) := by
  rw [symbol_eq s i hit gated hh hg]
  exact .seq (l := [.ft, .plk, .ss]) (m := [.ft, .le, .tt]) (only_burstTaken s i hit gated)
    (.seq (l := [.ft, .le, .tt]) (m := [.le]) (.seq (m := [.ft]) (only_lineSymbol _ _ _ _ _) (only_modFt _ _)) (only_modLe _ _))

theorem symbol_ft : (s.symbol i).ft = { (s.burstTaken i hit gated).ft with
    window := (((s.burstTaken i hit gated).ft.closeWindow s.le.sym).openWindow (s.le.sym + 1)
      s.settings.gate.windowWidth).window
    agreement := ((s.burstTaken i hit gated).ft.roll (s.le.sym + 1)).agreement } := by
  rw [symbol_eq s i hit gated hh hg, State.modLe_ft, State.modFt_ft, (only_lineSymbol i _ _ _ _).ft (by decide)]
  exact windowsMove_eq _ _ _

theorem symbol_le : (s.symbol i).le = { s.le.atSymbol i s.le.sym hit gated with sym := s.le.sym + 1 } := by
  have before : (s.burstTaken i hit gated).le = s.le := (only_burstTaken s i hit gated).le (by decide)
  rw [symbol_eq s i hit gated hh hg, State.modLe_le, State.modFt_le, lineSymbol_le, before, atSymbol_eq]

theorem symbol_tt : (s.symbol i).tt = ((s.burstTaken i hit gated).lineSymbol i s.le.sym hit gated).tt := by
  rw [symbol_eq s i hit gated hh hg]
  rfl

theorem symbol_scheduler : (s.symbol i).ss = (s.burstTaken i hit gated).ss ∧ (s.symbol i).plk = (s.burstTaken i hit gated).plk := by
  have only := only_lineSymbol i s.le.sym hit gated (s.burstTaken i hit gated)
  rw [symbol_eq s i hit gated hh hg]
  exact ⟨only.ss (by decide), only.plk (by decide)⟩

end

section
variable (s : State) (i : SymbolIn) (hit gated : Bool)

/-- Before the burst the tracker is what it was; a window that runs, or is not yet due, is what it was too. -/
theorem listened_kept : (s.listened i hit gated).ft.tracking = s.ft.tracking ∧ (s.listened i hit gated).ft.period = s.ft.period
    ∧ (s.listened i hit gated).ft.next = s.ft.next ∧ (s.listened i hit gated).ft.misses = s.ft.misses
    ∧ (s.listened i hit gated).ft.agreement = s.ft.agreement ∧ (s.listened i hit gated).ft.request = s.ft.request
    ∧ (s.listened i hit gated).ft.retry = s.ft.retry ∧ (s.listened i hit gated).ft.stats = s.ft.stats
    ∧ (s.listened i hit gated).ft.arrivals = s.ft.arrivals := by
  rw [listened_ft]
  exact ⟨rfl, rfl, rfl, rfl, rfl, rfl, rfl, rfl, rfl⟩

theorem listened_window {w : Window} (h : s.ft.window = some w) : (s.listened i hit gated).ft.window = some w := by
  rw [listened_ft, openWindow_open _ _ _ h]
  exact h

theorem listened_early {n : Sym} (h : s.ft.window = none) (hn : s.ft.next = some n) (hd : dist s.le.sym (n - 1) < 0) :
    (s.listened i hit gated).ft.window = none := by
  rw [listened_ft, openWindow_early _ _ _ hn hd]
  exact h

/-- While the floor is learnt, and after (R41). -/
theorem floorStep_floor (x : FT) (e : Int) : (x.floorStep e hit gated).learn = min 64 (x.learn + 1)
    ∧ (x.learn = 0 → (x.floorStep e hit gated).floor = e.toNat)
    ∧ (x.learn ≠ 0 → hit = true ∨ gated = true → (x.floorStep e hit gated).floor = x.floor)
    ∧ (x.learn ≠ 0 → hit = false → gated = false → (x.floorStep e hit gated).floor =
      (max 0 (min 255 ((x.floor : Int) + (e - x.floor + 8) / 16))).toNat) := by
  unfold FT.floorStep
  split
  · rename_i h0
    exact ⟨by simp [h0], fun _ => rfl, fun h => absurd h0 h, fun h => absurd h0 h⟩
  · rename_i h0
    refine ⟨rfl, fun h => absurd h h0, fun _ h => if_pos ?_, fun _ hh hg => if_neg ?_⟩
    · rcases h with h | h <;> simp [h]
    · simp [hh, hg]

/-- What the search makes of a new burst (R42). -/
theorem burst_searching (hb : s.bursts hit = true) (ht : s.ft.tracking = .searching) :
    (s.burstTaken i hit gated).ft.stats.caught = s.ft.stats.caught
    ∧ (s.burstTaken i hit gated).ft.stats.stray = s.ft.stats.stray
    ∧ (s.burstTaken i hit gated).ft.request = s.ft.request
    ∧ (s.ft.agreement ≠ none ∨ s.ft.arrivals.length < 4 → (s.burstTaken i hit gated).ft.tracking = .searching
      ∧ (s.burstTaken i hit gated).ft.period = s.ft.period ∧ (s.burstTaken i hit gated).ft.next = s.ft.next)
    ∧ ∀ (l : List Sym) (t₁ t₂ t₃ t₄ : Sym) (is : List Nat), s.ft.agreement = none → s.ft.arrivals = l ++ [t₁, t₂, t₃, t₄] →
      is = [(t₂ - t₁).toNat, (t₃ - t₂).toNat, (t₄ - t₃).toNat, (s.le.sym - t₄).toNat] →
      ((∀ x ∈ is, 3200 ≤ x ∧ x ≤ 8000 ∧ ∀ y ∈ is, x ≤ y + 4) → (s.burstTaken i hit gated).ft.tracking = .locked
        ∧ (s.burstTaken i hit gated).ft.period = some ((is.sum + 2) / 4)
        ∧ (s.burstTaken i hit gated).ft.next = some (s.le.sym + BitVec.ofNat 32 ((is.sum + 2) / 4))
        ∧ (s.burstTaken i hit gated).ft.misses = 0)
      ∧ ((∃ x ∈ is, x < 3200 ∨ 8000 < x ∨ ∃ y ∈ is, y + 4 < x) → (s.burstTaken i hit gated).ft.tracking = .searching
        ∧ (s.burstTaken i hit gated).ft.period = s.ft.period ∧ (s.burstTaken i hit gated).ft.next = s.ft.next) := by
  obtain ⟨ktr, kper, knext, -, kagr, kreq, -, kstats, karr⟩ := listened_kept s i hit gated
  have ht' := ktr.trans ht
  rw [burstTaken_opens s i hit gated hb]
  obtain ⟨hca, hst, hre⟩ := newBurst_searching s.le.sym gated ht'
  refine ⟨by rw [hca, kstats], by rw [hst, kstats], by rw [hre, kreq], fun h => ?_, fun l t₁ t₂ t₃ t₄ is ha harr his => ?_⟩
  · have few : (s.listened i hit gated).ft.agreement ≠ none
        ∨ lockPeriod ((s.listened i hit gated).ft.joined s.le.sym gated).arrivals = none := by
      refine h.imp (fun h => kagr ▸ h) fun h => lockPeriod_few _ ?_
      rw [joined_eq]
      dsimp only
      rw [karr, if_neg (by omega)]
      simp
      omega
    have goes := newBurst_searches s.le.sym gated ht' few
    rwa [kper, knext] at goes
  · obtain ⟨l', hl'⟩ := arrivals_joined s.le.sym gated l t₁ t₂ t₃ t₄ (karr.trans harr)
    obtain ⟨locks, not⟩ := lockPeriod_append l' t₁ t₂ t₃ t₄ s.le.sym is his
    refine ⟨fun h => newBurst_locks s.le.sym gated ht' (kagr.trans ha) (by rw [hl']; exact locks h), fun h => ?_⟩
    have goes := newBurst_searches s.le.sym gated ht' (.inr (by rw [hl']; exact not h))
    rwa [kper, knext] at goes

/-- What a new burst does while a window is expected (R43, R50). -/
theorem burst_window (hb : s.bursts hit = true) {w : Window} {p : Nat} {n : Sym} {p' : Nat} (ht : s.ft.tracking = .locked)
    (hw : s.ft.window = some w) (hp : s.ft.period = some p) (hn : s.ft.next = some n)
    (hp' : p' = (max 3200 (min 8000 ((4 * (p : Int) + dist s.le.sym n + 2) / 4))).toNat) :
    (s.burstTaken i hit gated).ft.tracking = .locked
    ∧ (w.covers s.le.sym = true → w.caught = false →
      (s.burstTaken i hit gated).ft.period = some p'
      ∧ (s.burstTaken i hit gated).ft.next = some (s.le.sym + BitVec.ofNat 32 p')
      ∧ (s.burstTaken i hit gated).ft.misses = 0
      ∧ (s.burstTaken i hit gated).ft.stats.caught = inc32 s.ft.stats.caught
      ∧ (s.burstTaken i hit gated).ft.stats.stray = s.ft.stats.stray
      ∧ (s.burstTaken i hit gated).ft.window = some { w with caught := true }
      ∧ ∀ (a : Agreement) (k : Nat), s.ft.agreement = some a →
        k = (dist (s.le.sym + BitVec.ofNat 32 p' - 1) a.cur.origin % (a.cur.period : Int)).toNat →
        (s.le.link ≠ .inService ∨ a.active = false ∨ a.endSf ≠ none ∨ a.repl ≠ none ∨ s.ft.request ≠ .none
            ∨ s.ft.retry ≠ none ∨ (min k (a.cur.period - k) < 2 ∧ s.settings.gate.windowWidth = a.cur.width) →
          (s.burstTaken i hit gated).ft.request = s.ft.request ∧ (s.burstTaken i hit gated).ss = s.ss)
        ∧ (s.le.link = .inService → a.active = true → a.endSf = none → a.repl = none →
          s.ft.request = .none → s.ft.retry = none → s.ss.waiting = [] → s.ss.txs.length < 8 →
          2 ≤ min k (a.cur.period - k) ∨ s.settings.gate.windowWidth ≠ a.cur.width →
          ∃ r : Sched, r.period = p' ∧ r.width = s.settings.gate.windowWidth
            ∧ r.origin = firstWindowFrom (s.le.sym + BitVec.ofNat 32 p' - 1) p' (s.le.sfStart + 2560)
            ∧ r.anchor = s.le.sf + BitVec.ofNat 32 ((dist r.origin s.le.sfStart).toNat / 40)
            ∧ r.offset = (dist r.origin s.le.sfStart).toNat % 40
            ∧ (s.burstTaken i hit gated).ft.request = .set r
            ∧ (s.burstTaken i hit gated).ss.txs.map (·.req) = s.ss.txs.map (·.req) ++
                [⟨.gateSet, none, w16 r.period ++ w8 r.width ++ wBV r.anchor ++ w8 r.offset, 0⟩]))
    ∧ (w.covers s.le.sym = false ∨ w.caught = true →
      (s.burstTaken i hit gated).ft.period = some p ∧ (s.burstTaken i hit gated).ft.next = some n
      ∧ (s.burstTaken i hit gated).ft.misses = s.ft.misses
      ∧ (s.burstTaken i hit gated).ft.stats.caught = s.ft.stats.caught
      ∧ (s.burstTaken i hit gated).ft.request = s.ft.request
      ∧ (s.burstTaken i hit gated).ft.stats.stray
        = (if w.covers s.le.sym then s.ft.stats.stray else inc32 s.ft.stats.stray)) := by
  obtain ⟨ktr, kper, knext, kmiss, kagr, kreq, kret, kstats, -⟩ := listened_kept s i hit gated
  have only := only_listened s i hit gated
  have kw := listened_window s i hit gated hw
  have ht' := ktr.trans ht
  have hp₁ := kper.trans hp
  have hn₁ := knext.trans hn
  have hle : (s.listened i hit gated).le = s.le := only.le (by decide)
  have hss : (s.listened i hit gated).ss = s.ss := only.ss (by decide)
  have hset := only.settings
  rw [burstTaken_opens s i hit gated hb]
  have passes := newBurst_passes s.le.sym gated ht' kw hp₁ hn₁
  have caught := newBurst_caught s.le.sym gated ht' kw hp₁ hn₁ hp'
  have keeps := fun hc hf {a : Agreement} {k : Nat} ha =>
    newBurst_drift_keeps s.le.sym gated ht' kw hp₁ hn₁ hp' hc hf (a := a) (k := k) (kagr.trans ha)
  have replaces := fun hc hf {a : Agreement} {k : Nat} ha =>
    newBurst_drift_replaces s.le.sym gated ht' kw hp₁ hn₁ hp' hc hf (a := a) (k := k) (kagr.trans ha)
  rw [kmiss, kstats, kreq] at passes
  rw [kstats] at caught
  rw [hle, kreq, kret, hset, hss] at keeps
  rw [hle, kreq, kret, hset, hss] at replaces
  refine ⟨?_, fun hc hf => ?_, fun h => (passes h).2⟩
  · by_cases h : w.covers s.le.sym = false ∨ w.caught = true
    · exact (passes h).1
    · simp only [not_or, Bool.not_eq_true, Bool.not_eq_false] at h
      exact (caught h.1 h.2).1
  · obtain ⟨-, cper, cnext, cmiss, ccaught, cstray, cwin⟩ := caught hc hf
    exact ⟨cper, cnext, cmiss, ccaught, cstray, cwin, fun a k ha hk => ⟨keeps hc hf ha hk, replaces hc hf ha hk⟩⟩

/-- A burst before the next window is stray (R43). -/
theorem burst_unexpected (hb : s.bursts hit = true) {n : Sym} (ht : s.ft.tracking = .locked) (hw : s.ft.window = none)
    (hn : s.ft.next = some n) (hd : dist s.le.sym (n - 1) < 0) : (s.burstTaken i hit gated).ft.tracking = .locked
    ∧ (s.burstTaken i hit gated).ft.period = s.ft.period ∧ (s.burstTaken i hit gated).ft.next = some n
    ∧ (s.burstTaken i hit gated).ft.misses = s.ft.misses
    ∧ (s.burstTaken i hit gated).ft.stats.caught = s.ft.stats.caught
    ∧ (s.burstTaken i hit gated).ft.stats.stray = inc32 s.ft.stats.stray
    ∧ (s.burstTaken i hit gated).ft.request = s.ft.request := by
  obtain ⟨ktr, kper, knext, kmiss, -, kreq, -, kstats, -⟩ := listened_kept s i hit gated
  have stray := newBurst_unexpected s.le.sym gated (ktr.trans ht) (listened_early s i hit gated hw hn hd)
  rw [burstTaken_opens s i hit gated hb]
  rwa [kper, knext, kmiss, kreq, kstats, hn] at stray

end

/-- Settles O37: the stages of `symbol_eq`, each by its own lemma. -/
theorem symbolIsTaken : Obligations.SymbolIsTaken := by
  intro i s awake
  refine ⟨fun hl => ?_, fun h₁ h₂ => ?_⟩
  · have off : s.le.link.driverOn = false := by rcases hl with h | h <;> rw [h] <;> rfl
    exact congrArg _ ((live_awake s _ awake).trans (by rw [if_neg (by simp [off])]))
  · have on : s.le.link.driverOn = true := by
      revert h₁ h₂
      cases s.le.link <;> simp [LinkState.driverOn]
    let e := clampInt 0 255 i.energy
    let hit := decide (64 ≤ s.ft.learn ∧ (s.ft.floor : Int) + 4 * s.settings.gate.hitThreshold ≤ e)
    have hh : hit = s.isHit e := Bool.decide_and _ _
    have only := only_symbol s i hit _ hh rfl
    have hft := symbol_ft s i hit _ hh rfl
    have hle := symbol_le s i hit _ hh rfl
    have htt := symbol_tt s i hit _ hh rfl
    obtain ⟨hss, hplk⟩ := symbol_scheduler s i hit _ hh rfl
    have sameLe : (s.burstTaken i hit (s.gated s.le.sym)).le = s.le := (only_burstTaken s i hit _).le (by decide)
    have sameTt : (s.burstTaken i hit (s.gated s.le.sym)).tt = s.tt := (only_burstTaken s i hit _).tt (by decide)
    obtain ⟨bfloor, blearn, bburst, bimp, bhigh, blow, bretry, bagr⟩ := burstTaken_ft s i hit (s.gated s.le.sym)
    obtain ⟨flearn, ffirst, fkept, fmoved⟩ := floorStep_floor hit (s.gated s.le.sym) s.ft e
    refine ⟨e, hit, s.symbol i, rfl, rfl, congrArg _ ((live_awake s _ awake).trans (by rw [if_pos on])), ?_, ?_, ?_, ?_, ?_,
      ?_, ?_, ?_, ?_, ?_, ?_, ?_, ?_, ?_, only.ports (by decide), only.cc (by decide), only.mu (by decide),
      only.sup (by decide), only.tu (by decide), only.fs (by decide), only.sts, only.settings, only.uptime⟩
    · rw [hle, atSymbol_eq]
    · rw [hft]; exact blearn.trans flearn
    · rw [hft]; exact fun h => bfloor.trans (ffirst h)
    · rw [hft]; exact fun h hs => bfloor.trans (fkept h hs)
    · rw [hft]; exact fun h hs hg => bfloor.trans (fmoved h hs hg)
    · rw [hle]; exact fun hl hg => atSymbol_counts s.le i _ hit _ hl hg
    · rw [hle]; exact fun h => atSymbol_uncounted s.le i _ hit _ h
    · intro hp hn
      obtain ⟨pcount, phit, pread⟩ := atSymbol_probe s.le i s.le.sym hit (s.gated s.le.sym) hp hn
      rw [hle]
      exact ⟨pcount, fun h => by rw [phit h], pread⟩
    · intro h
      rw [hle, atSymbol_unprobed s.le i s.le.sym hit _ h]
    · intro hl hs hg hf hn
      rw [htt, lineSymbol_tt_read i _ _ _ _ (by rw [sameLe]; exact hl) (by rw [sameLe]; exact hs) hg hf
        (by rw [sameTt]; exact hn), sameTt]
    · intro h
      rw [htt, lineSymbol_tt_kept i _ _ _ _ (by rw [sameLe]; exact h), sameTt]
    · intro c opens hc ho
      subst hc
      have hop : opens = s.bursts hit := ho
      refine ⟨?_, ?_, ?_, ?_, ?_, ?_, fun hno => ?_, fun hopen => ?_⟩
      · rw [hft, ho, ← burstStep_opens]
        exact bburst.trans (burstStep_burst _ _ _)
      · rw [hft]; exact bimp
      · rw [hft]; exact bhigh
      · rw [hft]; exact blow
      · rw [hft]; exact bretry
      · rw [hft, ← bagr]; exact roll_agreement _ _
      · rw [hft, hss, burstTaken_quiet s i hit _ (hop ▸ hno), listened_ft]
        exact ⟨rfl, rfl, rfl, rfl, rfl, rfl, rfl, rfl, (only_listened s i hit _).ss (by decide)⟩
      · have hb := hop ▸ hopen
        obtain ⟨carr, chits, ctotal, cmissed, cpeak⟩ := burstTaken_counts s i hit (s.gated s.le.sym) hb
        rw [hft, hss]
        refine ⟨carr, chits, ctotal, cmissed, cpeak, burst_searching s i hit _ hb, ?_, ?_⟩
        · intro w p n p' ht hw hp hn hp'
          obtain ⟨wtr, wcatch, wpass⟩ := burst_window s i hit (s.gated s.le.sym) hb ht hw hp hn hp'
          refine ⟨wtr, fun hc hf => ?_, wpass⟩
          obtain ⟨cper, cnext, cmiss, ccaught, cstray, cwin, cdrift⟩ := wcatch hc hf
          exact ⟨cper, cnext, cmiss, ccaught, cstray,
            windowsMove_caught _ _ cwin cnext (by omega), cdrift⟩
        · exact fun n => burst_unexpected s i hit _ hb
    · rw [hss]; exact burstTaken_ss s i hit _
    · rw [hplk]; exact burstTaken_plk s i hit _

end Sys2Proof.Machine
end

section
/-!
PROOFS. The far end's requests (R68, R73): how one is read, recorded and answered; RETRAIN (R14) and UP_TABLE (R36).
-/

namespace Sys2Proof.Machine

-- One proof at a time: the text is compiled as one, and each proof that waits for the others holds a thread.
set_option Elab.async false

/-! ## Answers as bytes -/

theorem message_eq (code : Nat) (n : Byte) (body : List Byte) :
    message code n.toNat body = BitVec.ofNat 8 code :: n :: BitVec.ofNat 8 body.length :: body := by
  simp [message, w8_eq]

/-- There is room for one more answer (R69). -/
def State.hasRoom (s : State) : Prop := (s.ss.outQueue.filter fun m => !m.isSend).length < 24

section
variable {s : State}

theorem placeAnswer_placed (t : Option FarType) (n : Byte) (positive : Bool) (msg : List Byte)
    (hin : s.le.link = .inService) (room : s.hasRoom) :
    s.placeAnswer t n positive msg = s.modSs fun x => x.enqueue (.answer t n positive) msg := by
  have notFull : s.ss.answersFull = false := by
    have : ¬ Config.answerPlaces ≤ (s.ss.outQueue.filter fun m => !m.isSend).length := Nat.not_le.mpr room
    simpa [SS.answersFull] using this
  unfold State.placeAnswer
  rw [if_neg (by simp [State.inService, hin]), if_neg (by simp [notFull])]

/-- An answer to the request last recorded is recorded and placed (R73). -/
theorem answer_recorded (t : FarType) (n : Byte) (positive : Bool) (body : List Byte) (hin : s.le.link = .inService)
    (room : s.hasRoom) (hr : (s.ss.repeats.get t).last = some n) :
    s.answer t n positive body = s.modSs fun x =>
      { x with repeats := x.repeats.set t { s.ss.repeats.get t with
          answer := .held positive (message (if positive then codeAck else codeNak) n.toNat body) } }.enqueue
        (.answer (some t) n positive) (message (if positive then codeAck else codeNak) n.toNat body) := by
  unfold State.answer
  rw [if_neg (by simp [State.inService, hin])]
  dsimp only
  rw [if_pos hr, placeAnswer_placed]
  · rfl
  · exact hin
  · exact room

/-! ## Requests as they are received (R68, R73) -/

/-- A whole message counted. -/
def State.received (s : State) : State := s.modCounts fun c => { c with messages := inc32 c.messages }

/-- A fresh request recorded, its answer pending. -/
def State.noted (s : State) (t : FarType) (n : Byte) : State :=
  s.received.modSs fun x => { x with repeats := x.repeats.set t { last := some n, answer := .pending } }

theorem receive_whole {m : Msg} (f : State → State) (hin : s.le.link = .inService) (hm : m.whole = true) :
    s.receive m f = f s.received := by
  unfold State.receive
  rw [if_neg (by simp [State.inService, hin])]
  dsimp only
  rw [if_pos hm]
  rfl

variable {α : Type} {t : FarType} {m : Msg} {layout : List Byte → Option α}

/-- A fresh request goes to its owner. -/
theorem farRequest_fresh {a : α} (act : State → α → State) (hin : s.le.link = .inService) (hm : m.whole = true)
    (hl : layout m.body = some a) (hr : (s.ss.repeats.get t).last ≠ some m.number) :
    s.farRequest t m layout act = act (s.noted t m.number) a := by
  unfold State.farRequest
  rw [receive_whole _ hin hm]
  rw [hl]
  dsimp only
  unfold State.fresh
  dsimp only
  exact if_neg hr

/-- A repeat is answered from the record. -/
theorem farRequest_repeat {a : α} (act : State → α → State) {positive : Bool} {msg : List Byte}
    (hin : s.le.link = .inService) (hm : m.whole = true) (hl : layout m.body = some a) (room : s.hasRoom)
    (hr : s.ss.repeats.get t = ⟨some m.number, .held positive msg⟩) :
    s.farRequest t m layout act = (s.received.modCounts fun c => { c with repeats := inc32 c.repeats }).modSs
      fun x => x.enqueue (.answer (some t) m.number positive) msg := by
  unfold State.farRequest
  rw [receive_whole _ hin hm]
  rw [hl]
  dsimp only
  have record : s.received.ss.repeats.get t = ⟨some m.number, .held positive msg⟩ := hr
  unfold State.fresh
  dsimp only
  rw [record]
  dsimp only
  rw [if_pos rfl, placeAnswer_placed]
  · exact hin
  · exact room

/-- A body of another layout is answered NAK with cause INVALID, counted and reported. -/
theorem farRequest_unread (act : State → α → State) (hin : s.le.link = .inService) (hm : m.whole = true)
    (hl : layout m.body = none) (room : s.hasRoom) :
    s.farRequest t m layout act = ((s.received.modSs fun x =>
      x.enqueue (.answer none m.number false) (message codeNak m.number.toNat (w8 NakCause.invalid.code))).modCounts
        fun c => { c with malformed := inc32 c.malformed }).faultEvent .linkProtocol := by
  unfold State.farRequest
  rw [receive_whole _ hin hm]
  rw [hl]
  dsimp only
  rw [State.plainNak, placeAnswer_placed]
  · exact hin
  · exact room

/-- A fresh request is the one last recorded. -/
theorem noted_last (n : Byte) : ((s.noted t n).ss.repeats.get t) = ⟨some n, .pending⟩ := by
  cases t <;> rfl

end

/-- The owner's answer to the request just recorded. -/
theorem answer_noted {s : State} (t : FarType) (n : Byte) (positive : Bool) (body : List Byte)
    (hin : s.le.link = .inService) (room : s.hasRoom) :
    (s.noted t n).answer t n positive body = (s.noted t n).modSs fun x =>
      { x with repeats := x.repeats.set t ⟨some n, .held positive
          (BitVec.ofNat 8 (if positive then codeAck else codeNak) :: n :: BitVec.ofNat 8 body.length :: body)⟩ }.enqueue
        (.answer (some t) n positive)
        (BitVec.ofNat 8 (if positive then codeAck else codeNak) :: n :: BitVec.ofNat 8 body.length :: body) := by
  rw [answer_recorded _ _ _ _ (s := s.noted t n) hin room (by rw [noted_last]), noted_last, message_eq]

/-! ## RETRAIN (R14) -/

/-- A fresh RETRAIN taken: the answer recorded and placed, the 100 ms of a FAR_END loss started. -/
def State.retrained (s : State) (n : Byte) : State :=
  ((s.noted .retrain n).modSs fun x =>
    { x with repeats := x.repeats.set .retrain ⟨some n, .held true [0x7E, n, 0]⟩ }.enqueue
      (.answer (some .retrain) n true) [0x7E, n, 0]).modLe fun x =>
        { x with farEnd := x.farEnd <|> some { number := n, timer := 100 } }

/-- A RETRAIN with a body: refused and counted. -/
def State.retrainRefused (s : State) (n : Byte) : State :=
  (s.received.modSs fun x => x.enqueue (.answer none n false) [0x7F, n, 1, 2]).modCounts fun c =>
    { c with malformed := inc32 c.malformed }

theorem only_retrained (s : State) (n : Byte) : Only [.ss, .le] s (s.retrained n) :=
  .seq (l := [.ss]) (.trans (.trans (only_modCounts s _) (only_modSs _ _)) (only_modSs _ _)) (only_modLe _ _)

theorem only_retrainRefused (s : State) (n : Byte) : Only [.ss] s (s.retrainRefused n) :=
  .trans (.trans (only_modCounts s _) (only_modSs _ _)) (only_modCounts _ _)

/-- The scheduler after a RETRAIN is answered. -/
theorem retrained_ss (s : State) (n : Byte) : (s.retrained n).ss = { s.ss with
    outQueue := s.ss.outQueue ++
      [{ who := .answer (some .retrain) n true, cells := cellsOf s.ss.mgmtSeq [0x7E, n, 0], started := false }]
    mgmtSeq := (s.ss.mgmtSeq + 1) % 256
    repeats := { s.ss.repeats with retrain := ⟨some n, .held true [0x7E, n, 0]⟩ }
    counts := { s.ss.counts with messages := inc32 s.ss.counts.messages } } := by
  simp only [State.retrained, State.noted, State.received, State.modCounts, State.modSs, State.modLe, SS.enqueue, Repeats.set]

/-- The scheduler after a RETRAIN with a body. -/
theorem retrainRefused_ss (s : State) (n : Byte) : (s.retrainRefused n).ss = { s.ss with
    outQueue := s.ss.outQueue ++
      [{ who := .answer none n false, cells := cellsOf s.ss.mgmtSeq [0x7F, n, 1, 2], started := false }]
    mgmtSeq := (s.ss.mgmtSeq + 1) % 256
    counts := { s.ss.counts with
      messages := inc32 s.ss.counts.messages, malformed := inc32 s.ss.counts.malformed } } := by
  simp only [State.retrainRefused, State.received, State.modCounts, State.modSs, SS.enqueue]

/-- The scheduler after a repeat is answered. -/
theorem repeated_eq (s : State) (n : Byte) (positive : Bool) (msg : List Byte) :
    ((s.received.modCounts fun c => { c with repeats := inc32 c.repeats }).modSs fun x =>
      x.enqueue (.answer (some .retrain) n positive) msg) = { s with ss := { s.ss with
    outQueue := s.ss.outQueue ++
      [{ who := .answer (some .retrain) n positive, cells := cellsOf s.ss.mgmtSeq msg, started := false }]
    mgmtSeq := (s.ss.mgmtSeq + 1) % 256
    counts := { s.ss.counts with
      messages := inc32 s.ss.counts.messages, repeats := inc32 s.ss.counts.repeats } } } := by
  simp only [State.received, State.modCounts, State.modSs, SS.enqueue]

section
variable {s : State} (n : Byte) (awake : s.dormant = false) (hin : s.le.link = .inService) (room : s.hasRoom)
include awake hin room

theorem retrain_fresh (hr : s.ss.repeats.retrain.last ≠ some n) :
    exec (.retrain n 0 []) s = .next (s.retrained n).settle := by
  refine congrArg _ ((live_awake s _ awake).trans (congrArg _ ?_))
  unfold State.retrainMsg
  rw [farRequest_fresh (t := .retrain) (m := ⟨n, 0, []⟩) (a := ()) _ hin rfl rfl hr]
  dsimp only
  rw [State.answerAck, answer_noted _ _ _ _ hin room]
  rfl

theorem retrain_repeat {positive : Bool} {msg : List Byte} (hr : s.ss.repeats.retrain = ⟨some n, .held positive msg⟩) :
    exec (.retrain n 0 []) s = .next ((s.received.modCounts fun c => { c with repeats := inc32 c.repeats }).modSs
      fun x => x.enqueue (.answer (some .retrain) n positive) msg).settle := by
  refine congrArg _ ((live_awake s _ awake).trans (congrArg _ ?_))
  unfold State.retrainMsg
  rw [farRequest_repeat (t := .retrain) (m := ⟨n, 0, []⟩) (a := ()) _ hin rfl rfl room hr]

theorem retrain_unread (b : Byte) :
    exec (.retrain n 1 [b]) s = .next ((s.retrainRefused n).faultEvent .linkProtocol).settle := by
  refine congrArg _ ((live_awake s _ awake).trans (congrArg _ ?_))
  unfold State.retrainMsg
  rw [farRequest_unread _ hin rfl rfl room, message_eq]
  rfl

end

/-! ## UP_TABLE (R36) -/

/-- The far end's table as the body gives it. -/
def tableBody (body : List Byte) (e : Sf) : UpTableBody :=
  { bits := unpackCodes (body.take 13), snr := ((body.drop 13).take 26).map fun b => min 240 b.toNat, seff := e }

theorem upTableLayout_read {body : List Byte} {e : Sf} (hl : body.length = 43) (he : rSf (body.drop 39) = some (e, [])) :
    upTableLayout body = some (tableBody body e) := by
  unfold upTableLayout
  rw [if_pos hl, he]
  rfl

theorem upTones_eq (body : List Byte) (e : Sf) : (((tableBody body e).bits.zip (tableBody body e).snr).map upTone)
    = List.zipWith (fun b (x : Byte) => { s := min 240 x.toNat, b := b, masked := false }) (unpackCodes (body.take 13))
        ((body.drop 13).take 26) := by
  simp only [tableBody, List.zip, List.map_zipWith, List.zipWith_map_right]
  rfl

section
variable {s : State} {p : Profile} {u : UpTableBody}

theorem upTableRefusal_cap (h : (∃ b ∈ u.bits, Profile.cap p < b)
    ∨ Profile.upBudget p < (u.bits.filter fun b => b ≠ 0).length) : s.upTableRefusal p u = some .cap :=
  if_pos ((overCap_iff _ _ _).mpr h)

variable (hcap : ∀ b ∈ u.bits, b ≤ Profile.cap p) (hbudget : (u.bits.filter fun b => b ≠ 0).length ≤ Profile.upBudget p)
include hcap hbudget

/-- Within the cap and the budget, a table is refused for a tone of one bit, and for its superframe. -/
theorem upTableRefusal_within : s.upTableRefusal p u =
    if 1 ∈ u.bits then some .table else if ahead u.seff s.le.sf then none else some .late := by
  have within : ¬ (overCap (Profile.cap p) (Profile.upBudget p) u.bits = true) := notOverCap rfl hcap hbudget
  have cap : Profile.cap p ≤ 10 := by cases p <;> decide
  have ones : u.bits.any (fun b => b == 1 || decide (12 < b)) = true ↔ 1 ∈ u.bits := by
    simp only [List.any_eq_true, Bool.or_eq_true, beq_iff_eq, decide_eq_true_eq]
    refine ⟨?_, fun h => ⟨1, h, .inl rfl⟩⟩
    rintro ⟨b, hb, rfl | hlt⟩
    · exact hb
    · have := hcap b hb
      omega
  unfold State.upTableRefusal
  rw [if_neg within]
  simp only [ones]
  cases ahead u.seff s.le.sf <;> simp

end

section
variable {s : State} {n : Byte} {body : List Byte} {e : Sf} (awake : s.dormant = false) (hin : s.le.link = .inService)
  (room : s.hasRoom) (hl : body.length = 43) (he : rSf (body.drop 39) = some (e, []))
  (hr : s.ss.repeats.upTable.last ≠ some n)
include awake hin hl he hr

theorem upTable_fresh : exec (.upTable n 43 body) s = .next (State.settle (
    match s.upTableRefusal s.checkProfile (tableBody body e) with
    | some c => ((s.noted .upTable n).answerNak .upTable n c).faultEvent .linkProtocol
    | none => ((s.noted .upTable n).answerAck .upTable n []).modTt fun t =>
        { t with upWaiting := some ⟨((tableBody body e).bits.zip (tableBody body e).snr).map upTone, e,
            Profile.cap s.checkProfile⟩ })) := by
  have whole : (Msg.mk n 43 body).whole = true := by simp [Msg.whole, hl]
  refine congrArg _ ((live_awake s _ awake).trans (congrArg _ ?_))
  unfold State.upTableMsg
  rw [farRequest_fresh (t := .upTable) (m := ⟨n, 43, body⟩) _ hin whole (upTableLayout_read hl he) hr]
  rfl

include room

/-- A refused table leaves what waits as it was, and the refusal in the record. -/
theorem upTable_refused {c : NakCause} (h : s.upTableRefusal s.checkProfile (tableBody body e) = some c) :
    ∃ u : State, exec (.upTable n 43 body) s = .next u.settle ∧ u.tt = s.tt
      ∧ u.ss.repeats.upTable = ⟨some n, .held false [0x7F, n, 1, BitVec.ofNat 8 c.code]⟩ ∧ u.settings = s.settings
      ∧ u.le = s.le := by
  refine ⟨((s.noted .upTable n).answerNak .upTable n c).faultEvent .linkProtocol, ?_, ?_⟩
  · rw [upTable_fresh awake hin hl he hr, h]
  · have only : Only [.ss, .fs, .plk] (s.noted .upTable n)
        (((s.noted .upTable n).answerNak .upTable n c).faultEvent .linkProtocol) :=
      .seq (only_answer _ _ _ _ _) (only_faultEvent _ _)
    refine ⟨only.tt (by decide), ?_, only.settings, only.le (by decide)⟩
    rw [(only_faultEvent _ _).ss (by decide), State.answerNak, answer_noted _ _ _ _ hin room, w8_eq]
    rfl

/-- An accepted table waits for its superframe. -/
theorem upTable_taken (h : s.upTableRefusal s.checkProfile (tableBody body e) = none) :
    ∃ u : State, exec (.upTable n 43 body) s = .next u.settle ∧ u.tt = { s.tt with upWaiting := u.tt.upWaiting }
      ∧ u.tt.upWaiting = some
          { table := List.zipWith (fun b (x : Byte) => { s := min 240 x.toNat, b := b, masked := false })
              (unpackCodes (body.take 13)) ((body.drop 13).take 26)
            seff := e, cap := Profile.cap s.checkProfile }
      ∧ u.ss.repeats.upTable = ⟨some n, .held true [0x7E, n, 0]⟩
      ∧ u.le = s.le ∧ u.ft = s.ft ∧ u.ports = s.ports ∧ u.cc = s.cc ∧ u.mu = s.mu ∧ u.sup = s.sup
      ∧ u.tu = s.tu ∧ u.fs = s.fs ∧ u.sts = s.sts ∧ u.settings = s.settings := by
  let t := (s.noted .upTable n).answerAck .upTable n []
  have only : Only [.ss] (s.noted .upTable n) t := only_answer _ _ _ _ _
  refine ⟨t.modTt fun t => { t with upWaiting := some ⟨((tableBody body e).bits.zip (tableBody body e).snr).map upTone, e,
    Profile.cap s.checkProfile⟩ }, ?_, ?_, ?_, ?_, only.le (by decide), only.ft (by decide), only.ports (by decide),
    only.cc (by decide), only.mu (by decide), only.sup (by decide), only.tu (by decide), only.fs (by decide), only.sts,
    only.settings⟩
  · rw [upTable_fresh awake hin hl he hr, h]
  · rw [State.modTt_tt, only.tt (by decide)]
    rfl
  · rw [State.modTt_tt, ← upTones_eq body e]
  · rw [State.modTt_ss, show t = (s.noted .upTable n).answer .upTable n true [] from rfl, answer_noted _ _ _ _ hin room]
    rfl

end

/-- Settles O47: RETRAIN and UP_TABLE by the rules of a far request, fresh, repeated and unread. -/
theorem retrainAndTableAnswered : Obligations.RetrainAndTableAnswered := by
  refine ⟨fun n s awake hin room => ⟨fun hr => ?_, fun positive msg hr => ?_, fun b => ?_⟩,
    fun n body e p bits s awake hin hl he hbits hp hr room => ⟨fun hover => ?_, fun hcap hbudget => ?_⟩⟩
  · have only := only_retrained s n
    exact ⟨s.retrained n, retrain_fresh n awake hin room hr, rfl, retrained_ss s n, only.tt (by decide),
      only.ft (by decide), only.ports (by decide), only.cc (by decide), only.mu (by decide), only.sup (by decide),
      only.tu (by decide), only.fs (by decide), only.plk (by decide), only.sts, only.settings⟩
  · rw [retrain_repeat n awake hin room hr, repeated_eq]
  · have only : Only [.ss, .fs, .plk] s ((s.retrainRefused n).faultEvent .linkProtocol) :=
      .seq (only_retrainRefused s n) (only_faultEvent _ _)
    exact ⟨_, retrain_unread n awake hin room b, only.le (by decide),
      ((only_faultEvent _ _).ss (by decide)).trans (retrainRefused_ss s n), only.settings, only.ports (by decide),
      only.cc (by decide), only.sts⟩
  · subst hbits hp
    exact upTable_refused awake hin room hl he hr (c := .cap) (upTableRefusal_cap hover)
  · subst hbits hp
    have refusal := upTableRefusal_within (s := s) (p := s.checkProfile) (u := tableBody body e) hcap hbudget
    refine ⟨fun h1 => ?_, fun h1 hlate => ?_, fun h1 hahead => ?_⟩
    · exact upTable_refused awake hin room hl he hr (c := .table) (refusal.trans (if_pos h1))
    · exact upTable_refused awake hin room hl he hr (c := .late)
        (refusal.trans ((if_neg h1).trans (if_neg (by simpa [tableBody] using hlate))))
    · exact upTable_taken awake hin room hl he hr
        (refusal.trans ((if_neg h1).trans (if_pos hahead)))

end Sys2Proof.Machine
end

section
/-!
PROOFS. A downstream superframe (R63 to R68): its slots and cells, what a cell is judged to be, and what each kind of
cell does to its partial unit.
-/

namespace Sys2Proof.Machine

-- One proof at a time: the text is compiled as one, and each proof that waits for the others holds a thread.
set_option Elab.async false

/-! ## A cell as bytes (R59) -/

/-- A cell that a unit is cut into: 1 to 60 bytes, 60 unless it ends the unit (R60). -/
structure Cell.Sound (c : Cell) : Prop where
  index : c.index < 16
  seq : c.seq < 256
  some : c.data ≠ []
  most : c.data.length ≤ 60
  full : c.fin = false → c.data.length = 60

/-- The head byte of a cell. -/
def cellHead (mgmt : Bool) (c : Cell) : Nat :=
  (if mgmt then 128 else 64) + (if c.start then 32 else 0) + (if c.fin then 16 else 0) + c.index

/-- The bytes of a cell before its check. -/
def cellBody (mgmt : Bool) (c : Cell) : List Byte :=
  BitVec.ofNat 8 (cellHead mgmt c) :: BitVec.ofNat 8 c.seq :: BitVec.ofNat 8 c.data.length
    :: (c.data ++ List.replicate 60 0).take 60

theorem cellBytes_eq (mgmt : Bool) (c : Cell) : cellBytes mgmt c = cellBody mgmt c ++ [crc8 (cellBody mgmt c)] := by
  simp [cellBytes, cellBody, cellHead, w8_eq]

theorem cellBody_length (mgmt : Bool) (c : Cell) : (cellBody mgmt c).length = 63 := by
  simp [cellBody]

/-- The check byte of what a cell is written as. -/
theorem checked_append (l : List Byte) (h : l.length = 63) :
    crc8 ((l ++ [crc8 l]).take 63) = ((l ++ [crc8 l])[63]?).getD 0 := by
  rw [← h, List.take_left, List.getElem?_concat_length]
  rfl

theorem readCell_cellBytes (mgmt : Bool) {c : Cell} (h : c.Sound) :
    readCell (cellBytes mgmt c) = (if mgmt then 2 else 1, c) := by
  obtain ⟨hi, hs, -, hm, -⟩ := h
  have head : (BitVec.ofNat 8 (cellHead mgmt c)).toNat = cellHead mgmt c := by
    rw [BitVec.toNat_ofNat]
    refine Nat.mod_eq_of_lt ?_
    unfold cellHead
    split <;> split <;> split <;> omega
  have data : (((cellBytes mgmt c).drop 3).take c.data.length) = c.data := by
    rw [cellBytes_eq]
    simp only [cellBody, List.cons_append, List.drop_succ_cons, List.drop_zero]
    rw [List.take_append_of_le_length (by simp; omega), List.take_take, Nat.min_eq_left hm, List.take_left]
  have used : (BitVec.ofNat 8 c.data.length).toNat = c.data.length := by
    rw [BitVec.toNat_ofNat]
    omega
  have seq : (BitVec.ofNat 8 c.seq).toNat = c.seq := by
    rw [BitVec.toNat_ofNat]
    omega
  have bytes : ((cellBytes mgmt c)[0]?).getD 0 = BitVec.ofNat 8 (cellHead mgmt c)
      ∧ ((cellBytes mgmt c)[1]?).getD 0 = BitVec.ofNat 8 c.seq
      ∧ ((cellBytes mgmt c)[2]?).getD 0 = BitVec.ofNat 8 c.data.length := by
    rw [cellBytes_eq]
    exact ⟨rfl, rfl, rfl⟩
  obtain ⟨b0, b1, b2⟩ := bytes
  unfold readCell
  rw [b0, b1, b2, head, used, seq]
  dsimp only
  rw [data]
  obtain ⟨start, fin, index, seq, data⟩ := c
  cases mgmt <;> cases start <;> cases fin <;> simp [cellHead] <;> simp at hi <;> omega

/-! ## A cell as judged (R63) -/

section
variable {s : State} (l : List Byte)

theorem takeCell_out (h : s.le.link ≠ .inService) : s.takeCell l = s := if_pos (by simpa [State.inService] using h)

theorem takeCell_failed (h : s.le.link = .inService) (hc : crc8 (l.take 63) ≠ (l[63]?).getD 0) :
    s.takeCell l = (s.modCounts fun n => { n with checkFails := inc32 n.checkFails }).dropForCheck := by
  unfold State.takeCell
  rw [if_neg (by simp [State.inService, h]), if_pos hc]

/-- A cell whose check holds, by its kind and its used count. -/
theorem takeCell_checked (hc : crc8 (l.take 63) = (l[63]?).getD 0) (h : s.le.link = .inService) : s.takeCell l =
    if (readCell l).1 = 0 then s
    else if (readCell l).1 = 3 ∨ ((l[2]?).getD 0).toNat = 0 ∨ 60 < ((l[2]?).getD 0).toNat
        ∨ (((l[2]?).getD 0).toNat < 60 ∧ (readCell l).2.fin = false) then
      (s.modCounts fun n => { n with formatFaults := inc32 n.formatFaults }).dropForCheck
    else if (readCell l).1 = 1 then s.dataCell (readCell l).2 else s.mgmtCell (readCell l).2 := by
  unfold State.takeCell
  rw [if_neg (by simp [State.inService, h]), if_neg (by simp [hc])]

/-- A fault of the format: the kind 11, a used count of 0 or above 60, or one below 60 without END. -/
theorem takeCell_misformed (h : s.le.link = .inService) (hc : crc8 (l.take 63) = (l[63]?).getD 0) {head used : Nat}
    (hh : head = ((l[0]?).getD 0).toNat) (hu : used = ((l[2]?).getD 0).toNat)
    (hbad : 192 ≤ head ∨ (64 ≤ head ∧ (used = 0 ∨ 60 < used ∨ (used < 60 ∧ head % 32 < 16)))) :
    s.takeCell l = (s.modCounts fun n => { n with formatFaults := inc32 n.formatFaults }).dropForCheck := by
  have small := ((l[0]?).getD 0).isLt
  have kind : (readCell l).1 = head / 64 := by rw [hh]; rfl
  have fin : (readCell l).2.fin = decide (16 ≤ head % 32) := by rw [hh]; rfl
  rw [takeCell_checked l hc h, kind, fin, ← hu, if_neg (by omega), if_pos]
  simp only [decide_eq_false_iff_not]
  omega

theorem takeCell_idle (hc : crc8 (l.take 63) = (l[63]?).getD 0) (hh : ((l[0]?).getD 0).toNat < 64) : s.takeCell l = s := by
  by_cases h : s.le.link = .inService
  · rw [takeCell_checked l hc h, if_pos]
    show ((l[0]?).getD 0).toNat / 64 = 0
    omega
  · exact takeCell_out l h

theorem takeCell_idleCell : s.takeCell idleCell = s :=
  takeCell_idle idleCell (checked_append (List.replicate 63 0) rfl) (by decide)

/-- A sound cell goes by its kind. -/
theorem takeCell_cellBytes (h : s.le.link = .inService) (mgmt : Bool) {c : Cell} (sound : c.Sound) :
    s.takeCell (cellBytes mgmt c) = if mgmt then s.mgmtCell c else s.dataCell c := by
  have check : crc8 ((cellBytes mgmt c).take 63) = ((cellBytes mgmt c)[63]?).getD 0 := by
    rw [cellBytes_eq]
    exact checked_append _ (cellBody_length mgmt c)
  have used : (((cellBytes mgmt c)[2]?).getD 0).toNat = c.data.length := by
    have := sound.most
    rw [cellBytes_eq]
    show (BitVec.ofNat 8 c.data.length).toNat = _
    rw [BitVec.toNat_ofNat]
    omega
  have nonempty : c.data.length ≠ 0 := by simpa using sound.some
  have most := sound.most
  rw [takeCell_checked _ check h, readCell_cellBytes mgmt sound, used, if_neg (by cases mgmt <;> simp), if_neg]
  · cases mgmt <;> simp
  · rintro (hk | hk | hk | ⟨hk, hf⟩)
    · cases mgmt <;> simp at hk
    · exact nonempty hk
    · omega
    · have := sound.full hf
      omega

theorem dropForCheck_eq (f : SsCounts → SsCounts) (hf : (f s.ss.counts).unitsCheck = s.ss.counts.unitsCheck) :
    (s.modCounts f).dropForCheck = { s with ss := { s.ss with
      dataPartial := none, mgmtPartial := none
      counts := { f s.ss.counts with
        unitsCheck := add32 s.ss.counts.unitsCheck
          ((if s.ss.dataPartial = none then 0 else 1) + (if s.ss.mgmtPartial = none then 0 else 1)) } } } := by
  unfold State.dropForCheck
  cases hd : s.ss.dataPartial <;> cases hm : s.ss.mgmtPartial <;>
    simp [State.modCounts, State.modSs, hd, hm, hf]

end

/-! ## What a cell of each kind does (R64 to R66) -/

section
variable {s : State} {c : Cell}

theorem fitCell_start (limit : Nat) (p : Option Partial) (h : c.start = true) :
    fitCell limit p c = if c.index = 0 then .begins p.isSome else .badStart p.isSome := if_pos h

theorem fitCell_orphan (limit : Nat) (h : c.start = false) : fitCell limit none c = .orphan := if_neg (by simp [h])

theorem fitCell_joins (limit : Nat) (p : Partial) (h : c.start = false) : fitCell limit (some p) c =
    if c.seq ≠ p.seq ∨ c.index ≠ p.nextIndex then .outOfOrder
    else if limit < p.bytes.length + c.data.length then .tooLong
    else .joins { p with nextIndex := (p.nextIndex + 1) % 16, cells := p.cells + 1, bytes := p.bytes ++ c.data } :=
  if_neg (by simp [h])

/-- The cells the complete units hold in the pool (R65). -/
theorem poolUsed_eq (s : State) :
    s.poolUsed = Partial.count s.ss.dataPartial + (s.plk.dataDown.map fun u => (u.length + 59) / 60).sum := rfl

theorem keepData_eq (s : State) (c : Cell) (p : Partial) : s.keepData c p = { s with
    ss := { s.ss with dataPartial := if c.fin then none else some p }
    plk := { s.plk with dataDown := s.plk.dataDown ++ if c.fin then [p.bytes] else [] } } := by
  unfold State.keepData
  cases c.fin
  · simp [State.modSs]
  · rfl

/-- A DATA cell with host power off is not kept; one that begins a unit counts it (R66). -/
theorem dataCell_off (h : s.sup.procPwr = false) : s.dataCell c = if c.start then
    { s with ss := { s.ss with counts := { s.ss.counts with unitsPower := inc32 s.ss.counts.unitsPower } } } else s := by
  unfold State.dataCell
  rw [if_pos (by simp [h])]
  rfl

variable (on : s.sup.procPwr = true)
include on

theorem dataCell_begins {b : Bool} (h : fitCell 1600 s.ss.dataPartial c = .begins b) {t : State}
    (ht : t = { s with ss := { s.ss with dataPartial := none, counts := s.ss.counts.sequence (if b then 1 else 0) 0 } }) :
    s.dataCell c = if (s.plk.dataDown.map fun u => (u.length + 59) / 60).sum < 64 then t.keepData c (Partial.start c)
      else t.noRoomDown := by
  subst ht
  unfold State.dataCell
  rw [if_neg (by simp [on])]
  dsimp only
  rw [h]
  dsimp only
  rw [poolUsed_eq]
  simp only [State.modCounts, State.modSs, Partial.count, Option.map_none, Option.getD_none, Nat.zero_add, Config.poolCells]

theorem dataCell_badStart {b : Bool} (h : fitCell 1600 s.ss.dataPartial c = .badStart b) : s.dataCell c =
    { s with ss := { s.ss with dataPartial := none, counts := s.ss.counts.sequence (if b then 1 else 0) 1 } } := by
  unfold State.dataCell
  rw [if_neg (by simp [on])]
  dsimp only
  rw [h]
  rfl

theorem dataCell_orphan (h : fitCell 1600 s.ss.dataPartial c = .orphan) : s.dataCell c =
    { s with ss := { s.ss with counts := { s.ss.counts with orphans := inc32 s.ss.counts.orphans } } } := by
  unfold State.dataCell
  rw [if_neg (by simp [on])]
  dsimp only
  rw [h]
  rfl

theorem dataCell_outOfOrder (h : fitCell 1600 s.ss.dataPartial c = .outOfOrder) : s.dataCell c =
    { s with ss := { s.ss with dataPartial := none, counts := s.ss.counts.sequence 1 1 } } := by
  unfold State.dataCell
  rw [if_neg (by simp [on])]
  dsimp only
  rw [h]
  rfl

theorem dataCell_tooLong (h : fitCell 1600 s.ss.dataPartial c = .tooLong) : s.dataCell c = { s with ss := { s.ss with
    dataPartial := none, counts := { s.ss.counts with unitsLong := inc32 s.ss.counts.unitsLong } } } := by
  unfold State.dataCell
  rw [if_neg (by simp [on])]
  dsimp only
  rw [h]
  rfl

theorem dataCell_joins {p q : Partial} (h : fitCell 1600 s.ss.dataPartial c = .joins q) (hp : s.ss.dataPartial = some p) :
    s.dataCell c = if p.cells + (s.plk.dataDown.map fun u => (u.length + 59) / 60).sum < 64 then s.keepData c q
      else s.noRoomDown := by
  unfold State.dataCell
  rw [if_neg (by simp [on])]
  dsimp only
  rw [h]
  dsimp only
  rw [poolUsed_eq, hp]
  rfl

end

section
variable {s : State} {c : Cell}

theorem mgmtCell_begins {b : Bool} (h : fitCell 120 s.ss.mgmtPartial c = .begins b) : s.mgmtCell c = State.keepMgmt
    { s with ss := { s.ss with mgmtPartial := none, counts := s.ss.counts.sequence (if b then 1 else 0) 0 } }
    c (Partial.start c) := by
  unfold State.mgmtCell
  dsimp only
  rw [h]
  rfl

theorem mgmtCell_badStart {b : Bool} (h : fitCell 120 s.ss.mgmtPartial c = .badStart b) : s.mgmtCell c =
    { s with ss := { s.ss with mgmtPartial := none, counts := s.ss.counts.sequence (if b then 1 else 0) 1 } } := by
  unfold State.mgmtCell
  dsimp only
  rw [h]
  rfl

theorem mgmtCell_orphan (h : fitCell 120 s.ss.mgmtPartial c = .orphan) : s.mgmtCell c =
    { s with ss := { s.ss with counts := { s.ss.counts with orphans := inc32 s.ss.counts.orphans } } } := by
  unfold State.mgmtCell
  dsimp only
  rw [h]
  rfl

theorem mgmtCell_outOfOrder (h : fitCell 120 s.ss.mgmtPartial c = .outOfOrder) : s.mgmtCell c =
    { s with ss := { s.ss with mgmtPartial := none, counts := s.ss.counts.sequence 1 1 } } := by
  unfold State.mgmtCell
  dsimp only
  rw [h]
  rfl

theorem mgmtCell_tooLong (h : fitCell 120 s.ss.mgmtPartial c = .tooLong) : s.mgmtCell c = { s with ss := { s.ss with
    mgmtPartial := none, counts := { s.ss.counts with unitsLong := inc32 s.ss.counts.unitsLong } } } := by
  unfold State.mgmtCell
  dsimp only
  rw [h]
  rfl

theorem mgmtCell_joins {q : Partial} (h : fitCell 120 s.ss.mgmtPartial c = .joins q) :
    s.mgmtCell c = s.keepMgmt c q := by
  unfold State.mgmtCell
  dsimp only
  rw [h]

theorem keepMgmt_last (p : Partial) (h : c.fin = true) :
    s.keepMgmt c p = State.takeMessage { s with ss := { s.ss with mgmtPartial := none } } p.bytes := if_pos h

theorem keepMgmt_more (p : Partial) (h : c.fin = false) :
    s.keepMgmt c p = { s with ss := { s.ss with mgmtPartial := some p } } := if_neg (by simp [h])

end

/-! ## Voice slots and whole cells (R57, R63) -/

theorem fitSlots_cons (n : Nat) (x : Slot) (l : List Slot) : fitSlots n (x :: l) =
    if codingBytes x.coding ≤ n then x :: fitSlots (n - codingBytes x.coding) l else [] := rfl

theorem fitBytes_length (n : Nat) (l : List Byte) : (fitBytes n l).length = n := by
  simp [fitBytes]

/-- The whole cells at the head of some bytes. -/
theorem chunks_spec (k : Nat) (l : List Byte) (hk : l.length / 64 ≤ k) : (chunks k l).length = l.length / 64
    ∧ ∀ j, j < (chunks k l).length → (chunks k l)[j]? = some ((l.drop (64 * j)).take 64) := by
  induction k generalizing l with
  | zero =>
    have : l.length / 64 = 0 := by omega
    exact ⟨this.symm, fun j hj => absurd hj (Nat.not_lt_zero j)⟩
  | succ k ih =>
    unfold chunks
    split
    · rename_i hshort
      have : l.length / 64 = 0 := by omega
      exact ⟨this.symm, fun j hj => absurd hj (Nat.not_lt_zero j)⟩
    · rename_i hlong
      obtain ⟨hlen, hget⟩ := ih (l.drop 64) (by simp; omega)
      refine ⟨by simp [hlen]; omega, fun j hj => ?_⟩
      cases j with
      | zero => simp
      | succ j =>
        rw [List.getElem?_cons_succ, hget j (by simpa using hj), List.drop_drop]
        congr 3
        omega

section
variable {s : State}

theorem port_modPort_ne (s : State) {p q : Port} (f : PP → PP) (h : q ≠ p) : (s.modPort q f).port p = s.port p := by
  cases p <;> cases q
  · exact absurd rfl h
  · rfl
  · rfl
  · exact absurd rfl h

/-- Giving the slots their bytes writes the ports' voice alone. -/
theorem giveVoice_ports (slots : List Slot) (l : List Byte) : s.giveVoice slots l = { s with ports := (s.giveVoice slots l).ports }
    ∧ ∀ p, (s.giveVoice slots l).port p = { s.port p with voice := ((s.giveVoice slots l).port p).voice } := by
  induction slots generalizing s l with
  | nil => exact ⟨rfl, fun _ => rfl⟩
  | cons x t ih =>
    unfold State.giveVoice
    dsimp only
    split
    · obtain ⟨h1, h2⟩ := ih (s := s.modPort x.port fun p => { p with voice := some (l.take (codingBytes x.coding)) })
        (l.drop (codingBytes x.coding))
      refine ⟨h1.trans rfl, fun p => (h2 p).trans ?_⟩
      cases p <;> cases x.port <;> rfl
    · exact ih _

/-- A port no slot names keeps its voice. -/
theorem giveVoice_other (slots : List Slot) (l : List Byte) (p : Port)
    (h : (s.port p).audio ≠ .line ∨ ∀ x ∈ slots, x.port ≠ p) :
    ((s.giveVoice slots l).port p).voice = (s.port p).voice := by
  induction slots generalizing s l with
  | nil => rfl
  | cons x t ih =>
    unfold State.giveVoice
    dsimp only
    split
    · rename_i line
      have other : x.port ≠ p := by
        rcases h with h | h
        · rintro rfl
          exact h line
        · exact h x (List.mem_cons_self)
      have kept : (s.modPort x.port fun q => { q with voice := some (l.take (codingBytes x.coding)) }).port p = s.port p :=
        port_modPort_ne s _ other
      rw [ih, kept]
      rw [kept]
      exact h.imp id fun h y hy => h y (List.mem_cons_of_mem _ hy)
    · exact ih _ (h.imp id fun h y hy => h y (List.mem_cons_of_mem _ hy))

/-- The last slot of a port that listens to the line gives it its bytes. -/
theorem giveVoice_slot (before : List Slot) (x : Slot) (after : List Slot) (l : List Byte)
    (hlast : ∀ y ∈ after, y.port ≠ x.port) (hline : (s.port x.port).audio = .line) :
    ((s.giveVoice (before ++ x :: after) l).port x.port).voice
      = some ((l.drop (before.map fun y => codingBytes y.coding).sum).take (codingBytes x.coding)) := by
  induction before generalizing s l with
  | nil =>
    rw [List.nil_append]
    unfold State.giveVoice
    dsimp only
    rw [if_pos hline, giveVoice_other _ _ _ (.inr hlast)]
    cases x.port <;> rfl
  | cons y t ih =>
    rw [List.cons_append]
    unfold State.giveVoice
    dsimp only
    rw [ih]
    · simp [List.drop_drop]
    · split
      · revert hline
        cases y.port <;> cases x.port <;> exact id
      · exact hline

end

/-! ## The superframe as a whole (R63) -/

section
variable (s : State) (payload : List Byte)

/-- The ports' voice, silent but for the slots. -/
def State.voiced (s : State) (payload : List Byte) : State :=
  ((s.modPort .a fun p => { p with voice := none }).modPort .b fun p => { p with voice := none }).giveVoice
    (fitSlots (payloadBytes (total s.tt.down) s.emptied) s.ss.slots)
    (fitBytes (payloadBytes (total s.tt.down) s.emptied) payload)

theorem silenced_port (p : Port) :
    ((s.modPort .a fun p => { p with voice := none }).modPort .b fun p => { p with voice := none }).port p
      = { s.port p with voice := none } := by
  cases p <;> rfl

/-- The bytes the slots take of the payload. -/
def slotsUsed (slots : List Slot) : Nat := (slots.map fun x => codingBytes x.coding).sum

/-- The first part of O44: the superframe by its slots and its cells. -/
theorem downstream_taken (awake : s.dormant = false) (hin : s.le.link = .inService) :
    ∃ (n used : Nat) (l : List Byte) (slots : List Slot) (cells : List (List Byte)) (v w : State),
      n = (s.tt.down.map (·.b)).sum * (39 - s.emptied) / 8 ∧ l = (payload ++ List.replicate n 0).take n
      ∧ slots = fitSlots n s.ss.slots ∧ used = (slots.map fun x => codingBytes x.coding).sum
      ∧ cells.length = (n - used) / 64
      ∧ (∀ k, k < cells.length → cells[k]? = some ((l.drop (used + 64 * k)).take 64))
      ∧ v = { s with ports := v.ports }
      ∧ (∀ p, v.port p = { s.port p with voice := (v.port p).voice })
      ∧ (∀ p, (s.port p).audio ≠ .line ∨ (∀ x ∈ slots, x.port ≠ p) → (v.port p).voice = none)
      ∧ (∀ before x after, slots = before ++ x :: after → (∀ y ∈ after, y.port ≠ x.port) →
          (s.port x.port).audio = .line → (v.port x.port).voice
            = some ((l.drop (before.map fun y => codingBytes y.coding).sum).take (codingBytes x.coding)))
      ∧ w = cells.foldl State.takeCell v
      ∧ (w.le.link = .inService → exec (.downstreamSuperframe payload) s = .next (State.settle
          { w with le := { w.le with
              sf := w.le.sf + 1, sfStart := w.le.sfStart + 40
              evalDue := w.le.evalDue || (w.le.sf + 1).toNat % 100 == 0 } }))
      ∧ (w.le.link ≠ .inService → exec (.downstreamSuperframe payload) s = .next w.settle) := by
  let n := payloadBytes (total s.tt.down) s.emptied
  let l := fitBytes n payload
  let slots := fitSlots n s.ss.slots
  let cells := chunks (n / 64) (l.drop (slotsUsed slots))
  let w := cells.foldl State.takeCell (s.voiced payload)
  have len : (l.drop (slotsUsed slots)).length = n - slotsUsed slots := by rw [List.length_drop, fitBytes_length]
  obtain ⟨clen, cget⟩ := chunks_spec (n / 64) (l.drop (slotsUsed slots)) (by rw [len]; omega)
  obtain ⟨vports, vport⟩ := giveVoice_ports
    (s := (s.modPort .a fun p => { p with voice := none }).modPort .b fun p => { p with voice := none }) slots l
  have run : exec (.downstreamSuperframe payload) s = .next (s.takeDown payload).settle :=
    congrArg _ ((live_awake s _ awake).trans (by rw [if_pos (by simp [State.inService, hin])]))
  have taken : s.takeDown payload = if w.inService then w.modLe fun x => { x with
      sf := x.sf + 1, sfStart := x.sfStart + 40, evalDue := x.evalDue || (x.sf + 1).toNat % 100 == 0 } else w := rfl
  refine ⟨n, slotsUsed slots, l, slots, cells, s.voiced payload, w, rfl, rfl, rfl, rfl, clen.trans (by rw [len]),
    fun k hk => (cget k hk).trans (by rw [List.drop_drop]), vports, fun p => ?_, fun p h => ?_, fun before x after hs hl hline => ?_,
    rfl, fun hw => ?_, fun hw => ?_⟩
  · exact (vport p).trans (by rw [silenced_port]; rfl)
  · have kept := giveVoice_other (s := (s.modPort .a fun p => { p with voice := none }).modPort .b
      fun p => { p with voice := none }) slots l p (by rw [silenced_port]; exact h)
    exact kept.trans (by rw [silenced_port])
  · have given := giveVoice_slot (s := (s.modPort .a fun p => { p with voice := none }).modPort .b
      fun p => { p with voice := none }) before x after l hl (by rw [silenced_port]; exact hline)
    rw [← hs] at given
    exact given
  · have stays : w.inService = true := beq_iff_eq.mpr hw
    rw [run, taken, if_pos stays]
    rfl
  · rw [run, taken, if_neg (fun h : w.inService = true => hw (beq_iff_eq.mp h))]

end

/-! ## Messages by their type (R68) -/

/-- A complete unit goes to the command of its type. -/
theorem takeMessage_command (t n l : Byte) (body : List Byte) (c : Instr) (s : State) (awake : s.dormant = false)
    (h : (t = 0x7E ∧ c = .ack n l body) ∨ (t = 0x7F ∧ c = .nak n l body) ∨ (t = 0x50 ∧ c = .alert n l body)
      ∨ (t = 0x51 ∧ c = .clear n l body) ∨ (t = 0x52 ∧ c = .answered n l body) ∨ (t = 0x60 ∧ c = .upTable n l body)
      ∨ (t = 0x61 ∧ c = .retrain n l body) ∨ (t = 0x70 ∧ c = .testReq n l body)
      ∨ (t = 0x78 ∧ c = .beaconClear n l body) ∨ (knownType t = false ∧ c = .unknownTypeMessage t n l body)) :
    exec c s = .next (s.takeMessage (t :: n :: l :: body)).settle := by
  rcases h with ⟨rfl, rfl⟩ | ⟨rfl, rfl⟩ | ⟨rfl, rfl⟩ | ⟨rfl, rfl⟩ | ⟨rfl, rfl⟩ | ⟨rfl, rfl⟩ | ⟨rfl, rfl⟩ | ⟨rfl, rfl⟩
    | ⟨rfl, rfl⟩ | ⟨hk, rfl⟩
  iterate 9 exact congrArg _ ((live_awake s _ awake).trans rfl)
  · refine congrArg _ ((live_awake s _ awake).trans (congrArg _ ?_))
    rw [if_neg (by simp [hk])]
    simp only [knownType, Bool.or_eq_false_iff, beq_eq_false_iff_ne, Option.isSome_eq_false_iff,
      Option.isNone_iff_eq_none] at hk
    obtain ⟨⟨hack, hnak⟩, hcode⟩ := hk
    unfold State.takeMessage
    dsimp only
    rw [if_neg hack, if_neg hnak, hcode]

/-! ## The parts of O44 about one cell -/

theorem units_isSome (o : Option Partial) : (if o.isSome then 1 else 0) = if o = none then 0 else 1 := by
  cases o <;> simp

section
variable {s : State} {c : Cell} (h : s.le.link = .inService) (sound : c.Sound)
include h sound

theorem dataCell_taken : s.takeCell (cellBytes false c) = s.dataCell c := takeCell_cellBytes h false sound

theorem mgmtCell_taken : s.takeCell (cellBytes true c) = s.mgmtCell c := takeCell_cellBytes h true sound

end

/-- A DATA cell that starts a unit (R64, R65). -/
theorem dataCell_starts {s : State} {c : Cell} {waits : Nat} (hs : c.start = true) (on : s.sup.procPwr = true)
    (hw : waits = (s.plk.dataDown.map fun u => (u.length + 59) / 60).sum) :
    (c.index = 0 → waits < 64 → s.dataCell c =
      { s with
        ss := { s.ss with
          dataPartial := if c.fin then none else some { seq := c.seq, nextIndex := 1, cells := 1, bytes := c.data }
          counts := { s.ss.counts with
            unitsSequence := add32 s.ss.counts.unitsSequence (if s.ss.dataPartial = none then 0 else 1)
            cellsSequence := add32 s.ss.counts.cellsSequence 0 } }
        plk := { s.plk with dataDown := s.plk.dataDown ++ if c.fin then [c.data] else [] } })
    ∧ (c.index = 0 → 64 ≤ waits → s.dataCell c =
      { s with ss := { s.ss with
          dataPartial := none
          counts := { s.ss.counts with
            unitsSequence := add32 s.ss.counts.unitsSequence (if s.ss.dataPartial = none then 0 else 1)
            cellsSequence := add32 s.ss.counts.cellsSequence 0, unitsRoom := inc32 s.ss.counts.unitsRoom } } })
    ∧ (c.index ≠ 0 → s.dataCell c =
      { s with ss := { s.ss with
          dataPartial := none
          counts := { s.ss.counts with
            unitsSequence := add32 s.ss.counts.unitsSequence (if s.ss.dataPartial = none then 0 else 1)
            cellsSequence := add32 s.ss.counts.cellsSequence 1 } } }) := by
  have fit := fitCell_start 1600 s.ss.dataPartial hs
  refine ⟨fun hi hlt => ?_, fun hi hge => ?_, fun hi => ?_⟩
  · rw [dataCell_begins on (fit.trans (if_pos hi)) rfl, if_pos (hw ▸ hlt), keepData_eq, units_isSome]
    rfl
  · rw [dataCell_begins on (fit.trans (if_pos hi)) rfl, if_neg (by omega), units_isSome]
    rfl
  · rw [dataCell_badStart on (fit.trans (if_neg hi)), units_isSome]
    rfl

/-- A DATA cell that meets a partial unit (R64, R65). -/
theorem dataCell_continues {s : State} {c : Cell} {p : Partial} {waits : Nat} (hs : c.start = false)
    (on : s.sup.procPwr = true) (hp : s.ss.dataPartial = some p)
    (hw : waits = (s.plk.dataDown.map fun u => (u.length + 59) / 60).sum) :
    (c.seq ≠ p.seq ∨ c.index ≠ p.nextIndex → s.dataCell c =
      { s with ss := { s.ss with
          dataPartial := none
          counts := { s.ss.counts with
            unitsSequence := add32 s.ss.counts.unitsSequence 1
            cellsSequence := add32 s.ss.counts.cellsSequence 1 } } })
    ∧ (c.seq = p.seq → c.index = p.nextIndex → 1600 < p.bytes.length + c.data.length → s.dataCell c =
        { s with ss := { s.ss with
            dataPartial := none
            counts := { s.ss.counts with unitsLong := inc32 s.ss.counts.unitsLong } } })
    ∧ (c.seq = p.seq → c.index = p.nextIndex → p.bytes.length + c.data.length ≤ 1600 → 64 ≤ p.cells + waits →
      s.dataCell c =
        { s with ss := { s.ss with
            dataPartial := none
            counts := { s.ss.counts with unitsRoom := inc32 s.ss.counts.unitsRoom } } })
    ∧ (c.seq = p.seq → c.index = p.nextIndex → p.bytes.length + c.data.length ≤ 1600 → p.cells + waits < 64 →
      s.dataCell c =
        { s with
          ss := { s.ss with
            dataPartial := if c.fin then none else some { p with
              nextIndex := (p.nextIndex + 1) % 16, cells := p.cells + 1, bytes := p.bytes ++ c.data } }
          plk := { s.plk with dataDown := s.plk.dataDown ++ if c.fin then [p.bytes ++ c.data] else [] } }) := by
  have fit := fitCell_joins 1600 p hs
  rw [← hp] at fit
  have joins (h1 : c.seq = p.seq) (h2 : c.index = p.nextIndex) (h3 : p.bytes.length + c.data.length ≤ 1600) :=
    fit.trans ((if_neg (by simp [h1, h2])).trans (if_neg (by omega)))
  refine ⟨fun h => ?_, fun h1 h2 h3 => ?_, fun h1 h2 h3 h4 => ?_, fun h1 h2 h3 h4 => ?_⟩
  · exact (dataCell_outOfOrder on (fit.trans (if_pos h))).trans rfl
  · exact dataCell_tooLong on (fit.trans ((if_neg (by simp [h1, h2])).trans (if_pos h3)))
  · rw [dataCell_joins on (joins h1 h2 h3) hp, if_neg (by omega)]
    rfl
  · rw [dataCell_joins on (joins h1 h2 h3) hp, if_pos (by omega), keepData_eq]

/-- A MGMT cell that starts a unit (R64, R68). -/
theorem mgmtCell_starts {s v w : State} {c : Cell} (hs : c.start = true)
    (hv : v = { s with ss := { s.ss with mgmtPartial := none } })
    (hw : w = { v with ss := { v.ss with counts := { v.ss.counts with
      unitsSequence := add32 v.ss.counts.unitsSequence (if s.ss.mgmtPartial = none then 0 else 1)
      cellsSequence := add32 v.ss.counts.cellsSequence (if c.index = 0 then 0 else 1) } } }) :
    (c.index ≠ 0 → s.mgmtCell c = w)
    ∧ (c.index = 0 → c.fin = true → s.mgmtCell c = w.takeMessage c.data)
    ∧ (c.index = 0 → c.fin = false → s.mgmtCell c = { w with ss := { w.ss with
        mgmtPartial := some { seq := c.seq, nextIndex := 1, cells := 1, bytes := c.data } } }) := by
  have fit := fitCell_start 120 s.ss.mgmtPartial hs
  subst hv
  refine ⟨fun hi => ?_, fun hi hf => ?_, fun hi hf => ?_⟩
  · rw [mgmtCell_badStart (fit.trans (if_neg hi)), units_isSome, hw, if_neg hi]
    rfl
  · rw [mgmtCell_begins (fit.trans (if_pos hi)), keepMgmt_last _ hf, units_isSome, hw, if_pos hi]
    rfl
  · rw [mgmtCell_begins (fit.trans (if_pos hi)), keepMgmt_more _ hf, units_isSome, hw, if_pos hi]
    rfl

/-- A MGMT cell that meets a partial unit (R64, R68). -/
theorem mgmtCell_continues {s v : State} {c : Cell} {p : Partial} (hs : c.start = false)
    (hp : s.ss.mgmtPartial = some p) (hv : v = { s with ss := { s.ss with mgmtPartial := none } }) :
    (c.seq ≠ p.seq ∨ c.index ≠ p.nextIndex → s.mgmtCell c =
      { v with ss := { v.ss with counts := { v.ss.counts with
          unitsSequence := add32 v.ss.counts.unitsSequence 1
          cellsSequence := add32 v.ss.counts.cellsSequence 1 } } })
    ∧ (c.seq = p.seq → c.index = p.nextIndex → 120 < p.bytes.length + c.data.length →
      s.mgmtCell c = { v with ss := { v.ss with counts := { v.ss.counts with
        unitsLong := inc32 v.ss.counts.unitsLong } } })
    ∧ (c.seq = p.seq → c.index = p.nextIndex → p.bytes.length + c.data.length ≤ 120 → c.fin = true →
      s.mgmtCell c = v.takeMessage (p.bytes ++ c.data))
    ∧ (c.seq = p.seq → c.index = p.nextIndex → p.bytes.length + c.data.length ≤ 120 → c.fin = false →
      s.mgmtCell c = { s with ss := { s.ss with mgmtPartial := some { p with
        nextIndex := (p.nextIndex + 1) % 16, cells := p.cells + 1, bytes := p.bytes ++ c.data } } }) := by
  have fit := fitCell_joins 120 p hs
  rw [← hp] at fit
  have joins (h1 : c.seq = p.seq) (h2 : c.index = p.nextIndex) (h3 : p.bytes.length + c.data.length ≤ 120) :=
    fit.trans ((if_neg (by simp [h1, h2])).trans (if_neg (by omega)))
  subst hv
  refine ⟨fun h => ?_, fun h1 h2 h3 => ?_, fun h1 h2 h3 hf => ?_, fun h1 h2 h3 hf => ?_⟩
  · exact (mgmtCell_outOfOrder (fit.trans (if_pos h))).trans rfl
  · exact mgmtCell_tooLong (fit.trans ((if_neg (by simp [h1, h2])).trans (if_pos h3)))
  · rw [mgmtCell_joins (joins h1 h2 h3), keepMgmt_last _ hf]
  · rw [mgmtCell_joins (joins h1 h2 h3), keepMgmt_more _ hf]

/-- Settles O44: `downstream_taken` for the superframe, the judgement of a cell by `takeCell_checked`, and each kind of
cell by what `fitCell` makes of it. -/
theorem downstreamIsTaken : Obligations.DownstreamIsTaken := by
  refine ⟨fun payload s awake => ⟨fun h => ?_, downstream_taken s payload awake⟩,
    ⟨rfl, rfl, fun n => ⟨rfl, fun x l => ⟨fun h => ?_, fun h => ?_⟩⟩⟩, fun l head used s hh hu => ?_,
    fun c waits s h hi hq hd hm hf hw => ?_, fun c s v h hi hq hd hm hf hv => ?_, takeMessage_command⟩
  · exact congrArg _ ((live_awake s _ awake).trans (by rw [if_neg (by simpa [State.inService] using h)]))
  · rw [fitSlots_cons, if_pos h]
  · rw [fitSlots_cons, if_neg (by omega)]
  · refine ⟨takeCell_out l, fun h hc => ?_, fun h hc hbad => ?_, fun hc hidle => takeCell_idle l hc (hh ▸ hidle),
      takeCell_idleCell⟩
    · rw [takeCell_failed l h hc, dropForCheck_eq _ rfl]
    · rw [takeCell_misformed l h hc hh hu hbad, dropForCheck_eq _ rfl]
  · rw [dataCell_taken h ⟨hi, hq, hd, hm, hf⟩]
    refine ⟨dataCell_off, fun on hs => (dataCell_starts hs on hw).1, fun on hs => (dataCell_starts hs on hw).2.1,
      fun on hs => (dataCell_starts hs on hw).2.2, fun on hs hp => dataCell_orphan on ?_, fun p on hs hp =>
      dataCell_continues hs on hp hw⟩
    rw [hp]
    exact fitCell_orphan _ hs
  · rw [mgmtCell_taken h ⟨hi, hq, hd, hm, hf⟩]
    refine ⟨fun hs w hw => mgmtCell_starts hs hv hw, fun hs hp => mgmtCell_orphan ?_, fun p hs hp =>
      mgmtCell_continues hs hp hv⟩
    rw [hp]
    exact fitCell_orphan _ hs

end Sys2Proof.Machine
end

section
/-!
PROOFS. The laws at a step's end (log 6): the profile and the need (R18, R38), the calls' laws (R101, R105, R113), the
gate requests (R48, R51), the owed marks and end reports (R162, R163), and the host's power (R66, R136, R176).
-/

namespace Sys2Proof.Machine

-- One proof at a time: the text is compiled as one, and each proof that waits for the others holds a thread.
set_option Elab.async false

/-! ## RATE (R34) -/

section
variable (s : State)

/-- A request adds to the transaction list at its end, or leaves it. -/
theorem requestTx_extends (k : TxKind) (p : Option Port) (body : List Byte) (tag : Nat) :
    ∃ l, (s.requestTx k p body tag).ss.txs.map (·.req) = s.ss.txs.map (·.req) ++ l := by
  unfold State.requestTx
  dsimp only
  split
  · exact ⟨_, grant_txs s _⟩
  · exact ⟨[], (List.append_nil _).symm⟩

/-- A computed table is read from these parts of the state (R27 to R29). -/
theorem computeDown_congr {s t : State} (hset : t.settings = s.settings) (hred : t.le.reduction = s.le.reduction)
    (hcc : t.cc = s.cc) (hft : t.ft = s.ft) (hdown : t.tt.down = s.tt.down) (mask : List Bool) (p : Profile) :
    t.computeDown mask p = s.computeDown mask p := by
  unfold State.computeDown State.loadDown State.budget State.need State.agreedWidth State.margin State.marginDb
  rw [hset, hred, hcc, hft, hdown]

/-- What a RATE in flight says. -/
def State.rateMsg (s : State) (r : RateReason) : RateMsg :=
  ⟨s.rateBits, s.settings.line.requestedMask, s.rateLevel, r⟩

/-- A change in flight lets a RATE wait with the newer reason. -/
theorem oweRate_waits (r : RateReason) (h : s.tt.inFlight ≠ .none) :
    s.oweRate r = s.modTt fun x => { x with waitingRate := some r } := if_neg h

/-- A table of 30 bits or more is sent. -/
theorem oweRate_sent (r : RateReason) (h : s.tt.inFlight = .none) (hb : 30 ≤ s.rateBits.sum) :
    (∃ n, (s.oweRate r).tt = { s.tt with inFlight := .rate (s.rateMsg r) n none }) ∧ (s.oweRate r).le = s.le
    ∧ ∃ l, (s.oweRate r).ss.txs.map (·.req) = s.ss.txs.map (·.req) ++ l := by
  let t := s.modTt fun x => { x with inFlight := .rate (s.rateMsg r) none none }
  have sent : s.oweRate r = t.requestTx .rate none (s.rateMsg r).body := by
    have floor : ¬ s.rateBits.sum < Config.floorBits := by simp only [Config.floorBits]; omega
    rw [State.oweRate, if_pos h, State.rateOut, if_neg floor]
    rfl
  rw [sent]
  refine ⟨?_, (only_requestTx t _ _ _ _).le (by decide), requestTx_extends t _ _ _ _⟩
  unfold State.requestTx
  dsimp only
  split
  · exact ⟨_, rfl⟩
  · exact ⟨none, rfl⟩

/-- A table below 30 bits is not sent; with a profile pending it ends the service (R18). -/
theorem oweRate_floor (r : RateReason) (h : s.tt.inFlight = .none) (hb : s.rateBits.sum < 30) : s.oweRate r =
    if s.le.pending.isSome then (s.modTt fun x => { x with lastResult := .floor }).loss .protocol
    else s.modTt fun x => { x with lastResult := .floor } := by
  rw [State.oweRate, if_pos h, State.rateOut]
  exact if_pos hb

end

/-! ## The start of a profile change (R18, R34) -/

section
variable {s : State}

theorem profileLaw_keeps (h : s.le.link ≠ .inService ∨ s.le.changeInFlight = true
    ∨ s.effProfile = (s.le.pending.map (·.profile)).getD s.le.inForce) : s.profileLaw = s := by
  unfold State.profileLaw
  refine if_neg ?_
  simp only [State.inService, Bool.and_eq_true, beq_iff_eq, Bool.not_eq_true', bne_iff_ne, ne_eq]
  rintro ⟨⟨hl, hc⟩, hp⟩
  rcases h with h | h | h
  · exact h hl
  · simp [hc] at h
  · exact hp h

theorem profileLaw_begins (hl : s.le.link = .inService) (hc : s.le.changeInFlight = false)
    (hp : s.effProfile ≠ (s.le.pending.map (·.profile)).getD s.le.inForce) : s.profileLaw = s.beginProfile := by
  unfold State.profileLaw
  exact if_pos (by simp [State.inService, hl, hc, hp])

/-- The change begun: the profile pending, its PROFILE asked for. -/
def State.profileAsked (s : State) : State :=
  ((s.modLe fun x => { x with pending := some { profile := s.effProfile, timer := none }, changeInFlight := true }).modTt
    fun x => { x with
      needSent := if s.effProfile = .lifeline then some s.need else x.needSent, needProgress := none }).requestTx
        .profile none (profileBody s.effProfile s.need) 1

theorem beginProfile_eq (s : State) : s.beginProfile = s.profileAsked.oweRate .profile := rfl

variable (hl : s.le.link = .inService) (hw : s.ss.waiting = []) (hn : s.ss.txs.length < 8)
include hl hw hn

/-- Granted at once, the PROFILE starts the 2 s (R18). -/
theorem profileAsked_granted :
    s.profileAsked.le = { s.le with
      pending := some { profile := s.effProfile, timer := some 2000 }, changeInFlight := true }
    ∧ s.profileAsked.tt = { s.tt with
        needSent := if s.effProfile = .lifeline then some s.need else s.tt.needSent, needProgress := none }
    ∧ s.profileAsked.ss.txs.map (·.req) = s.ss.txs.map (·.req) ++
        [⟨.profile, none, profileBody s.effProfile s.need, 1⟩]
    ∧ s.profileAsked.ft = s.ft ∧ s.profileAsked.cc = s.cc ∧ s.profileAsked.settings = s.settings
    ∧ s.profileAsked.sup = s.sup := by
  have now := requestTx_now ((s.modLe fun x => { x with
      pending := some { profile := s.effProfile, timer := none }, changeInFlight := true }).modTt
    fun x => { x with
      needSent := if s.effProfile = .lifeline then some s.need else x.needSent, needProgress := none })
    none (profileBody s.effProfile s.need) 1 .profile hl hw hn
  unfold State.profileAsked
  rw [now, grant_txs]
  exact ⟨rfl, rfl, rfl, rfl, rfl, rfl, rfl⟩

/-- The table and the level that go with the profile. -/
theorem profileAsked_rate : s.profileAsked.rateMsg .profile =
    ⟨s.computeDown s.settings.line.requestedMask s.effProfile, s.settings.line.requestedMask,
      Profile.level s.effProfile, .profile⟩ := by
  obtain ⟨hle, htt, -, hft, hcc, hset, -⟩ := profileAsked_granted hl hw hn
  have bits : s.profileAsked.rateBits = s.computeDown s.settings.line.requestedMask s.effProfile := by
    unfold State.rateBits State.rateProfile
    rw [computeDown_congr hset (by rw [hle]) hcc hft (by rw [htt]), hset, hle]
    rfl
  have level : s.profileAsked.rateLevel = Profile.level s.effProfile := by
    rw [State.rateLevel, hle]
    rfl
  rw [State.rateMsg, bits, level, hset]

end

/-! ## The lifeline need (R38) -/

section
variable {s : State}

theorem needLaw_keeps (h : s.le.link ≠ .inService ∨ s.le.inForce ≠ .lifeline ∨ s.le.pending ≠ none
    ∨ s.le.changeInFlight = true ∨ s.le.needInFlight = true ∨ s.tt.needSent = some s.need) : s.needLaw = s := by
  unfold State.needLaw
  refine if_neg ?_
  simp only [State.inService, Bool.and_eq_true, beq_iff_eq, Bool.not_eq_true', bne_iff_ne, ne_eq,
    Option.isNone_iff_eq_none]
  rintro ⟨⟨⟨⟨⟨h1, h2⟩, h3⟩, h4⟩, h5⟩, h6⟩
  rcases h with h | h | h | h | h | h
  · exact h h1
  · exact h h2
  · exact h h3
  · simp [h4] at h
  · simp [h5] at h
  · exact h6 h

/-- The need asked for. -/
def State.needAsked (s : State) : State :=
  ((s.modLe fun x => { x with needInFlight := true }).modTt fun x => { x with
    needSent := some s.need, needProgress := some { rate := false, up := false, old := x.upWaiting } }).requestTx
      .profile none (profileBody .lifeline s.need) 0

theorem needAsked_granted (hl : s.le.link = .inService) (hw : s.ss.waiting = []) (hn : s.ss.txs.length < 8) :
    s.needAsked.le = { s.le with needInFlight := true }
    ∧ s.needAsked.tt = { s.tt with
        needSent := some s.need, needProgress := some { rate := false, up := false, old := s.tt.upWaiting } }
    ∧ s.needAsked.ss.txs.map (·.req) = s.ss.txs.map (·.req) ++ [⟨.profile, none, profileBody .lifeline s.need, 0⟩]
    ∧ s.needAsked.ft = s.ft ∧ s.needAsked.cc = s.cc ∧ s.needAsked.settings = s.settings ∧ s.needAsked.sup = s.sup := by
  have now := requestTx_now ((s.modLe fun x => { x with needInFlight := true }).modTt fun x => { x with
      needSent := some s.need, needProgress := some { rate := false, up := false, old := x.upWaiting } })
    none (profileBody .lifeline s.need) 0 .profile hl hw hn
  unfold State.needAsked
  rw [now, grant_txs]
  exact ⟨rfl, rfl, rfl, rfl, rfl, rfl, rfl⟩

variable (hl : s.le.link = .inService) (hforce : s.le.inForce = .lifeline) (hp : s.le.pending = none)
include hl hforce hp

theorem needLaw_asks (hc : s.le.changeInFlight = false) (hf : s.le.needInFlight = false)
    (hs : s.tt.needSent ≠ some s.need) : s.needLaw = s.needAsked.oweRate .need := by
  unfold State.needLaw
  exact if_pos (by simp [State.inService, hl, hforce, hp, hc, hf, hs])

variable (hw : s.ss.waiting = []) (hn : s.ss.txs.length < 8)
include hw hn

theorem needAsked_rate : s.needAsked.rateMsg .need =
    ⟨s.computeDown s.settings.line.requestedMask s.effProfile, s.settings.line.requestedMask, -6, .need⟩ := by
  obtain ⟨hle, htt, -, hft, hcc, hset, hsup⟩ := needAsked_granted hl hw hn
  have eff : s.needAsked.effProfile = s.effProfile := by
    unfold State.effProfile
    rw [hsup, hle]
  have bits : s.needAsked.rateBits = s.computeDown s.settings.line.requestedMask s.effProfile := by
    unfold State.rateBits State.rateProfile
    rw [computeDown_congr hset (by rw [hle]) hcc hft (by rw [htt]), hset, eff, hle]
    simp [hp]
  have level : s.needAsked.rateLevel = -6 := by
    rw [State.rateLevel, hle]
    simp [hp, hforce, Profile.level]
  rw [State.rateMsg, bits, level, hset]

end

/-- The requests up to one place beyond those that were there. -/
theorem take_requests {l m : List Tx} {r : TxReq} {rest : List TxReq}
    (h : l.map (·.req) = (m.map (·.req) ++ [r]) ++ rest) : (l.take (m.length + 1)).map (·.req) = m.map (·.req) ++ [r] := by
  rw [List.map_take, h, List.take_left' (by simp)]

section
variable {s : State} (hl : s.le.link = .inService) (hw : s.ss.waiting = []) (hn : s.ss.txs.length < 8)
include hl hw hn

/-- The start of a profile change, by the change in flight and the table (R18, R34). -/
theorem beginProfile_begins {bits : List Nat} (hb : bits = s.computeDown s.settings.line.requestedMask s.effProfile) :
    (s.tt.inFlight ≠ .none → s.beginProfile.tt = { s.tt with
        waitingRate := some .profile, needProgress := none
        needSent := if s.effProfile = .lifeline then some s.need else s.tt.needSent })
    ∧ (s.tt.inFlight ≠ .none ∨ 30 ≤ bits.sum →
      s.beginProfile.le = { s.le with
        pending := some { profile := s.effProfile, timer := some 2000 }, changeInFlight := true }
      ∧ (s.beginProfile.ss.txs.take (s.ss.txs.length + 1)).map (·.req) = s.ss.txs.map (·.req) ++
          [⟨.profile, none, profileBody s.effProfile s.need, 1⟩])
    ∧ (s.tt.inFlight = .none → 30 ≤ bits.sum →
      ∃ n, s.beginProfile.tt = { s.tt with
        inFlight := .rate ⟨bits, s.settings.line.requestedMask, Profile.level s.effProfile, .profile⟩ n none
        needProgress := none, needSent := if s.effProfile = .lifeline then some s.need else s.tt.needSent })
    ∧ (s.tt.inFlight = .none → bits.sum < 30 →
      s.beginProfile.le.lastLoss = .protocol ∧ s.beginProfile.le.link ≠ .inService) := by
  obtain ⟨hle, htt, htxs, -⟩ := profileAsked_granted hl hw hn
  have msg := profileAsked_rate hl hw hn
  have hbits : s.profileAsked.rateBits = bits := hb.symm ▸ congrArg RateMsg.bits msg
  rw [beginProfile_eq]
  have flight : s.profileAsked.tt.inFlight = s.tt.inFlight := by rw [htt]
  have waits (h : s.tt.inFlight ≠ .none) := oweRate_waits s.profileAsked .profile (flight ▸ h)
  have sent (h : s.tt.inFlight = .none) (h30 : 30 ≤ bits.sum) :=
    oweRate_sent s.profileAsked .profile (flight.trans h) (by rw [hbits]; exact h30)
  refine ⟨fun h => ?_, fun h => ?_, fun h h30 => ?_, fun h h30 => ?_⟩
  · rw [waits h, State.modTt_tt, htt]
  · by_cases hf : s.tt.inFlight = .none
    · obtain ⟨-, le, l, txs⟩ := sent hf (h.resolve_left fun hne => hne hf)
      exact ⟨le.trans hle, take_requests (txs.trans (by rw [htxs]))⟩
    · rw [waits hf]
      exact ⟨hle, take_requests (rest := []) (by rw [List.append_nil]; exact htxs)⟩
  · obtain ⟨⟨n, tt⟩, -⟩ := sent h h30
    refine ⟨n, ?_⟩
    rw [tt, msg, htt, hb]
  · have pending : s.profileAsked.le.pending.isSome = true := by rw [hle]; rfl
    rw [oweRate_floor _ _ (flight.trans h) (by rw [hbits]; exact h30), if_pos pending]
    obtain ⟨loss, link, -⟩ := loss_line (c := .protocol)
      (s := s.profileAsked.modTt fun x => { x with lastResult := .floor }) (by rw [State.modTt_le, hle]; exact hl)
    exact ⟨loss, link⟩

/-- A need sent, by the change in flight and the table (R38, R34). -/
theorem needLaw_sends {bits : List Nat} (hb : bits = s.computeDown s.settings.line.requestedMask s.effProfile)
    (hforce : s.le.inForce = .lifeline) (hp : s.le.pending = none) (hc : s.le.changeInFlight = false)
    (hf : s.le.needInFlight = false) (hs : s.tt.needSent ≠ some s.need) :
    s.needLaw.le = { s.le with needInFlight := true }
    ∧ s.needLaw.tt.needSent = some s.need
    ∧ s.needLaw.tt.needProgress = some { rate := false, up := false, old := s.tt.upWaiting }
    ∧ (s.tt.inFlight ≠ .none → s.needLaw.tt.waitingRate = some .need ∧ s.needLaw.tt.inFlight = s.tt.inFlight)
    ∧ (s.tt.inFlight = .none → 30 ≤ bits.sum → ∃ n, s.needLaw.tt.inFlight
        = .rate ⟨bits, s.settings.line.requestedMask, -6, .need⟩ n none)
    ∧ (s.tt.inFlight = .none → bits.sum < 30 → s.needLaw.tt.inFlight = .none ∧ s.needLaw.tt.lastResult = .floor)
    ∧ (s.needLaw.ss.txs.take (s.ss.txs.length + 1)).map (·.req) = s.ss.txs.map (·.req) ++
        [⟨.profile, none, profileBody .lifeline s.need, 0⟩] := by
  obtain ⟨hle, htt, htxs, -⟩ := needAsked_granted hl hw hn
  have msg := needAsked_rate hl hforce hp hw hn
  have hbits : s.needAsked.rateBits = bits := hb.symm ▸ congrArg RateMsg.bits msg
  have flight : s.needAsked.tt.inFlight = s.tt.inFlight := by rw [htt]
  rw [needLaw_asks hl hforce hp hc hf hs]
  by_cases h : s.tt.inFlight = .none
  · by_cases h30 : 30 ≤ bits.sum
    · obtain ⟨⟨n, tt⟩, le, l, txs⟩ := oweRate_sent s.needAsked .need (flight.trans h) (by rw [hbits]; exact h30)
      rw [tt, msg, htt, ← hb]
      exact ⟨le.trans hle, rfl, rfl, fun hne => absurd h hne, fun _ _ => ⟨n, rfl⟩, fun _ hlt => absurd h30 (by omega),
        take_requests (txs.trans (by rw [htxs]))⟩
    · have quiet : ¬ s.needAsked.le.pending.isSome = true := by rw [hle]; simp [hp]
      rw [oweRate_floor _ _ (flight.trans h) (by rw [hbits]; omega), if_neg quiet, State.modTt_tt, htt]
      exact ⟨hle, rfl, rfl, fun hne => absurd h hne, fun _ hge => absurd hge h30, fun _ _ => ⟨h, rfl⟩,
        take_requests (rest := []) (by rw [List.append_nil]; exact htxs)⟩
  · rw [oweRate_waits _ _ (flight ▸ h), State.modTt_tt, htt]
    exact ⟨hle, rfl, rfl, fun _ => ⟨rfl, rfl⟩, fun hnone => absurd hnone h, fun hnone => absurd hnone h,
      take_requests (rest := []) (by rw [List.append_nil]; exact htxs)⟩

end

/-! ## The calls' laws (R101, R105, R113) -/

section
variable {s : State}

theorem lastDecision_part (h : s.cc.custody = .releasing) (hw : ∀ p, (s.call p).sub ≠ some .decisionWanted) :
    s.lastDecision = State.raise { s with cc := { s.cc with custody := .part, grace := none } } .custody := by
  have other : s.cc.custody ≠ .part := by simp [h]
  unfold State.lastDecision State.setCustody
  dsimp only
  rw [if_pos (by simp [h, hw .a, hw .b]), if_neg other]
  rfl

theorem lastDecision_keeps (h : s.cc.custody ≠ .releasing ∨ ∃ p, (s.call p).sub = some .decisionWanted) :
    s.lastDecision = s := by
  unfold State.lastDecision
  dsimp only
  refine if_neg ?_
  simp only [Bool.and_eq_true, decide_eq_true_eq, Bool.not_eq_true', beq_eq_false_iff_ne]
  rintro ⟨⟨hc, ha⟩, hb⟩
  rcases h with h | ⟨p, h⟩
  · exact h hc
  · cases p
    · exact ha h
    · exact hb h

theorem reportN_cases (s : State) :
    (s.cc.nReported < s.callCount → s.reportN = { s with cc := { s.cc with nReported := s.callCount, holdOff := none } })
    ∧ (s.callCount < s.cc.nReported → s.cc.holdOff = none → s.reportN = { s with cc := { s.cc with holdOff := some 10000 } })
    ∧ (s.cc.nReported = s.callCount ∨ (s.callCount < s.cc.nReported ∧ s.cc.holdOff ≠ none) → s.reportN = s) := by
  unfold State.reportN
  dsimp only
  refine ⟨fun h => if_pos h, fun h h0 => ?_, fun h => ?_⟩
  · rw [if_neg (by omega), if_pos (by simp [h, h0])]
    rfl
  · rw [if_neg (by omega), if_neg]
    simp only [Bool.and_eq_true, decide_eq_true_eq, Option.isNone_iff_eq_none]
    rintro ⟨h1, h2⟩
    rcases h with h | h
    · omega
    · exact h.2 h2

/-- A lone leading star is held while DIALLING (R105). -/
theorem heldStar_iff (st : CallState) (l : List DigitEntry) :
    heldStar st l = true ↔ st = .dialling ∧ ∃ m, l = [⟨.star, m, .pending⟩] := by
  unfold heldStar
  rcases l with _ | ⟨⟨d, m, k⟩, _ | ⟨e, l⟩⟩
  · simp
  · simp
  · simp

variable (p : Port) {ds : List DigitEntry} (hds : ds = (s.port p).digits.filter fun e => e.mark == .pending)
include hds

theorem sendDigits_keeps (h : ((s.call p).state ≠ .dialling ∧ (s.call p).state ≠ .connected)
    ∨ (s.call p).txs.digit = true ∨ ds = []
    ∨ ((s.call p).state = .dialling ∧ ∃ m, (s.port p).digits = [⟨.star, m, .pending⟩])) : s.sendDigits p = s := by
  unfold State.sendDigits
  dsimp only
  rw [← hds]
  refine if_neg ?_
  simp only [Bool.and_eq_true, Bool.or_eq_true, beq_iff_eq, Bool.not_eq_true']
  rintro ⟨⟨⟨hst, hd⟩, he⟩, hs⟩
  rcases h with h | h | h | h
  · exact hst.elim h.1 h.2
  · simp [hd] at h
  · simp [h] at he
  · simp [(heldStar_iff _ _).mpr h] at hs

theorem sendDigits_sends (hst : (s.call p).state = .dialling ∨ (s.call p).state = .connected)
    (hd : (s.call p).txs.digit = false) (hne : ds ≠ [])
    (hstar : ¬ ((s.call p).state = .dialling ∧ ∃ m, (s.port p).digits = [⟨.star, m, .pending⟩]))
    (hl : s.le.link = .inService) (hw : s.ss.waiting = []) (hn : s.ss.txs.length < 8) :
    (s.sendDigits p).call p = { s.call p with
        txs := { (s.call p).txs with digit := true }, digitsUpTo := (s.port p).digits.length }
    ∧ (s.sendDigits p).ss.txs.map (·.req) = s.ss.txs.map (·.req) ++
        [{ kind := .digit, port := some p, tag := (s.call p).serial
           body := wPort p ++ (w8 ((s.call p).channel.getD 0) ++ wList (fun e => wDigit e.digit) ds) }]
    ∧ (s.sendDigits p).ports = s.ports ∧ (s.sendDigits p).le = s.le := by
  have held : heldStar (s.call p).state (s.port p).digits = false := by
    rw [← Bool.not_eq_true, heldStar_iff]
    exact hstar
  let t := (s.modCallRaw p fun r => { r with digitsUpTo := (s.port p).digits.length }).modCallRaw p
    fun r => { r with txs := { r.txs with digit := true } }
  have call : t.call p = { s.call p with
      txs := { (s.call p).txs with digit := true }, digitsUpTo := (s.port p).digits.length } := by
    rw [call_modCallRaw, call_modCallRaw]
  have sent : s.sendDigits p = t.requestTx .digit (some p)
      (wPort p ++ (w8 ((s.call p).channel.getD 0) ++ wList (fun e => wDigit e.digit) ds)) (s.call p).serial := by
    have serial : (t.call p).serial = (s.call p).serial := by rw [call]
    rw [← serial]
    unfold State.sendDigits
    dsimp only
    rw [← hds, if_pos (by simp [hst, hd, hne, held])]
    rfl
  have only := only_requestTx_quiet t .digit (some p)
    (wPort p ++ (w8 ((s.call p).channel.getD 0) ++ wList (fun e => wDigit e.digit) ds)) (s.call p).serial rfl
  rw [sent]
  refine ⟨?_, requestTx_granted t _ _ _ _ hl hw hn, only.ports (by decide), only.le (by decide)⟩
  rw [State.call, only.cc (by decide)]
  exact call

end

/-! ## The gate requests (R48, R51) -/

section
variable {s : State}

theorem gateClearLaw_keeps (h : s.le.link ≠ .inService ∨ s.ft.request ≠ .none ∨ ∀ a, s.ft.agreement = some a →
    a.endSf ≠ none ∨ (s.ft.tracking = .locked ∧ s.settings.gate.agreementEnable = true)) : s.gateClearLaw = s := by
  unfold State.gateClearLaw
  split
  · rename_i a ha
    refine if_neg ?_
    simp only [State.inService, Bool.and_eq_true, beq_iff_eq, Option.isNone_iff_eq_none, Bool.or_eq_true,
      Bool.not_eq_true']
    rintro ⟨⟨⟨h1, h2⟩, h3⟩, h4⟩
    rcases h with h | h | h
    · exact h h1
    · exact h h3
    · rcases h a ha with h | ⟨ht, hg⟩
      · exact h h2
      · simp [ht, hg] at h4
  · rfl

theorem gateClearLaw_clears {a : Agreement} (ha : s.ft.agreement = some a) (hl : s.le.link = .inService)
    (hq : s.ft.request = .none) (he : a.endSf = none)
    (hg : s.ft.tracking = .searching ∨ s.settings.gate.agreementEnable = false) (hw : s.ss.waiting = [])
    (hn : s.ss.txs.length < 8) :
    s.gateClearLaw.ft = { s.ft with
        request := .clear (s.le.sf + 64)
        agreement := some { a with
          endSf := some (s.le.sf + 64), repl := a.repl.filter fun c => ahead (s.le.sf + 64) c.anchor } }
    ∧ s.gateClearLaw.ss.txs.map (·.req) = s.ss.txs.map (·.req) ++
        [{ kind := .gateClear, port := none, tag := 0, body := wBV (s.le.sf + 64) }]
    ∧ s.gateClearLaw.le = s.le ∧ s.gateClearLaw.tt = s.tt := by
  let t := s.ftUpd fun x => { x with agreement := some (a.ending (s.le.sf + 64)), request := .clear (s.le.sf + 64) }
  have sent : s.gateClearLaw = t.requestTx .gateClear none (wBV (s.le.sf + 64)) := by
    unfold State.gateClearLaw
    rw [ha]
    dsimp only
    exact if_pos (by simpa [State.inService, hl, hq, he] using hg)
  have upd : Only [.ft, .plk] s t := only_ftUpd s _
  have only := only_requestTx_quiet t .gateClear none (wBV (s.le.sf + 64)) 0 rfl
  have hss : t.ss = s.ss := upd.ss (by decide)
  have hle : t.le = s.le := upd.le (by decide)
  rw [sent]
  refine ⟨(only.ft (by decide)).trans (ftUpd_ft s _), ?_, (only.le (by decide)).trans hle,
    (only.tt (by decide)).trans (upd.tt (by decide))⟩
  rw [requestTx_granted t _ _ _ _ (by rw [hle]; exact hl) (by rw [hss]; exact hw) (by rw [hss]; exact hn), hss]

theorem gateSetLaw_keeps (h : s.le.link ≠ .inService ∨ s.ft.request ≠ .none ∨ s.ft.tracking = .searching
    ∨ s.settings.gate.agreementEnable = false ∨ s.ft.agreement ≠ none ∨ s.ft.retry ≠ none) : s.gateSetLaw = s := by
  unfold State.gateSetLaw
  split
  · refine if_neg ?_
    simp only [State.inService, Bool.and_eq_true, beq_iff_eq, Option.isNone_iff_eq_none]
    rintro ⟨⟨⟨⟨⟨h1, h2⟩, h3⟩, h4⟩, h5⟩, h6⟩
    rcases h with h | h | h | h | h | h
    · exact h h1
    · exact h h5
    · simp [h2] at h
    · simp [h3] at h
    · exact h h4
    · exact h h6
  · rfl

theorem gateSetLaw_sets {p : Nat} {n : Sym} (hp : s.ft.period = some p) (hnx : s.ft.next = some n)
    (hl : s.le.link = .inService) (ht : s.ft.tracking = .locked) (hg : s.settings.gate.agreementEnable = true)
    (ha : s.ft.agreement = none) (hq : s.ft.request = .none) (hre : s.ft.retry = none) (hw : s.ss.waiting = [])
    (hn : s.ss.txs.length < 8) :
    s.gateSetLaw.ft = { s.ft with request := .set (s.formSchedule p n) }
    ∧ s.gateSetLaw.ss.txs.map (·.req) = s.ss.txs.map (·.req) ++
        [{ kind := .gateSet, port := none, tag := 0, body := (s.formSchedule p n).body }]
    ∧ s.gateSetLaw.le = s.le ∧ s.gateSetLaw.tt = s.tt := by
  let t := s.modFt fun x => { x with request := .set (s.formSchedule p n) }
  have sent : s.gateSetLaw = t.requestTx .gateSet none (s.formSchedule p n).body := by
    unfold State.gateSetLaw
    rw [hp, hnx]
    dsimp only
    exact if_pos (by simp [State.inService, hl, ht, hg, ha, hq, hre])
  have only := only_requestTx_quiet t .gateSet none (s.formSchedule p n).body 0 rfl
  rw [sent]
  exact ⟨only.ft (by decide), requestTx_granted t _ _ _ _ hl hw hn, only.le (by decide), only.tt (by decide)⟩

end

/-! ## The owed marks and the end reports (R162, R163) -/

section
variable {s : State}

theorem mem_allFaults (i : FaultId) : i ∈ allFaults := by
  cases i <;> decide

/-- Setting a mark changes no record's eligibility. -/
theorem eligible_owed (i j : FaultId) :
    (s.modFault i fun r => { r with owed := true }).eligible j = s.eligible j := by
  unfold State.eligible
  by_cases h : j = i
  · subst h
    rw [faultRec_modFault]
    rfl
  · rw [faultRec_modFault_ne _ _ _ h]
    rfl

/-- The marks of the records in a list, each looked at in turn. -/
theorem refreshOwed_list (l : List FaultId) (s : State) :
    (l.foldl (fun s i => if s.eligible i then s.modFault i fun r => { r with owed := true } else s) s)
      = { s with fs := { s.fs with recs := (l.foldl (fun s i =>
          if s.eligible i then s.modFault i fun r => { r with owed := true } else s) s).fs.recs } }
    ∧ ∀ i, (l.foldl (fun s i => if s.eligible i then s.modFault i fun r => { r with owed := true } else s) s).faultRec i
      = { s.faultRec i with owed := (s.faultRec i).owed || (decide (i ∈ l) && s.eligible i) } := by
  induction l generalizing s with
  | nil => exact ⟨rfl, fun i => by simp⟩
  | cons j l ih =>
    rw [List.foldl_cons]
    by_cases he : s.eligible j = true
    · rw [if_pos he]
      obtain ⟨h1, h2⟩ := ih (s.modFault j fun r => { r with owed := true })
      refine ⟨h1.trans rfl, fun i => ?_⟩
      rw [h2, eligible_owed]
      by_cases hij : i = j
      · subst hij
        rw [faultRec_modFault]
        simp [he]
      · rw [faultRec_modFault_ne _ _ _ hij]
        simp [hij]
    · rw [if_neg he]
      obtain ⟨h1, h2⟩ := ih s
      refine ⟨h1, fun i => ?_⟩
      rw [h2]
      by_cases hij : i = j
      · subst hij
        simp [he]
      · simp [hij]

theorem refreshOwed_spec (s : State) :
    (∀ i, s.refreshOwed.faultRec i = { s.faultRec i with owed := (s.faultRec i).owed || s.eligible i })
    ∧ s.refreshOwed = { s with fs := { s.fs with recs := s.refreshOwed.fs.recs } } := by
  obtain ⟨h1, h2⟩ := refreshOwed_list allFaults s
  refine ⟨fun i => (h2 i).trans ?_, h1⟩
  simp [mem_allFaults]

/-- Eligibility, by the record's state and the thresholds (R162). -/
theorem eligible_eq (i : FaultId) : s.eligible i =
    (((s.faultRec i).state == .active || (s.faultRec i).state == .retryWait || (s.faultRec i).state == .latched)
      && decide (s.settings.faults.beaconThreshold ≤ (s.faultSetting i).level) && !(s.faultRec i).silenced) := by
  unfold State.eligible
  dsimp only
  cases (s.faultRec i).state <;> rfl

theorem highest_none {l : List FaultId} (h : s.highest l = none) : l = [] := by
  cases l with
  | nil => rfl
  | cons i t =>
    unfold State.highest at h
    split at h
    · simp at h
    · split at h <;> simp at h

theorem endReports_keeps (h : s.le.link ≠ .inService ∨ s.fs.endReport ≠ none ∨ s.fs.spacing ≠ none
    ∨ ∀ i, s.endDue i = false) : s.endReports = s := by
  unfold State.endReports
  split
  · rename_i hgo
    simp only [State.inService, Bool.and_eq_true, beq_iff_eq, Option.isNone_iff_eq_none] at hgo
    obtain ⟨⟨hl, he⟩, hs⟩ := hgo
    have none_due : allFaults.filter s.endDue = [] := by
      rcases h with h | h | h | h
      · exact absurd hl h
      · exact absurd he h
      · exact absurd hs h
      · exact List.filter_eq_nil_iff.mpr fun i _ => by simp [h i]
    rw [none_due]
    rfl
  · rfl

variable {i : FaultId} (hl : s.le.link = .inService) (he : s.fs.endReport = none) (hsp : s.fs.spacing = none)
  (hi : s.highest (allFaults.filter s.endDue) = some i)
include hl he hsp hi

theorem endReports_eq : s.endReports = (s.placeUnanswered (.ended i)
    (message codeBeacon 0 (s.beaconBody true i))).1.modFs fun x => { x with
      endReport := if (s.placeUnanswered (.ended i) (message codeBeacon 0 (s.beaconBody true i))).2 then some i else none
      endVoid := false, spacing := some 1000 } := by
  unfold State.endReports
  rw [if_pos (by simp [State.inService, hl, he, hsp]), hi]

theorem endReports_places (room : s.hasRoom) : s.endReports = { s with
    fs := { s.fs with endReport := some i, endVoid := false, spacing := some 1000 }
    ss := { s.ss with
      outQueue := s.ss.outQueue ++ [{ who := .ended i, started := false
                                      cells := cellsOf s.ss.mgmtSeq (message 0x38 0 (s.beaconBody true i)) }]
      mgmtSeq := (s.ss.mgmtSeq + 1) % 256 } } := by
  have notFull : s.ss.answersFull = false := by
    have : ¬ Config.answerPlaces ≤ (s.ss.outQueue.filter fun m => !m.isSend).length := Nat.not_le.mpr room
    simpa [SS.answersFull] using this
  rw [endReports_eq hl he hsp hi]
  unfold State.placeUnanswered
  rw [if_neg (by simp [State.inService, hl, notFull])]
  rfl

theorem endReports_full (full : 24 ≤ (s.ss.outQueue.filter fun m => !m.isSend).length) : s.endReports = { s with
    fs := { s.fs with endReport := none, endVoid := false, spacing := some 1000 }
    ss := { s.ss with counts := { s.ss.counts with
      unansweredDropped := inc32 s.ss.counts.unansweredDropped } } } := by
  have isFull : s.ss.answersFull = true := decide_eq_true full
  rw [endReports_eq hl he hsp hi]
  unfold State.placeUnanswered
  rw [if_pos (by simp [isFull])]
  rfl

end

/-! ## The host's power (R66, R136, R176) -/

section
variable {s : State}

theorem hostOn_eq (s : State) : s.hostOn = { s with
    sup := { s.sup with procPwr := true }
    sts := { s.sts with startedRaised := true }
    plk := { s.plk with
      isOpen := true, rx := .hunt, rxBytes := [], requests := [], busy := [], dataDown := [], frame := none
      notices := (if s.sts.startedRaised then [] else [Notice.started]) ++ [.supply, .custody, .fault] } } := by
  unfold State.hostOn
  cases h : s.sts.startedRaised <;> simp [State.modSup, State.modPlk, State.modSts, State.raiseIf, State.raise, h]

theorem hostOff_eq (s : State) : s.hostOff = { s with
    sup := { s.sup with procPwr := false }
    plk := { s.plk with
      isOpen := false, rx := .hunt, rxBytes := [], requests := [], busy := [], dataDown := [], frame := none
      notices := [], noticeSeq := ((s.plk.noticeSeq + s.plk.notices.length) % 256 + 1) % 256 }
    ss := { s.ss with
      upQueue := [], xon := true, dataPartial := none
      counts := { s.ss.counts with
        unitsPower := add32 s.ss.counts.unitsPower s.plk.dataDown.length } } } := rfl

/-- PROC_PWR_EN by the mode, custody and what it is (R136). -/
theorem hostPowerLaw_byMode (s : State) :
    (s.sup.mode = .mains ∨ s.sup.mode = .battery → s.hostPowerLaw = if s.sup.procPwr then s else s.hostOn)
    ∧ (s.sup.mode = .reserve → s.hostPowerLaw = if s.sup.procPwr && s.cc.custody == .part then s.hostOff else s)
    ∧ (s.sup.mode = .start ∨ s.sup.mode = .depleted → s.hostPowerLaw = if s.sup.procPwr then s.hostOff else s) := by
  unfold State.hostPowerLaw
  refine ⟨?_, fun h => by rw [h], ?_⟩
  · rintro (h | h) <;> rw [h]
  · rintro (h | h) <;> rw [h]

end

/-- Settles O8, law by law: where each is due and where it is not. -/
theorem stepEndLaws : Obligations.StepEndLaws := by
  refine ⟨fun s h₁ h₂ => ?_, fun _ => rfl, fun s e now bits he hnow hb => ?_, fun s bits hb => ?_, fun s => ?_,
    fun s p ds hds => ⟨sendDigits_keeps p hds, sendDigits_sends p hds⟩, fun s => ?_, fun s => ?_, fun s => ?_⟩
  · unfold State.settle
    dsimp only
    rw [if_neg h₁, if_neg h₂]
  · subst he hnow
    refine ⟨profileLaw_keeps, fun hl hc hne hw hn => ?_⟩
    rw [profileLaw_begins hl hc hne]
    exact beginProfile_begins hl hw hn hb
  · refine ⟨needLaw_keeps, fun hl hforce hp hc hf hs hw hn => needLaw_sends hl hw hn hb hforce hp hc hf hs⟩
  · exact ⟨lastDecision_part, lastDecision_keeps, reportN_cases s⟩
  · refine ⟨fun h => ⟨gateClearLaw_keeps ?_, gateSetLaw_keeps ?_⟩, fun h => gateClearLaw_keeps ?_,
      fun h => gateSetLaw_keeps (.inr (.inr h)), fun a ha h => gateClearLaw_keeps (.inr (.inr fun b hb => ?_)),
      fun a => gateClearLaw_clears, fun p n hp hnx hl ht hg ha hq hre hw hn => ?_⟩
    · exact h.imp id .inl
    · exact h.imp id .inl
    · exact .inr (.inr fun a ha => by simp [h] at ha)
    · cases ha.symm.trans hb
      exact h
    · obtain ⟨hft, htxs, hle, htt⟩ := gateSetLaw_sets hp hnx hl ht hg ha hq hre hw hn
      exact ⟨s.formSchedule p n, rfl, rfl, formSchedule_origin s p n, formSchedule_anchor s p n,
        formSchedule_offset s p n, hft, htxs, hle, htt⟩
  · obtain ⟨hrec, hrest⟩ := refreshOwed_spec s
    refine ⟨fun i r hr => ?_, hrest, endReports_keeps, fun i hl he hsp hi =>
      ⟨endReports_places hl he hsp hi, endReports_full hl he hsp hi⟩⟩
    rw [hrec, eligible_eq, hr]
  · obtain ⟨on, reserve, off⟩ := hostPowerLaw_byMode s
    refine ⟨fun h hp => (on h).trans (if_pos hp), fun h hp => (reserve h).trans (if_neg ?_),
      fun h hp => (off h).trans (if_neg (by simp [hp])),
      fun h hp => (on h).trans ((if_neg (by simp [hp])).trans (hostOn_eq s)), fun hp h => ?_⟩
    · rcases hp with hp | hp <;> simp [hp]
    · rw [← hostOff_eq]
      rcases h with ⟨h, hc⟩ | h
      · exact (reserve h).trans (if_pos (by simp [hp, hc]))
      · exact (off h).trans (if_pos hp)

end Sys2Proof.Machine
end

section
/-!
PROOFS. The ends of transactions (R71, R72): how an entry is freed and its owner told, what an ACK's fields are read as,
and what a failure leaves as it was.
-/

namespace Sys2Proof.Machine

-- One proof at a time: the text is compiled as one, and each proof that waits for the others holds a thread.
set_option Elab.async false

/-! ## The entry freed (R72) -/

/-- An entry freed, with the counts given. -/
def State.freed (s : State) (n : Nat) (k : SsCounts) : State :=
  { s with ss := { s.ss with
      txs := s.ss.txs.filter fun x => x.number != n
      outQueue := s.ss.outQueue.filter fun m => !(m.who == .send n && !m.started), counts := k } }

section
variable {s : State}

theorem grantWaiting_idle (h : s.ss.waiting = []) : s.grantWaiting = s := by
  have same : (s.modSs fun x => { x with waiting := [] }) = s := by
    unfold State.modSs
    rw [← h]
  rw [State.grantWaiting, h, same]
  rfl

/-- With no request waiting the owner is told with the entry freed and nothing else changed. -/
theorem endTx_idle (f : SsCounts → SsCounts) (t : Tx) (e : TxEnd) (h : s.ss.waiting = []) :
    (s.modCounts f).endTx t e = (s.freed t.number (f s.ss.counts)).txEnded t.req t.number e := by
  rw [State.endTx, grantWaiting_idle]
  · rfl
  · exact h

/-! ## Answers as they are received (R72) -/

variable {n : Byte} {t : Tx} (awake : s.dormant = false) (hin : s.le.link = .inService)
  (ht : (s.ss.txs.find? fun x => x.number == n.toNat) = some t)

include ht in
theorem found_number : t.number = n.toNat := by
  simpa using List.find?_some ht

include hin ht in
theorem answerTo_found {m : Msg} (f : State → Tx → State) (hm : m.whole = true) (hn : m.number = n) :
    s.answerTo m f = f s.received t := by
  have found : (s.received.ss.txs.find? fun x => x.number == m.number.toNat) = some t := by rw [hn]; exact ht
  rw [State.answerTo, receive_whole _ hin hm, found]

include awake hin ht

/-- A NAK ends the transaction. -/
theorem nak_ends (cause : Byte) : exec (.nak n 1 [cause]) s = .next (s.received.endTx t .nak).settle := by
  refine congrArg _ ((live_awake s _ awake).trans (congrArg _ ?_))
  exact answerTo_found hin ht _ rfl rfl

variable {l : Byte} {body : List Byte} (hb : body.length = l.toNat) (hl : l.toNat ≤ 117)
include hb hl

/-- An ACK ends the transaction with the fields its body holds. -/
theorem ack_ends {f : AckFields} (hf : ackFields t.req.kind body = some f) :
    exec (.ack n l body) s = .next (s.received.endTx t (.ack f)).settle := by
  have whole : (Msg.mk n l body).whole = true := by simp [Msg.whole, hb, hl]
  refine congrArg _ ((live_awake s _ awake).trans (congrArg _ ?_))
  unfold State.ackMsg
  rw [answerTo_found hin ht _ whole rfl, hf]

theorem ack_fails (hf : ackFields t.req.kind body = none) :
    exec (.ack n l body) s = .next (s.received.failTx t).settle := by
  have whole : (Msg.mk n l body).whole = true := by simp [Msg.whole, hb, hl]
  refine congrArg _ ((live_awake s _ awake).trans (congrArg _ ?_))
  unfold State.ackMsg
  rw [answerTo_found hin ht _ whole rfl, hf]

omit hb hl in
theorem timeout_fails (hleft : t.timeLeft ≠ none) (hsends : 3 ≤ t.sends) :
    exec (.transactionTimeout n.toNat) s = .next (s.failTx t).settle := by
  refine congrArg _ ((live_awake s _ awake).trans (congrArg _ ?_))
  rw [if_pos (by simp [State.inService, hin]), State.txTimeout, ht]
  dsimp only
  rw [if_neg (by simpa using hleft), if_neg (by omega)]

end

/-! ## Result fields (log 26) -/

theorem readAll_length {α : Type} {f : Reader α} {k : Nat} (hf : ∀ l a r, f l = some (a, r) → l.length = k + r.length)
    {l : List Byte} (h : l.length ≠ k) : readAll f l = none := by
  unfold readAll
  split
  · rename_i a heq
    exact absurd (hf _ _ _ heq) (by simpa using h)
  · rfl

theorem rNat_length (k : Nat) : ∀ l a r, rNat k l = some (a, r) → l.length = k + r.length := by
  induction k with
  | zero =>
    intro l a r h
    simp only [rNat, Option.some.injEq, Prod.mk.injEq] at h
    simp [h.2]
  | succ k ih =>
    intro l a r h
    cases l with
    | nil => simp [rNat] at h
    | cons b l =>
      simp only [rNat, Option.map_eq_some_iff, Prod.exists, Prod.mk.injEq] at h
      obtain ⟨m, r', hr, -, rfl⟩ := h
      have := ih l m r' hr
      simp [this]
      omega

theorem rSf_length : ∀ l a r, rSf l = some (a, r) → l.length = 4 + r.length := by
  intro l a r h
  simp only [rSf, Option.map_eq_some_iff, Prod.exists, Prod.mk.injEq] at h
  obtain ⟨m, r', hr, -, rfl⟩ := h
  exact rNat_length 4 l m r' hr

theorem seizeFields_length : ∀ l a r, rPair (rNat 1) (rEnum codings) l = some (a, r) → l.length = 2 + r.length := by
  intro l a r h
  unfold rPair at h
  split at h
  · simp at h
  · rename_i ch rest hch
    have first := rNat_length 1 _ _ _ hch
    cases rest with
    | nil => simp [rEnum, rByte] at h
    | cons b rest =>
      simp only [rEnum, rByte, Option.map_some, Option.some.injEq, Prod.mk.injEq] at h
      simp [first, ← h.2]
      omega

/-- A superframe written is read back. -/
theorem readAll_rSf (e : Sf) : readAll rSf (wBV e) = some e := by
  have small := e.isLt
  have value : ((e.toNat / 65536 / 256 % 256) * 256 ^ 3 + ((e.toNat / 65536 % 256) * 256 ^ 2
      + ((e.toNat / 256 % 256) * 256 ^ 1 + (e.toNat % 256) * 256 ^ 0))) = e.toNat := by omega
  have word : BitVec.ofNat 32 e.toNat = e := by simp
  simp only [wBV_eq, w32_eq, w16_eq, List.cons_append, List.nil_append, readAll, rSf, rNat, Option.map_some]
  simp only [BitVec.toNat_ofNat, Nat.reducePow] at value ⊢
  rw [Nat.add_zero, value, word]

theorem ackFields_seff {k : TxKind} (hk : k = .coding ∨ k = .swap ∨ k = .rate) (e : Sf) :
    ackFields k (wBV e) = some (.seff e) := by
  rcases hk with rfl | rfl | rfl <;> simp [ackFields, readAll_rSf]

theorem ackFields_empty {k : TxKind} (h : k ≠ .seize) (hc : k ≠ .coding) (hs : k ≠ .swap) (hr : k ≠ .rate) :
    ackFields k [] = some .empty := by
  unfold ackFields
  split
  · exact absurd rfl h
  · exact absurd rfl hc
  · exact absurd rfl hs
  · exact absurd rfl hr
  · rfl

/-- Fields of another layout than the kind's. -/
theorem ackFields_none {k : TxKind} {body : List Byte} (hz : k = .seize → body.length ≠ 2)
    (hs : k = .coding ∨ k = .swap ∨ k = .rate → body.length ≠ 4)
    (ho : k ≠ .seize → k ≠ .coding → k ≠ .swap → k ≠ .rate → body ≠ []) : ackFields k body = none := by
  have seff (h : body.length ≠ 4) : (readAll rSf body).map AckFields.seff = none := by
    rw [readAll_length rSf_length h]
    rfl
  unfold ackFields
  split
  · rw [readAll_length seizeFields_length (hz rfl)]
    rfl
  · exact seff (hs (.inl rfl))
  · exact seff (hs (.inr (.inl rfl)))
  · exact seff (hs (.inr (.inr rfl)))
  · rename_i h1 h2 h3 h4
    have := ho h1 h2 h3 h4
    simp [this]

/-! ## What a failure keeps -/

/-- What the operations a failure runs leave as it was: the measurement unit, the count of failures, the record of
LINK_PROTOCOL; and no entry that has been sent three times joins the list. -/
structure Steady (z s : State) : Prop where
  mu : s.mu = z.mu
  failed : s.ss.counts.failed = z.ss.counts.failed
  old : ∀ x ∈ s.ss.txs, 3 ≤ x.sends → x ∈ z.ss.txs
  proto : s.faultRec .linkProtocol = z.faultRec .linkProtocol

section
variable {z s t : State}

theorem Steady.refl (s : State) : Steady s s := ⟨rfl, rfl, fun _ h _ => h, rfl⟩

theorem Steady.trans (h : Steady z s) (k : Steady s t) : Steady z t :=
  ⟨k.mu.trans h.mu, k.failed.trans h.failed, fun x hx h3 => h.old x (k.old x hx h3) h3, k.proto.trans h.proto⟩

theorem Steady.ite {c : Prop} [Decidable c] (h : c → Steady z s) (k : ¬ c → Steady z t) : Steady z (if c then s else t) := by
  split
  · exact h ‹_›
  · exact k ‹_›

/-- Operations outside those three blocks. -/
theorem Steady.of_only {l : List Block} (h : Only l z s) (hm : Block.mu ∉ l := by decide) (hs : Block.ss ∉ l := by decide)
    (hf : Block.fs ∉ l := by decide) : Steady z s := by
  refine ⟨h.mu hm, by rw [h.ss hs], fun x hx _ => by rwa [h.ss hs] at hx, ?_⟩
  rw [State.faultRec, h.fs hf]
  rfl

/-- A request in the list, its message queued, its owner not yet told. -/
def State.listed (s : State) (r : TxReq) : State :=
  s.modSs fun x => SS.enqueue
    { x with txs := x.txs ++ [{ req := r, number := s.ss.freeNumber, sends := 1, timeLeft := none }]
             nextNumber := (s.ss.freeNumber + 1) % 16 }
    (.send s.ss.freeNumber) (message r.kind.code s.ss.freeNumber r.body)

theorem steady_listed (s : State) (r : TxReq) : Steady s (s.listed r) := by
  refine ⟨rfl, rfl, fun x hx h3 => ?_, rfl⟩
  rcases List.mem_append.mp hx with hx | hx
  · exact hx
  · rw [List.mem_singleton.mp hx] at h3
    exact absurd h3 (by simp)

theorem steady_grant (s : State) (r : TxReq) : Steady s (s.grant r) :=
  .trans (steady_listed s r) (.of_only (only_granted (s.listed r) r s.ss.freeNumber)
    (by cases r.kind <;> decide) (by cases r.kind <;> decide) (by cases r.kind <;> decide))

/-- An update of the scheduler that keeps the count and lists no new entry. -/
theorem steady_modSs (s : State) (f : SS → SS) (hc : (f s.ss).counts.failed = s.ss.counts.failed)
    (ht : ∀ x ∈ (f s.ss).txs, x ∈ s.ss.txs) : Steady s (s.modSs f) :=
  ⟨rfl, hc, fun x hx _ => ht x hx, rfl⟩

theorem steady_requestTx (s : State) (k : TxKind) (p : Option Port) (body : List Byte) (tag : Nat) :
    Steady s (s.requestTx k p body tag) :=
  .ite (fun _ => steady_grant s _) fun _ => steady_modSs s _ rfl fun _ hx => hx

theorem steady_grantList (rs : List TxReq) (s : State) : Steady s (grantList rs s) := by
  induction rs generalizing s with
  | nil => exact .refl s
  | cons r rs ih =>
    exact .ite (fun _ => .trans (steady_grant s r) (ih _)) fun _ => steady_modSs s _ rfl fun _ hx => hx

theorem steady_grantWaiting (s : State) : Steady s s.grantWaiting :=
  .trans (steady_modSs s _ rfl fun _ hx => hx) (steady_grantList _ _)

theorem steady_faultEventCore (s : State) {i : FaultId} (h : FaultId.linkProtocol ≠ i) (v : Option Int) :
    Steady s (s.faultEventCore i v).1 := by
  have only := only_faultEventCore s i v
  refine ⟨only.mu (by decide), by rw [only.ss (by decide)], fun x hx _ => by rwa [only.ss (by decide)] at hx, ?_⟩
  exact (reported_faultEventCore s i v).others _ h

theorem steady_callTx (s : State) (p : Port) (k : TxKind) (body : List Byte) (mark : CallTxs → CallTxs) :
    Steady s (s.callTx p k body mark) :=
  .trans (.of_only (only_modCallRaw s p _)) (steady_requestTx _ k _ _ _)

theorem steady_releaseCall (s : State) (p : Port) (c : RelCause) : Steady s (s.releaseCall p c) := by
  unfold State.releaseCall
  exact .trans (.trans (.of_only (only_ringOff s p)) (.of_only (only_updCall _ p _))) (steady_callTx _ p _ _ _)

theorem steady_callOut (s : State) (p : Port) : Steady s (s.callOut p) := by
  have taken : Steady s s.takeSerial.1 := .of_only (only_takeSerial s)
  unfold State.callOut
  dsimp only
  split
  · exact taken.trans (.of_only (only_updCall _ p _))
  · split
    · exact taken.trans (.of_only (only_updCall _ p _))
    · exact taken.trans (.trans (.of_only (only_updCall _ p _)) (steady_callTx _ p _ _ _))
    · exact taken.trans (.of_only (only_updCall _ p _))

theorem steady_startIntercom (s : State) (p : Port) : Steady s (s.startIntercom p) := by
  have taken : Steady s s.takeSerial.1 := .of_only (only_takeSerial s)
  unfold State.startIntercom
  dsimp only
  split
  · exact taken.trans (.trans (.trans (.of_only (only_updCall _ p _)) (.of_only (only_updCall _ _ _)))
      (.of_only (only_ringPort _ _ _)))
  · exact taken.trans (.of_only (only_updCall _ p _))

theorem steady_releaseDone (s : State) (p : Port) : Steady s (s.releaseDone p) := by
  unfold State.releaseDone
  dsimp only
  split
  · exact .of_only (only_freeCall s p _)
  · split
    · exact steady_startIntercom s p
    · exact .trans (.of_only (only_freeCall s p _)) (steady_callOut _ p)
    · exact .of_only (only_updCall s p _)

theorem steady_seizeRefused (s : State) (p : Port) (c : RelCause) : Steady s (s.seizeRefused p c) :=
  .ite (fun _ => .trans (.of_only (only_updCall s p _)) (steady_releaseDone _ p)) fun _ => .of_only (only_updCall s p _)

theorem flush_failed (s : State) : s.flush.ss.counts.failed = s.ss.counts.failed := by
  have result (t : State) (rs : List TxReq) : Only [.tu, .plk] t (rs.foldl (fun s r => s.undelivered r.tag) t) :=
    .foldl _ (fun t _ => only_undelivered t _) _ _
  unfold State.flush
  dsimp only
  rw [(result _ _).ss (by decide)]
  split <;> split <;> rfl

theorem steady_leaveService (s : State) (l : LinkState) (c : RelCause) : Steady s (s.leaveService l c) := by
  have before : (s.leaveTables l).ss = s.ss := (only_leaveTables s l).ss (by decide)
  have after := (leaveService_after_flush s l c).1
  refine ⟨(only_leaveService s l c).mu (by decide), ?_, ?_, ?_⟩
  · rw [after.ss (by decide), flush_failed, before]
  · rw [(leaveService_ss s l c).1]
    exact fun x hx => absurd hx List.not_mem_nil
  · rw [State.faultRec, (leaveService_fs s l c).1]
    rfl

theorem steady_loss (s : State) (c : LossCause) (h : s.le.link = .inService) : Steady s (s.loss c) := by
  rw [loss_eq s c h]
  have recorded : Steady s (s.lossRecorded c) := by
    have event : Steady s (s.lossReported c) :=
      .trans (.of_only (.seq (n := [.le, .plk]) (only_modLe s _) (only_raise _ _))) (steady_faultEventCore _ (by decide) _)
    exact event.trans (.ite (fun _ => .of_only (.seq (n := [.le, .plk]) (only_modLe _ _) (only_raiseIf _ _ _)))
      fun _ => .refl _)
  exact recorded.trans (.trans (steady_leaveService _ _ _) (.of_only (only_afterLoss _ _)))

theorem steady_changeEnded (s : State) (r : ChangeResult) (h : s.le.link = .inService) : Steady s (s.changeEnded r) := by
  have out (t : State) (reason : RateReason) (bits : List Nat) (ht : t.le.link = .inService) :
      Steady t (t.rateOut reason bits) := by
    unfold State.rateOut
    refine .ite (fun _ => ?_) fun _ => .trans (.of_only (only_modTt t _)) (steady_requestTx _ _ _ _ _)
    exact .trans (.of_only (only_modTt t _)) (.ite (fun _ => steady_loss _ _ ht) fun _ => .refl _)
  unfold State.changeEnded
  dsimp only
  split
  · exact .trans (.of_only (only_modTt s _)) (out _ _ _ h)
  · exact .of_only (only_modTt s _)

/-- A call's transaction of this kind no longer in flight. -/
def State.unmarked (s : State) (p : Port) (k : TxKind) : State :=
  s.modCallRaw p fun r => { r with txs := r.txs.without k }

/-- The end of a call's transaction is told to the call that asked, its mark gone (R106). -/
theorem callTxEnded_own (s : State) (p : Port) (tag : Nat) (e : TxEnd) (h : (s.call p).serial = tag) :
    s.callTxEnded .seize p tag e = (s.unmarked p .seize).seizeEnded p e
    ∧ s.callTxEnded .release p tag e = (s.unmarked p .release).releaseEnded p
    ∧ s.callTxEnded .answer p tag e = (s.unmarked p .answer).answerEnded p e
    ∧ s.callTxEnded .digit p tag e = (s.unmarked p .digit).digitEnded p e
    ∧ s.callTxEnded .coding p tag e = (s.unmarked p .coding).codingEnded p e := by
  unfold State.callTxEnded
  simp only [ne_eq, h, not_true_eq_false, if_false]
  exact ⟨rfl, rfl, rfl, rfl, rfl⟩

theorem callTxEnded_other (s : State) (k : TxKind) (p : Port) (tag : Nat) (e : TxEnd) (h : (s.call p).serial ≠ tag) :
    s.callTxEnded k p tag e = s := if_pos h

theorem steady_codingEnded_failed (s : State) (p : Port) : Steady s (s.codingEnded p .failed) := by
  refine .ite (fun _ => .trans (s := s.releaseCall p .capacity) (steady_releaseCall s p _) ?_) fun _ => .refl s
  exact steady_faultEventCore _ (by cases p <;> decide) _

theorem steady_callTxEnded_failed (s : State) (k : TxKind) (p : Port) (tag : Nat)
    (hk : k = .seize ∨ k = .release ∨ k = .answer ∨ k = .digit ∨ k = .coding) :
    Steady s (s.callTxEnded k p tag .failed) := by
  by_cases h : (s.call p).serial = tag
  · obtain ⟨hz, hr, ha, hd, hc⟩ := callTxEnded_own s p tag .failed h
    have unmarked : Steady s (s.unmarked p k) := .of_only (only_modCallRaw s p _)
    rcases hk with rfl | rfl | rfl | rfl | rfl
    · rw [hz]
      exact unmarked.trans (.ite (fun _ => steady_seizeRefused _ _ _) fun _ => .refl _)
    · rw [hr]
      exact unmarked.trans (.ite (fun _ => steady_releaseDone _ _) fun _ => .refl _)
    · rw [ha]
      exact unmarked.trans (.ite (fun _ => steady_releaseCall _ _ _) fun _ => .refl _)
    · rw [hd]
      exact unmarked.trans (.ite (fun _ => steady_releaseCall _ _ _) fun _ => .refl _)
    · rw [hc]
      exact unmarked.trans (steady_codingEnded_failed _ p)
  · rw [callTxEnded_other s k p tag _ h]
    exact .refl s

/-- The owner told of a failure (R72). -/
theorem steady_txEnded_failed (s : State) (q : TxReq) (n : Nat) (h : s.le.link = .inService) :
    Steady s (s.txEnded q n .failed) := by
  have port (k : TxKind) (hk : k = .seize ∨ k = .release ∨ k = .answer ∨ k = .digit ∨ k = .coding) :
      Steady s (match q.port with
        | some p => s.callTxEnded k p q.tag .failed
        | none => s) := by
    split
    · exact steady_callTxEnded_failed s k _ _ hk
    · exact .refl s
  unfold State.txEnded
  cases q.kind with
  | swap =>
    unfold State.swapEnded
    dsimp only
    split
    · exact .ite (fun _ => .refl s) fun _ => .trans (.of_only (only_modTt s _)) (steady_changeEnded _ _ h)
    · exact .refl s
  | rate =>
    unfold State.rateEnded
    dsimp only
    split
    · exact .ite (fun _ => .refl s) fun _ => steady_changeEnded _ _ h
    · exact .refl s
  | profile =>
    exact .ite (fun _ => .trans (.of_only (only_modLe s _)) (steady_loss _ _ h)) fun _ => .of_only (only_modLe s _)
  | gateSet =>
    unfold State.gateSetEnded
    dsimp only
    split
    · exact .trans (.of_only (only_modFt s _)) (steady_loss _ _ h)
    · exact .refl s
  | gateClear =>
    unfold State.gateClearEnded
    dsimp only
    split
    · exact .trans (.of_only (only_modFt s _)) (steady_loss _ _ h)
    · exact .refl s
  | testResult => exact .of_only (only_undelivered s _)
  | seize => exact port .seize (by decide)
  | digit => exact port .digit (by decide)
  | release => exact port .release (by decide)
  | answer => exact port .answer (by decide)
  | coding => exact port .coding (by decide)

end

/-! ## A transaction that fails (R71, R72) -/

section
variable (s : State)

theorem granted_link (r : TxReq) (n : Nat) : (s.granted r n).le.link = s.le.link := by
  by_cases hk : r.kind = .profile
  · unfold State.granted
    rw [hk]
    dsimp only
    split <;> rfl
  · have elsewhere : Block.le ∉ r.kind.told := by
      revert hk
      cases r.kind <;> simp [TxKind.told]
    rw [(only_granted s r n).le elsewhere]

theorem grantList_link (rs : List TxReq) (s : State) : (grantList rs s).le.link = s.le.link := by
  induction rs generalizing s with
  | nil => rfl
  | cons r rs ih =>
    unfold grantList
    split
    · exact (ih _).trans (granted_link _ _ _)
    · rfl

/-- A report in CLEAR or RECOVERED to a class that allows REPORT and SILENT only (R154, R156). -/
theorem faultEvent_cases (i : FaultId) (h : (s.faultRec i).state = .clear ∨ (s.faultRec i).state = .recovered) :
    ((s.faultSetting i).policy = .report → ((s.faultEvent i).faultRec i).state = .recovered
      ∧ ((s.faultEvent i).faultRec i).count = min 255 ((s.faultRec i).count + 1))
    ∧ ((s.faultSetting i).policy = .silent → (s.faultEvent i).faultRec i = s.faultRec i) := by
  refine ⟨fun hp => ?_, fun hp => ?_⟩
  · have raised : s.faultEvent i = (s.faultOccur i none).faultMove i .recovered none none .raised none := by
      unfold State.faultEvent State.faultEventCore
      rcases h with h | h <;> simp only [h, hp]
    rw [raised, faultRec_faultMove, faultRec_faultOccur]
    exact ⟨rfl, rfl⟩
  · unfold State.faultEvent State.faultEventCore
    rcases h with h | h <;> simp only [h, hp]

/-- The failure with the counts given: the owner told, LINK_PROTOCOL reported. -/
def State.failedWith (s : State) (t : Tx) (k : SsCounts) : State :=
  ((s.modCounts fun _ => k).endTx t .failed).faultEvent .linkProtocol

variable {s : State} {t : Tx} {k : SsCounts}

theorem steady_failedWith (hin : s.le.link = .inService) :
    Steady ((s.modCounts fun _ => k).freeEntry t.number) ((s.modCounts fun _ => k).endTx t .failed) :=
  .trans (steady_grantWaiting _) (steady_txEnded_failed _ _ _ ((grantList_link _ _).trans hin))

/-- What every failure does, whatever its kind. -/
theorem failedWith_counts (hin : s.le.link = .inService) (hk : k.failed = inc32 s.ss.counts.failed) :
    (s.failedWith t k).ss.counts.failed = inc32 s.ss.counts.failed ∧ (3 ≤ t.sends → t ∉ (s.failedWith t k).ss.txs)
    ∧ (s.fs.recs.linkProtocol.state = .clear ∨ s.fs.recs.linkProtocol.state = .recovered →
        (s.settings.faults.records.linkProtocol.policy = .report →
          (s.failedWith t k).fs.recs.linkProtocol.state = .recovered
          ∧ (s.failedWith t k).fs.recs.linkProtocol.count = min 255 (s.fs.recs.linkProtocol.count + 1))
        ∧ (s.settings.faults.records.linkProtocol.policy = .silent →
          (s.failedWith t k).fs.recs.linkProtocol = s.fs.recs.linkProtocol))
    ∧ (s.failedWith t k).settings = s.settings ∧ (s.failedWith t k).sts = s.sts ∧ (s.failedWith t k).uptime = s.uptime
    ∧ (s.failedWith t k).mu = s.mu ∧ (s.failedWith t k).sup.mode = s.sup.mode := by
  let x := (s.modCounts fun _ => k).endTx t .failed
  have steady : Steady ((s.modCounts fun _ => k).freeEntry t.number) x := steady_failedWith hin
  have calm : Calm allSides (s.modCounts fun _ => k) x := calm_endTx t .failed (.refl allSides _)
  have event : Only [.fs, .plk] x (s.failedWith t k) := only_faultEvent x .linkProtocol
  have proto : x.faultRec .linkProtocol = s.faultRec .linkProtocol := steady.proto
  have setting : x.faultSetting .linkProtocol = s.faultSetting .linkProtocol := by
    rw [State.faultSetting, calm.settings]
    rfl
  have cases (h : (s.faultRec .linkProtocol).state = .clear ∨ (s.faultRec .linkProtocol).state = .recovered) :=
    faultEvent_cases x .linkProtocol (by rw [proto]; exact h)
  rw [proto, setting] at cases
  refine ⟨?_, fun h3 hmem => ?_, cases, event.settings.trans calm.settings, event.sts.trans calm.sts,
    event.uptime.trans calm.uptime, (event.mu (by decide)).trans steady.mu, ?_⟩
  · rw [event.ss (by decide), steady.failed]
    exact hk
  · rw [event.ss (by decide)] at hmem
    have freed := steady.old t hmem h3
    simp [State.freeEntry, State.modSs] at freed
  · rw [event.sup (by decide)]
    exact calm.mode

/-- With no request waiting the failure tells the owner with the entry freed and nothing else changed. -/
theorem failedWith_idle (hw : s.ss.waiting = []) :
    s.failedWith t k = ((s.freed t.number k).txEnded t.req t.number .failed).faultEvent .linkProtocol := by
  rw [State.failedWith, endTx_idle _ _ _ hw]

variable {n : Byte} (awake : s.dormant = false) (hin : s.le.link = .inService)
  (ht : (s.ss.txs.find? fun x => x.number == n.toNat) = some t)
include awake hin ht

/-- The third timeout fails the transaction. -/
theorem timeout_failedWith (hleft : t.timeLeft ≠ none) (hsends : 3 ≤ t.sends) :
    ∃ k : SsCounts, k.failed = inc32 s.ss.counts.failed
      ∧ exec (.transactionTimeout n.toNat) s = .next (s.failedWith t k).settle :=
  ⟨{ s.ss.counts with failed := inc32 s.ss.counts.failed }, rfl, timeout_fails awake hin ht hleft hsends⟩

/-- So does an ACK whose fields have another layout. -/
theorem ack_failedWith {l : Byte} {body : List Byte} (hb : body.length = l.toNat) (hl : l.toNat ≤ 117)
    (hf : ackFields t.req.kind body = none) : ∃ k : SsCounts, k.failed = inc32 s.ss.counts.failed
      ∧ exec (.ack n l body) s = .next (s.failedWith t k).settle :=
  ⟨{ s.ss.counts with messages := inc32 s.ss.counts.messages, failed := inc32 s.ss.counts.failed }, rfl,
    ack_fails awake hin ht hb hl hf⟩

end

end Sys2Proof.Machine
end

section
/-!
PROOFS. What the end of each kind of transaction does at its owner (R72): the line engine (R18, R33, R34, R38), the
tracker (R49 to R51), the test unit (R150) and the call controller (R102, R104 to R106, R110).
-/

namespace Sys2Proof.Machine

-- One proof at a time: the text is compiled as one, and each proof that waits for the others holds a thread.
set_option Elab.async false

/-! ## The owner told (R72) -/

section
variable {s : State} {q : TxReq} (n : Nat) (e : TxEnd)

theorem txEnded_line :
    (q.kind = .swap → s.txEnded q n e = s.swapEnded n e) ∧ (q.kind = .rate → s.txEnded q n e = s.rateEnded n e)
    ∧ (q.kind = .profile → s.txEnded q n e = s.profileEnded q.tag e)
    ∧ (q.kind = .gateSet → s.txEnded q n e = s.gateSetEnded e)
    ∧ (q.kind = .gateClear → s.txEnded q n e = s.gateClearEnded e)
    ∧ (q.kind = .testResult → s.txEnded q n e = s.reportEnded q.tag e) := by
  unfold State.txEnded
  refine ⟨?_, ?_, ?_, ?_, ?_, ?_⟩ <;> intro h <;> rw [h]

theorem txEnded_call {p : Port} (hp : q.port = some p)
    (h : q.kind = .seize ∨ q.kind = .digit ∨ q.kind = .release ∨ q.kind = .answer ∨ q.kind = .coding) :
    s.txEnded q n e = s.callTxEnded q.kind p q.tag e := by
  unfold State.txEnded
  rcases h with h | h | h | h | h <;> rw [h, hp]

end

/-! ## The line engine (R18, R33, R34) -/

section
variable {s : State} {n : Nat}

/-- With no RATE waiting the change in flight just ends (R34). -/
theorem changeEnded_idle (r : ChangeResult) (h : s.tt.waitingRate = none) :
    s.changeEnded r = s.modTt fun x => { x with inFlight := .none, lastResult := r, waitingRate := none } := by
  unfold State.changeEnded
  rw [h]

/-- How a NAK and a failure are recorded. -/
def TxEnd.gives (e : TxEnd) (r : ChangeResult) : Prop := (e = .nak ∧ r = .refused) ∨ (e = .failed ∧ r = .failed)

theorem swapEnded_acked {d r : Nat} (h : s.tt.inFlight = .swap d r (some n) none) (x : Sf) :
    s.swapEnded n (.ack (.seff x)) = if ahead x s.le.sf then
      s.modTt fun t => { t with inFlight := .swap d r (some n) (some x) } else s.loss .protocol := by
  unfold State.swapEnded
  rw [h]
  dsimp only
  rw [if_neg (by simp)]

theorem swapEnded_ended {d r : Nat} (h : s.tt.inFlight = .swap d r (some n) none) (hw : s.tt.waitingRate = none)
    {e : TxEnd} {x : ChangeResult} (he : e.gives x) : (s.swapEnded n e) = s.modTt fun t => { t with
      inFlight := .none, lastResult := x, waitingRate := none
      lowCounts := t.lowCounts.zipIdx.map fun y => if y.2 + 32 = d then 0 else y.1 } := by
  have ended (r : ChangeResult) : (s.modTt fun t => { t with
      lowCounts := t.lowCounts.zipIdx.map fun y => if y.2 + 32 = d then 0 else y.1 }).changeEnded r =
      s.modTt fun t => { t with
        inFlight := .none, lastResult := r, waitingRate := none
        lowCounts := t.lowCounts.zipIdx.map fun y => if y.2 + 32 = d then 0 else y.1 } := changeEnded_idle r hw
  unfold State.swapEnded
  rw [h]
  dsimp only
  rw [if_neg (by simp)]
  rcases he with ⟨rfl, rfl⟩ | ⟨rfl, rfl⟩
  · exact ended .refused
  · exact ended .failed

theorem rateEnded_acked {m : RateMsg} (h : s.tt.inFlight = .rate m (some n) none) (x : Sf) :
    s.rateEnded n (.ack (.seff x)) = if ahead x s.le.sf then
      s.modTt fun t => { t with inFlight := .rate m (some n) (some x) } else s.loss .protocol := by
  unfold State.rateEnded
  rw [h]
  dsimp only
  rw [if_neg (by simp)]

theorem rateEnded_ended {m : RateMsg} (h : s.tt.inFlight = .rate m (some n) none) (hw : s.tt.waitingRate = none)
    {e : TxEnd} {x : ChangeResult} (he : e.gives x) : (s.rateEnded n e) = s.modTt fun t => { t with
      inFlight := .none, lastResult := x, waitingRate := none } := by
  unfold State.rateEnded
  rw [h]
  dsimp only
  rw [if_neg (by simp)]
  rcases he with ⟨rfl, rfl⟩ | ⟨rfl, rfl⟩
  · exact changeEnded_idle _ hw
  · exact changeEnded_idle _ hw

theorem profileEnded_change (tag : Nat) (h : tag = 1) :
    (∀ f, s.profileEnded tag (.ack f) = s.modLe fun x => { x with changeInFlight := false })
    ∧ ∀ e, e = .nak ∨ e = .failed →
      s.profileEnded tag e = (s.modLe fun x => { x with changeInFlight := false }).loss .protocol := by
  subst h
  refine ⟨fun _ => rfl, fun e he => ?_⟩
  rcases he with rfl | rfl <;> rfl

theorem profileEnded_need (tag : Nat) (h : tag ≠ 1) (e : TxEnd) :
    s.profileEnded tag e = s.modLe fun x => { x with needInFlight := false } := if_neg h

/-! ## The tracker (R49 to R51) -/

theorem gateSetEnded_cases {g : Sched} (h : s.ft.request = .set g) :
    (∀ f, s.gateSetEnded (.ack f) = if ahead g.anchor s.le.sf then
      (s.modFt fun x => { x with request := .none }).ftUpd (fun x => x.agree g)
      else (s.modFt fun x => { x with request := .none }).loss .protocol)
    ∧ s.gateSetEnded .nak = State.raise (s.modFt fun x => { x with request := .none, retry := some 10000 }) .gate
    ∧ s.gateSetEnded .failed = (s.modFt fun x => { x with request := .none }).loss .protocol := by
  unfold State.gateSetEnded
  rw [h]
  exact ⟨fun _ => rfl, rfl, rfl⟩

theorem gateClearEnded_cases {x : Sf} (h : s.ft.request = .clear x) :
    (∀ f, s.gateClearEnded (.ack f) = if ahead x s.le.sf then s.modFt fun f => { f with request := .none }
      else (s.modFt fun f => { f with request := .none }).loss .protocol)
    ∧ ∀ e, e = .nak ∨ e = .failed → s.gateClearEnded e = (s.modFt fun f => { f with request := .none }).loss .protocol := by
  unfold State.gateClearEnded
  rw [h]
  refine ⟨fun _ => rfl, fun e he => ?_⟩
  rcases he with rfl | rfl <;> rfl

/-- A loss of the link in service leaves nothing in flight (R15, R16). -/
theorem loss_empties (c : LossCause) (h : s.le.link = .inService) :
    (s.loss c).le.lastLoss = c ∧ (s.loss c).le.link ≠ .inService ∧ (s.loss c).ss.txs = []
    ∧ (s.loss c).ft.agreement = none ∧ (s.loss c).ft.request = .none := by
  obtain ⟨hloss, hlink, -⟩ := loss_line (c := c) h
  obtain ⟨-, -, -, -, hagree, hreq, htxs, -⟩ := loss_flushes (c := c) h
  exact ⟨hloss, hlink, htxs, hagree, hreq⟩

/-! ## The test unit (R150) -/

theorem reportEnded_told {tag : Nat} {i : ResultId}
    (hi : (allResults.find? fun j => (s.tu.results.get j).serial == tag) = some i)
    (hr : (s.tu.results.get i).report = .inFlight) {e : TxEnd} {x : Report}
    (he : (∃ f, e = .ack f) ∧ x = .delivered ∨ (e = .nak ∨ e = .failed) ∧ x = .undelivered) :
    s.reportEnded tag e = (s.modTu fun u => { u with
      results := u.results.set i { s.tu.results.get i with report := x } }).raise .test := by
  have undelivered : s.undelivered tag = (s.modTu fun u => { u with
      results := u.results.set i { s.tu.results.get i with report := .undelivered } }).raise .test := by
    unfold State.undelivered
    rw [hi]
    dsimp only
    rw [if_pos (by simp [hr])]
  rcases he with ⟨⟨f, rfl⟩, rfl⟩ | ⟨rfl | rfl, rfl⟩
  · unfold State.reportEnded
    dsimp only
    rw [hi]
    dsimp only
    rw [if_pos hr]
  · exact undelivered
  · exact undelivered

end

/-! ## Call records and what they name to their port -/

section
variable (s : State) (p : Port)

@[simp] theorem call_callTx (k : TxKind) (body : List Byte) (mark : CallTxs → CallTxs) (hk : k.quiet = true) :
    (s.callTx p k body mark).call p = { s.call p with txs := mark (s.call p).txs } := by
  unfold State.callTx
  dsimp only
  rw [State.call, (only_requestTx_quiet _ k _ _ _ hk).cc (by decide)]
  exact call_modCallRaw s p _

@[simp] theorem call_callTx_other (k : TxKind) (body : List Byte) (mark : CallTxs → CallTxs) (hk : k.quiet = true) :
    (s.callTx p k body mark).call p.other = s.call p.other := by
  unfold State.callTx
  dsimp only
  rw [State.call, (only_requestTx_quiet _ k _ _ _ hk).cc (by decide)]
  exact call_modCallRaw_other s p _

theorem releaseCall_call (c : RelCause) :
    (s.releaseCall p c).call p = { s.call p with
      state := .clearing, cause := c, sub := none, admission := none, decision := none, alert := none, downgrade := none
      txs := { (s.call p).txs with release := true } }
    ∧ (s.releaseCall p c).call p.other = s.call p.other := by
  unfold State.releaseCall
  dsimp only
  rw [call_callTx _ _ _ _ _ rfl, call_callTx_other _ _ _ _ _ rfl, call_updCall, call_updCall_other, call_ringOff,
    call_ringOff]
  exact ⟨rfl, rfl⟩

theorem nameAudio_tone : ((s.nameAudio p).port p).tone = ((s.call p).state.audio (s.port p).hook.isOff).2 := by
  unfold State.nameAudio State.setAudio
  cases p <;> rfl

/-- The tone a port is told at a change of its record's state (6.1). -/
theorem updCall_tone (f : CallRec → CallRec) (h : (s.call p).state ≠ (f (s.call p)).state) :
    ((s.updCall p f).port p).tone = ((f (s.call p)).state.audio (s.port p).hook.isOff).2 := by
  have call : ((s.modCallRaw p f).raiseIf (decide ((s.call p).shown ≠ (f (s.call p)).shown)) (.call p)).call p
      = f (s.call p) := by
    rw [State.call, (only_raiseIf _ _ _).cc (by decide)]
    exact call_modCallRaw s p f
  have ports : ((s.modCallRaw p f).raiseIf (decide ((s.call p).shown ≠ (f (s.call p)).shown)) (.call p)).port p
      = s.port p := by
    rw [State.port, (only_raiseIf _ _ _).ports (by decide)]
    rfl
  unfold State.updCall
  dsimp only
  rw [if_neg h, nameAudio_tone, call, ports]

/-- A change that keeps the record's state names nothing to the port. -/
theorem updCall_ports (f : CallRec → CallRec) (h : (s.call p).state = (f (s.call p)).state) :
    (s.updCall p f).ports = s.ports := by
  unfold State.updCall
  dsimp only
  rw [if_pos h, (only_raiseIf _ _ _).ports (by decide)]
  rfl

theorem callOut_dir : ((s.callOut p).call p).dir = some .out := by
  unfold State.callOut
  dsimp only
  split
  · rw [call_updCall]
  · split
    · rw [call_updCall]
    · rw [State.requestSeize, call_callTx _ _ _ _ _ rfl, call_updCall]
    · rw [call_updCall]

theorem startIntercom_dir : ((s.startIntercom p).call p).dir = some .intercom := by
  unfold State.startIntercom
  dsimp only
  split
  · rw [State.call, (only_ringPort _ _ _).cc (by decide)]
    have other (t : State) (f : CallRec → CallRec) : (t.updCall p.other f).call p = t.call p := by
      have kept := call_updCall_other t p.other f
      rwa [show p.other.other = p by cases p <;> rfl] at kept
    exact (congrArg CallRec.dir (other _ _)).trans (by rw [call_updCall])
  · rw [call_updCall]

/-- The release complete, by the hook and the recorded cause (R106). -/
theorem releaseDone_cases :
    ((s.port p).hook = .onHook → s.releaseDone p = s.freeCall p (s.call p).cause)
    ∧ ((s.port p).hook ≠ .onHook → (s.call p).cause = .normal → ((s.releaseDone p).call p).dir = some .out)
    ∧ ((s.port p).hook ≠ .onHook → (s.call p).cause = .intercom → ((s.releaseDone p).call p).dir = some .intercom)
    ∧ ((s.port p).hook ≠ .onHook → (s.call p).cause ≠ .normal → (s.call p).cause ≠ .intercom → s.releaseDone p =
      s.updCall p fun r => { r with state := .blocked, channel := none, coding := none, downgrade := none }) := by
  have off (h : (s.port p).hook ≠ .onHook) : (s.port p).hook.isOff = true := by
    cases hh : (s.port p).hook <;> simp_all [Hook.isOff]
  unfold State.releaseDone
  dsimp only
  refine ⟨fun h => if_pos (by simp [h, Hook.isOff]), fun h hc => ?_, fun h hc => ?_, fun h hn hi => ?_⟩
  · rw [if_neg (by simp [off h]), hc]
    exact callOut_dir _ p
  · rw [if_neg (by simp [off h]), hc]
    exact startIntercom_dir _ p
  · rw [if_neg (by simp [off h])]
    split
    · exact absurd ‹_› hi
    · exact absurd ‹_› hn
    · rfl

end

end Sys2Proof.Machine
end

section
/-!
PROOFS. The ends of transactions (R71, R72): what an ACK, a NAK and a failure do for each kind of request.
-/

namespace Sys2Proof.Machine

-- One proof at a time: the text is compiled as one, and each proof that waits for the others holds a thread.
set_option Elab.async false

/-! ## The command that ends a transaction -/

/-- The command ends the transaction: its entry is freed and its owner told, and only a failure's report, LINK_PROTOCOL,
may follow. -/
def State.EndedBy (s : State) (t : Tx) (n : Nat) (c : Instr) (e : TxEnd) : Prop :=
  ∃ k u, exec c s = .next u.settle ∧ Only [.fs, .plk] ((s.freed n k).txEnded t.req n e) u
    ∧ ∀ i, i ≠ FaultId.linkProtocol → u.faultRec i = ((s.freed n k).txEnded t.req n e).faultRec i

/-- The state after an ACK, as its owner finds it: the entry freed and the message counted. -/
def State.acked (s : State) (n : Nat) : State :=
  s.freed n { s.ss.counts with messages := inc32 s.ss.counts.messages }

/-- A body with another layout than the kind's result fields (log 26). -/
def otherLayout (k : TxKind) (body : List Byte) : Prop :=
  (k = .seize → body.length ≠ 2) ∧ (k = .coding ∨ k = .swap ∨ k = .rate → body.length ≠ 4)
  ∧ (k ≠ .seize → k ≠ .coding → k ≠ .swap → k ≠ .rate → body ≠ [])

section
variable {s : State} {n : Byte} {t : Tx} (awake : s.dormant = false) (hin : s.le.link = .inService)
  (ht : (s.ss.txs.find? fun x => x.number == n.toNat) = some t) (hw : s.ss.waiting = [])
include awake hin ht hw

theorem nak_acked (cause : Byte) :
    exec (.nak n 1 [cause]) s = .next ((s.acked n.toNat).txEnded t.req n.toNat .nak).settle := by
  rw [nak_ends awake hin ht cause, State.received, endTx_idle _ _ _ hw, found_number ht]
  rfl

theorem endedBy_nak (cause : Byte) : s.EndedBy t n.toNat (.nak n 1 [cause]) .nak :=
  ⟨_, _, nak_acked awake hin ht hw cause, .refl _ _, fun _ _ => rfl⟩

theorem ack_acked {l : Byte} {body : List Byte} (hb : body.length = l.toNat) (hl : l.toNat ≤ 117) {f : AckFields}
    (hf : ackFields t.req.kind body = some f) :
    exec (.ack n l body) s = .next ((s.acked n.toNat).txEnded t.req n.toNat (.ack f)).settle := by
  rw [ack_ends awake hin ht hb hl hf, State.received, endTx_idle _ _ _ hw, found_number ht]
  rfl

omit awake hin in
theorem endedBy_failedWith {c : Instr} {k : SsCounts} (h : exec c s = .next (s.failedWith t k).settle) :
    s.EndedBy t n.toNat c .failed := by
  refine ⟨k, _, h, ?_⟩
  rw [failedWith_idle hw, found_number ht]
  exact ⟨only_faultEvent _ _, fun i hi => (reported_faultEventCore _ .linkProtocol _).others i hi⟩

/-- The ACK of a request whose result fields are empty. -/
theorem ack_empty (hf : ackFields t.req.kind [] = some .empty) :
    exec (.ack n 0 []) s = .next ((s.acked n.toNat).txEnded t.req n.toNat (.ack .empty)).settle :=
  ack_acked awake hin ht hw rfl (by decide) hf

/-- The ACK of a request whose result field is a superframe. -/
theorem ack_seff (hk : t.req.kind = .coding ∨ t.req.kind = .swap ∨ t.req.kind = .rate) (e : Sf) :
    exec (.ack n 4 (wBV e)) s = .next ((s.acked n.toNat).txEnded t.req n.toNat (.ack (.seff e))).settle :=
  ack_acked awake hin ht hw (by simp [wBV_eq, w32_eq, w16_eq]) (by decide) (ackFields_seff hk e)

end

section
variable {s : State} {n : Nat} {t : Tx} {c : Instr} {e : TxEnd}

theorem endedBy_of_exec {k : SsCounts} (h : exec c s = .next ((s.freed n k).txEnded t.req n e).settle) :
    s.EndedBy t n c e := ⟨k, _, h, .refl _ _, fun _ _ => rfl⟩

/-- Where the owner's answer is to end service, nothing stays in flight. -/
theorem State.EndedBy.loses (h : s.EndedBy t n c e)
    (hl : ∀ k, ∃ x : State, x.le.link = .inService ∧ (s.freed n k).txEnded t.req n e = x.loss .protocol) :
    ∃ u : State, exec c s = .next u.settle ∧ u.le.lastLoss = .protocol ∧ u.le.link ≠ .inService ∧ u.ss.txs = []
      ∧ u.ft.agreement = none ∧ u.ft.request = .none := by
  obtain ⟨k, u, hu, only, -⟩ := h
  obtain ⟨x, hx, lost⟩ := hl k
  rw [lost] at only
  refine ⟨u, hu, ?_⟩
  rw [only.le (by decide), only.ss (by decide), only.ft (by decide)]
  exact loss_empties .protocol hx

/-- Where it is an update of the tone tables, that is all the report leaves changed. -/
theorem State.EndedBy.updates (h : s.EndedBy t n c e) {x : Tables}
    (hx : ∀ k, (s.freed n k).txEnded t.req n e = (s.freed n k).modTt fun _ => x) :
    ∃ u : State, exec c s = .next u.settle ∧ u.tt = x ∧ u.le = s.le
      ∧ u.ss.txs = s.ss.txs.filter (fun x => x.number != n) ∧ u.cc = s.cc ∧ u.ports = s.ports := by
  obtain ⟨k, u, hu, only, -⟩ := h
  rw [hx] at only
  refine ⟨u, hu, ?_⟩
  rw [only.tt (by decide), only.le (by decide), only.ss (by decide), only.cc (by decide), only.ports (by decide)]
  exact ⟨rfl, rfl, rfl, rfl, rfl⟩

/-- A call's record is told where the call that asked is still the port's (log 33). -/
theorem txEnded_own {x : State} {p : Port} (hp : t.req.port = some p) (hs : t.req.tag = (x.call p).serial) :
    (t.req.kind = .seize → x.txEnded t.req n e = (x.unmarked p .seize).seizeEnded p e)
    ∧ (t.req.kind = .release → x.txEnded t.req n e = (x.unmarked p .release).releaseEnded p)
    ∧ (t.req.kind = .answer → x.txEnded t.req n e = (x.unmarked p .answer).answerEnded p e)
    ∧ (t.req.kind = .digit → x.txEnded t.req n e = (x.unmarked p .digit).digitEnded p e)
    ∧ (t.req.kind = .coding → x.txEnded t.req n e = (x.unmarked p .coding).codingEnded p e) := by
  obtain ⟨seize, release, answer, digit, coding⟩ := callTxEnded_own x p t.req.tag e hs.symm
  refine ⟨fun h => ?_, fun h => ?_, fun h => ?_, fun h => ?_, fun h => ?_⟩ <;>
    rw [txEnded_call n e hp (by simp [h]), h] <;> assumption

theorem txEnded_stranger {x : State} {p : Port} (hp : t.req.port = some p) (hs : t.req.tag ≠ (x.call p).serial)
    (hk : t.req.kind = .seize ∨ t.req.kind = .digit ∨ t.req.kind = .release ∨ t.req.kind = .answer
      ∨ t.req.kind = .coding) : x.txEnded t.req n e = x := by
  rw [txEnded_call n e hp hk]
  exact callTxEnded_other x _ p _ e (Ne.symm hs)

end

/-! ## What a call's owner does -/

section
variable {s : State} {p : Port}

/-- A failed or refused end of a call's transaction. -/
def TxEnd.bad (e : TxEnd) : Prop := e = .nak ∨ e = .failed

theorem call_unmarked (k : TxKind) :
    (s.unmarked p k).call p = { s.call p with txs := (s.call p).txs.without k } := call_modCallRaw s p _

theorem call_unmarked_other (k : TxKind) : (s.unmarked p k).call p.other = s.call p.other :=
  call_modCallRaw_other s p _

theorem only_unmarked (k : TxKind) : Only [.cc] s (s.unmarked p k) := only_modCallRaw s p _

theorem markDigits_port (f : Nat → Bool) (m : Mark) : (s.markDigits p f m).port p = { s.port p with
    digits := (s.port p).digits.zipIdx.map fun x => if f x.2 = true ∧ x.1.mark = .pending then { x.1 with mark := m } else x.1 } := by
  unfold State.markDigits
  dsimp only
  rw [State.port, (only_raiseIf _ _ _).ports (by decide), ← State.port]
  cases p <;> simp [State.modPort, State.port]

theorem markDigits_port_other (f : Nat → Bool) (m : Mark) : (s.markDigits p f m).port p.other = s.port p.other := by
  unfold State.markDigits
  dsimp only
  rw [State.port, (only_raiseIf _ _ _).ports (by decide)]
  cases p <;> rfl

theorem digitEnded_acked (h : (s.call p).state = .dialling ∨ (s.call p).state = .connected) (f : AckFields) :
    s.digitEnded p (.ack f) = s.markDigits p (fun i => decide (i < (s.call p).digitsUpTo)) .forwarded :=
  if_pos (by simpa using h)

theorem digitEnded_bad (h : (s.call p).state = .dialling ∨ (s.call p).state = .connected) {e : TxEnd} (he : e.bad) :
    s.digitEnded p e = s.releaseCall p .protocol := by
  rcases he with rfl | rfl
  · exact if_pos (by simpa using h)
  · exact if_pos (by simpa using h)

theorem answerEnded_bad (h : (s.call p).state = .connected) {e : TxEnd} (he : e.bad) :
    s.answerEnded p e = s.releaseCall p .protocol := by
  rcases he with rfl | rfl
  · exact if_pos h
  · exact if_pos h

theorem releaseEnded_clearing (h : (s.call p).state = .clearing) : s.releaseEnded p = s.releaseDone p := if_pos h

theorem codingEnded_acked (h : (s.call p).carries = true) (hd : (s.call p).downgrade ≠ none) (x : Sf) :
    s.codingEnded p (.ack (.seff x)) = if ahead x s.le.sf then
      s.updCall p fun r => { r with downgrade := some { seff := some x } } else s.loss .protocol :=
  if_pos (by simp [h, Option.isSome_iff_ne_none, hd])

theorem codingEnded_bad (h : (s.call p).carries = true) (hd : (s.call p).downgrade ≠ none) {e : TxEnd} (he : e.bad) :
    s.codingEnded p e = (s.releaseCall p .capacity).faultEvent (FaultId.voiceCapacity p) := by
  rcases he with rfl | rfl
  · exact if_pos (by simp [h, Option.isSome_iff_ne_none, hd])
  · exact if_pos (by simp [h, Option.isSome_iff_ne_none, hd])

/-- The cause a SEIZE that ended without a channel leaves (R104, log 21). -/
def seizeCause (r : CallRec) (e : TxEnd) : RelCause :=
  if e = .nak then (if r.state = .clearing then r.cause else .refused) else .protocol

theorem seizeEnded_bad (h : (s.call p).state = .seizing ∨ (s.call p).state = .clearing) {e : TxEnd} (he : e.bad) :
    s.seizeEnded p e = s.seizeRefused p (seizeCause (s.call p) e) := by
  rcases he with rfl | rfl
  · exact if_pos (by simpa using h)
  · exact if_pos (by simpa using h)

theorem seizeRefused_seizing (h : (s.call p).state = .seizing) (c : RelCause) :
    s.seizeRefused p c = s.updCall p fun r => { r with state := .blocked, cause := c, coding := none } :=
  if_neg (by simp [h])

theorem seizeRefused_clearing (h : (s.call p).state = .clearing) (c : RelCause) :
    s.seizeRefused p c = (s.updCall p fun r => { r with cause := c }).releaseDone p := if_pos h

/-- A change that keeps the record's state keeps what the other blocks see. -/
theorem updCall_hook (f : CallRec → CallRec) (h : (s.call p).state = (f (s.call p)).state) :
    (s.updCall p f).port p = s.port p := by
  rw [State.port, updCall_ports s p f h]
  rfl

theorem freeCall_call (c : RelCause) : (s.freeCall p c).call p = { Reset.call with cause := c }
    ∧ (s.freeCall p c).call p.other = s.call p.other :=
  ⟨call_updCall s p _, call_updCall_other s p _⟩

theorem only_callOut : Only [.cc, .plk, .ports, .ss] s (s.callOut p) := by
  have taken : Only [.cc] s s.takeSerial.1 := only_takeSerial s
  unfold State.callOut
  dsimp only
  split
  · exact taken.seq (only_updCall _ p _)
  · split
    · exact taken.seq (only_updCall _ p _)
    · exact .seq (l := [.cc, .plk, .ports]) (m := [.cc, .ss]) (taken.seq (only_updCall _ p _)) (only_requestSeize _ p _)
    · exact taken.seq (only_updCall _ p _)

theorem only_startIntercom : Only [.cc, .plk, .ports, .ss] s (s.startIntercom p) := by
  have taken : Only [.cc] s s.takeSerial.1 := only_takeSerial s
  unfold State.startIntercom
  dsimp only
  split
  · exact .seq (l := [.cc, .plk, .ports]) (m := [.ports])
      (.seq (l := [.cc, .plk, .ports]) (m := [.cc, .plk, .ports]) (taken.seq (only_updCall _ p _)) (only_updCall _ _ _))
      (only_ringPort _ _ _)
  · exact taken.seq (only_updCall _ p _)

theorem only_releaseDone : Only [.cc, .plk, .ports, .ss] s (s.releaseDone p) := by
  unfold State.releaseDone
  dsimp only
  split
  · exact (only_freeCall s p _).within
  · split
    · exact only_startIntercom
    · exact .seq (only_freeCall s p _) only_callOut
    · exact (only_updCall s p _).within

end

/-! ## What the call keeps and shows once its transaction has ended -/

section
variable {s : State} {n : Nat} {t : Tx} {c : Instr} {e : TxEnd} {p : Port} (h : s.EndedBy t n c e)
include h

/-- A transaction that ends badly and has the call released. -/
theorem State.EndedBy.releases {cause : RelCause}
    (hf : ∀ k, (s.freed n k).txEnded t.req n e = ((s.freed n k).unmarked p t.req.kind).releaseCall p cause) :
    ∃ u : State, exec c s = .next u.settle ∧ (u.call p).state = .clearing ∧ (u.call p).cause = cause
      ∧ (u.call p).channel = (s.call p).channel
      ∧ (u.call p).txs = { (s.call p).txs.without t.req.kind with release := true }
      ∧ u.call p.other = s.call p.other ∧ u.le = s.le := by
  obtain ⟨k, u, hu, only, -⟩ := h
  rw [hf] at only
  have call (q : Port) : u.call q = (((s.freed n k).unmarked p t.req.kind).releaseCall p cause).call q := by
    rw [State.call, only.cc (by decide)]
    rfl
  obtain ⟨own, other⟩ := releaseCall_call ((s.freed n k).unmarked p t.req.kind) p cause
  refine ⟨u, hu, ?_⟩
  rw [call, call, own, other, call_unmarked, call_unmarked_other, only.le (by decide),
    (only_releaseCall _ p cause).le (by decide), (only_unmarked _).le (by decide)]
  exact ⟨rfl, rfl, rfl, rfl, rfl, rfl⟩

/-- A transaction that ends badly and has the call released, with the VOICE_CAPACITY event (R102). -/
theorem State.EndedBy.downgradeFails
    (hf : ∀ k, (s.freed n k).txEnded t.req n e =
      (((s.freed n k).unmarked p t.req.kind).releaseCall p .capacity).faultEvent (FaultId.voiceCapacity p)) :
    ∃ u : State, exec c s = .next u.settle ∧ (u.call p).state = .clearing ∧ (u.call p).cause = .capacity
      ∧ (u.call p).downgrade = none
      ∧ (u.call p).txs = { (s.call p).txs.without t.req.kind with release := true }
      ∧ ((s.faultSetting (FaultId.voiceCapacity p)).policy = .report →
          (s.faultRec (FaultId.voiceCapacity p)).state = .clear
            ∨ (s.faultRec (FaultId.voiceCapacity p)).state = .recovered →
          (u.faultRec (FaultId.voiceCapacity p)).count
            = min 255 ((s.faultRec (FaultId.voiceCapacity p)).count + 1))
      ∧ u.call p.other = s.call p.other ∧ u.le = s.le := by
  obtain ⟨k, u, hu, only, faults⟩ := h
  rw [hf] at only faults
  let x := (s.freed n k).unmarked p t.req.kind
  let y := x.releaseCall p .capacity
  have event : Only [.fs, .plk] y (y.faultEvent (FaultId.voiceCapacity p)) := only_faultEvent _ _
  have released : Only [.cc, .plk, .ports, .ss] x y := only_releaseCall _ p _
  have unmarked : Only [.cc] (s.freed n k) x := only_unmarked _
  have call (q : Port) : u.call q = y.call q := by
    rw [State.call, only.cc (by decide), event.cc (by decide)]
    rfl
  have record : y.faultRec (FaultId.voiceCapacity p) = s.faultRec (FaultId.voiceCapacity p) := by
    rw [State.faultRec, released.fs (by decide), unmarked.fs (by decide)]
    rfl
  have setting : y.faultSetting (FaultId.voiceCapacity p) = s.faultSetting (FaultId.voiceCapacity p) := by
    rw [State.faultSetting, released.settings, unmarked.settings]
    rfl
  have count := faultEvent_cases y (FaultId.voiceCapacity p)
  rw [record, setting] at count
  obtain ⟨own, other⟩ := releaseCall_call x p .capacity
  refine ⟨u, hu, ?_⟩
  rw [call, call, own, other, call_unmarked, call_unmarked_other, only.le (by decide), event.le (by decide),
    released.le (by decide), unmarked.le (by decide), faults _ (by cases p <;> decide)]
  exact ⟨rfl, rfl, rfl, rfl, fun hp hst => ((count hst).1 hp).2, rfl, rfl⟩

end

section
variable {s : State} {p : Port}

/-- The end of a release of a call whose record is in CLEARING (R106). -/
theorem releaseDone_ends (s : State) (p : Port) :
    ((s.port p).hook = .onHook → (s.releaseDone p).call p = { Reset.call with cause := (s.call p).cause }
      ∧ (s.releaseDone p).call p.other = s.call p.other)
    ∧ ((s.port p).hook ≠ .onHook → (s.call p).cause = .normal → ((s.releaseDone p).call p).dir = some .out)
    ∧ ((s.port p).hook ≠ .onHook → (s.call p).cause = .intercom → ((s.releaseDone p).call p).dir = some .intercom)
    ∧ ((s.port p).hook ≠ .onHook → (s.call p).state = .clearing → (s.call p).cause ≠ .normal →
      (s.call p).cause ≠ .intercom → (s.releaseDone p).call p = { s.call p with
          state := .blocked, channel := none, coding := none, downgrade := none }
        ∧ (s.releaseDone p).call p.other = s.call p.other ∧ ((s.releaseDone p).port p).tone = .congestion) := by
  obtain ⟨on, out, intercom, stays⟩ := releaseDone_cases s p
  refine ⟨fun hh => ?_, out, intercom, fun hh hc hn hi => ?_⟩
  · rw [on hh]
    exact freeCall_call _
  · rw [stays hh hn hi]
    refine ⟨call_updCall s p _, call_updCall_other s p _, ?_⟩
    exact updCall_tone s p _ (by rw [hc]; simp)

end

end Sys2Proof.Machine
end

section
/-!
PROOFS. The ends of transactions (R71, R72), kind by kind, and the statement itself.
-/

namespace Sys2Proof.Machine

-- One proof at a time: the text is compiled as one, and each proof that waits for the others holds a thread.
set_option Elab.async false

/-- Operations elsewhere leave the call records as they are. -/
theorem Only.call {l : List Block} {s u : State} (h : Only l s u) (p : Port) (hl : Block.cc ∉ l := by decide) :
    u.call p = s.call p := by
  rw [State.call, h.cc hl]
  rfl

/-! ## Tests and the scheduling agreement (R49 to R51, R150) -/

section
variable {s : State} {n : Nat} {t : Tx} {c : Instr} {e : TxEnd} (h : s.EndedBy t n c e)
include h

theorem State.EndedBy.reported (hk : t.req.kind = .testResult) {i : ResultId}
    (hi : (allResults.find? fun j => (s.tu.results.get j).serial == t.req.tag) = some i)
    (hr : (s.tu.results.get i).report = .inFlight) {x : Report}
    (he : (∃ f, e = .ack f) ∧ x = .delivered ∨ (e = .nak ∨ e = .failed) ∧ x = .undelivered) :
    ∃ u : State, exec c s = .next u.settle
      ∧ u.tu = { s.tu with results := s.tu.results.set i { s.tu.results.get i with report := x } }
      ∧ u.le = s.le ∧ u.ss.txs = s.ss.txs.filter (fun x => x.number != n) ∧ u.cc = s.cc := by
  obtain ⟨k, u, hu, only, -⟩ := h
  have told := (txEnded_line (s := s.freed n k) n e).2.2.2.2.2 hk
  rw [told, reportEnded_told (s := s.freed n k) hi hr he] at only
  refine ⟨u, hu, ?_⟩
  rw [only.tu (by decide), only.le (by decide), only.ss (by decide), only.cc (by decide)]
  exact ⟨rfl, rfl, rfl, rfl⟩

theorem State.EndedBy.needOver (hk : t.req.kind = .profile) (ht : t.req.tag ≠ 1) :
    ∃ u : State, exec c s = .next u.settle ∧ u.le = { s.le with needInFlight := false } ∧ u.tt = s.tt
      ∧ u.ss.txs = s.ss.txs.filter (fun x => x.number != n) ∧ u.cc = s.cc := by
  obtain ⟨k, u, hu, only, -⟩ := h
  have told := (txEnded_line (s := s.freed n k) n e).2.2.1 hk
  rw [told, profileEnded_need _ ht] at only
  refine ⟨u, hu, ?_⟩
  rw [only.tt (by decide), only.le (by decide), only.ss (by decide), only.cc (by decide)]
  exact ⟨rfl, rfl, rfl, rfl⟩

/-- A change of profile refused or failed ends service (R18, log 32). -/
theorem State.EndedBy.changeLost (hin : s.le.link = .inService) (hk : t.req.kind = .profile) (ht : t.req.tag = 1)
    (he : e.bad) : ∃ u : State, exec c s = .next u.settle ∧ u.le.lastLoss = .protocol ∧ u.le.link ≠ .inService
      ∧ u.ss.txs = [] := by
  obtain ⟨u, hu, hl, hn, htx, -⟩ := h.loses fun k => ⟨(s.freed n k).modLe fun x => { x with changeInFlight := false }, hin, by
    rw [(txEnded_line (s := s.freed n k) n e).2.2.1 hk]
    exact (profileEnded_change _ ht).2 e he⟩
  exact ⟨u, hu, hl, hn, htx⟩

omit h in
/-- The answers to a GATE_SET (R49 to R51). -/
theorem gateSet_ended {g : Sched} (hk : t.req.kind = .gateSet) (hg : s.ft.request = .set g) (k : SsCounts) :
    (s.freed n k).txEnded t.req n e = (s.freed n k).gateSetEnded e
    ∧ (s.freed n k).ft.request = .set g :=
  ⟨(txEnded_line (s := s.freed n k) n e).2.2.2.1 hk, hg⟩

/-- A GATE_SET whose answer ends service: acknowledged too late, or failed (R49). -/
theorem State.EndedBy.gateSetLost {g : Sched} (hin : s.le.link = .inService) (hk : t.req.kind = .gateSet)
    (hg : s.ft.request = .set g) (he : (∃ f, e = .ack f) ∧ ahead g.anchor s.le.sf = false ∨ e = .failed) :
    ∃ u : State, exec c s = .next u.settle ∧ u.le.lastLoss = .protocol ∧ u.le.link ≠ .inService ∧ u.ss.txs = []
      ∧ u.ft.agreement = none ∧ u.ft.request = .none := by
  refine h.loses fun k => ⟨(s.freed n k).modFt fun x => { x with request := .none }, hin, ?_⟩
  obtain ⟨acked, -, failed⟩ := gateSetEnded_cases (s := s.freed n k) hg
  rw [(gateSet_ended (e := e) hk hg k).1]
  rcases he with ⟨⟨f, rfl⟩, late⟩ | rfl
  · rw [acked f]
    exact if_neg (by simp [State.freed, late])
  · exact failed

/-- A GATE_CLEAR whose answer ends service (R51). -/
theorem State.EndedBy.gateClearLost {x : Sf} (hin : s.le.link = .inService) (hk : t.req.kind = .gateClear)
    (hg : s.ft.request = .clear x) (he : (∃ f, e = .ack f) ∧ ahead x s.le.sf = false ∨ e.bad) :
    ∃ u : State, exec c s = .next u.settle ∧ u.le.lastLoss = .protocol ∧ u.le.link ≠ .inService ∧ u.ss.txs = []
      ∧ u.ft.agreement = none ∧ u.ft.request = .none := by
  refine h.loses fun k => ⟨(s.freed n k).modFt fun x => { x with request := .none }, hin, ?_⟩
  obtain ⟨acked, bad⟩ := gateClearEnded_cases (s := s.freed n k) hg
  rw [(txEnded_line (s := s.freed n k) n e).2.2.2.2.1 hk]
  rcases he with ⟨⟨f, rfl⟩, late⟩ | he
  · rw [acked f]
    exact if_neg (by simp [State.freed, late])
  · exact bad e he

end

/-! ## SWAP and RATE (R33, R34) -/

section
variable {s : State} {n : Nat} {t : Tx} {c : Instr} {e : TxEnd} (h : s.EndedBy t n c e)
include h

theorem State.EndedBy.swapLost {d r : Nat} (hin : s.le.link = .inService) (hk : t.req.kind = .swap)
    (hf : s.tt.inFlight = .swap d r (some n) none) {x : Sf} (he : e = .ack (.seff x)) (late : ahead x s.le.sf = false) :
    ∃ u : State, exec c s = .next u.settle ∧ u.le.lastLoss = .protocol ∧ u.le.link ≠ .inService ∧ u.ss.txs = [] := by
  obtain ⟨u, hu, hl, hn, htx, -⟩ := h.loses fun k => ⟨s.freed n k, hin, by
    rw [(txEnded_line (s := s.freed n k) n e).1 hk, he, swapEnded_acked (s := s.freed n k) hf]
    exact if_neg (by simp [State.freed, late])⟩
  exact ⟨u, hu, hl, hn, htx⟩

theorem State.EndedBy.rateLost {m : RateMsg} (hin : s.le.link = .inService) (hk : t.req.kind = .rate)
    (hf : s.tt.inFlight = .rate m (some n) none) {x : Sf} (he : e = .ack (.seff x)) (late : ahead x s.le.sf = false) :
    ∃ u : State, exec c s = .next u.settle ∧ u.le.lastLoss = .protocol ∧ u.le.link ≠ .inService ∧ u.ss.txs = [] := by
  obtain ⟨u, hu, hl, hn, htx, -⟩ := h.loses fun k => ⟨s.freed n k, hin, by
    rw [(txEnded_line (s := s.freed n k) n e).2.1 hk, he, rateEnded_acked (s := s.freed n k) hf]
    exact if_neg (by simp [State.freed, late])⟩
  exact ⟨u, hu, hl, hn, htx⟩

theorem State.EndedBy.swapOver {d r : Nat} (hk : t.req.kind = .swap) (hf : s.tt.inFlight = .swap d r (some n) none)
    (hw : s.tt.waitingRate = none) {x : ChangeResult} (he : e.gives x) :
    ∃ u : State, exec c s = .next u.settle
      ∧ u.tt = { s.tt with
          inFlight := .none, lastResult := x
          lowCounts := s.tt.lowCounts.zipIdx.map fun y => if y.2 + 32 = d then 0 else y.1 }
      ∧ u.le = s.le ∧ u.ss.txs = s.ss.txs.filter (fun x => x.number != n) ∧ u.cc = s.cc ∧ u.ports = s.ports := by
  refine h.updates fun k => ?_
  rw [(txEnded_line (s := s.freed n k) n e).1 hk, swapEnded_ended (s := s.freed n k) hf hw he, ← hw]
  rfl

theorem State.EndedBy.rateOver {m : RateMsg} (hk : t.req.kind = .rate) (hf : s.tt.inFlight = .rate m (some n) none)
    (hw : s.tt.waitingRate = none) {x : ChangeResult} (he : e.gives x) :
    ∃ u : State, exec c s = .next u.settle ∧ u.tt = { s.tt with inFlight := .none, lastResult := x }
      ∧ u.le = s.le ∧ u.ss.txs = s.ss.txs.filter (fun x => x.number != n) ∧ u.cc = s.cc ∧ u.ports = s.ports := by
  refine h.updates fun k => ?_
  rw [(txEnded_line (s := s.freed n k) n e).2.1 hk, rateEnded_ended (s := s.freed n k) hf hw he, ← hw]
  rfl

end

/-! ## Calls (R102, R104 to R106, R110) -/

section
variable {s : State} {n : Nat} {t : Tx} {c : Instr} {e : TxEnd} {p : Port} (h : s.EndedBy t n c e)
  (hp : t.req.port = some p)
include h hp

theorem State.EndedBy.stranger (hs : t.req.tag ≠ (s.call p).serial)
    (hk : t.req.kind = .seize ∨ t.req.kind = .digit ∨ t.req.kind = .release ∨ t.req.kind = .answer
      ∨ t.req.kind = .coding) :
    ∃ u : State, exec c s = .next u.settle ∧ u.cc = s.cc ∧ u.ports = s.ports ∧ u.le = s.le
      ∧ u.ss.txs = s.ss.txs.filter (fun x => x.number != n) := by
  obtain ⟨k, u, hu, only, -⟩ := h
  rw [txEnded_stranger (x := s.freed n k) hp hs hk] at only
  refine ⟨u, hu, ?_⟩
  rw [only.cc (by decide), only.ports (by decide), only.le (by decide), only.ss (by decide)]
  exact ⟨rfl, rfl, rfl, rfl⟩

variable (hs : t.req.tag = (s.call p).serial)
include hs

theorem State.EndedBy.digitLost (hk : t.req.kind = .digit)
    (hst : (s.call p).state = .dialling ∨ (s.call p).state = .connected) (he : e.bad) :
    ∃ u : State, exec c s = .next u.settle ∧ (u.call p).state = .clearing ∧ (u.call p).cause = .protocol
      ∧ (u.call p).channel = (s.call p).channel
      ∧ (u.call p).txs = { (s.call p).txs with digit := false, release := true }
      ∧ u.call p.other = s.call p.other ∧ u.le = s.le := by
  have released := h.releases (p := p) (cause := .protocol) fun k => by
    rw [(txEnded_own (x := s.freed n k) hp hs).2.2.2.1 hk, hk, digitEnded_bad _ he]
    rw [call_unmarked]
    exact hst
  rwa [hk] at released

theorem State.EndedBy.answerLost (hk : t.req.kind = .answer) (hst : (s.call p).state = .connected) (he : e.bad) :
    ∃ u : State, exec c s = .next u.settle ∧ (u.call p).state = .clearing ∧ (u.call p).cause = .protocol
      ∧ (u.call p).txs = { (s.call p).txs with answer := false, release := true }
      ∧ u.call p.other = s.call p.other ∧ u.le = s.le := by
  have released := h.releases (p := p) (cause := .protocol) fun k => by
    rw [(txEnded_own (x := s.freed n k) hp hs).2.2.1 hk, hk, answerEnded_bad _ he]
    rw [call_unmarked]
    exact hst
  obtain ⟨u, hu, state, cause, -, marks, rest⟩ := released
  rw [hk] at marks
  exact ⟨u, hu, state, cause, marks, rest⟩

theorem State.EndedBy.codingRefused (hk : t.req.kind = .coding) (hc : (s.call p).carries = true)
    (hd : (s.call p).downgrade ≠ none) (he : e.bad) :
    ∃ u : State, exec c s = .next u.settle ∧ (u.call p).state = .clearing ∧ (u.call p).cause = .capacity
      ∧ (u.call p).downgrade = none
      ∧ (u.call p).txs = { (s.call p).txs with coding := false, release := true }
      ∧ ((s.faultSetting (FaultId.voiceCapacity p)).policy = .report →
          (s.faultRec (FaultId.voiceCapacity p)).state = .clear
            ∨ (s.faultRec (FaultId.voiceCapacity p)).state = .recovered →
          (u.faultRec (FaultId.voiceCapacity p)).count
            = min 255 ((s.faultRec (FaultId.voiceCapacity p)).count + 1))
      ∧ u.call p.other = s.call p.other ∧ u.le = s.le := by
  have released := h.downgradeFails (p := p) fun k => by
    rw [(txEnded_own (x := s.freed n k) hp hs).2.2.2.2 hk, hk, codingEnded_bad _ _ he]
    · rw [call_unmarked]
      exact hc
    · rw [call_unmarked]
      exact hd
  rwa [hk] at released

theorem State.EndedBy.codingLate (hin : s.le.link = .inService) (hk : t.req.kind = .coding)
    (hc : (s.call p).carries = true) (hd : (s.call p).downgrade ≠ none) {x : Sf} (he : e = .ack (.seff x))
    (late : ahead x s.le.sf = false) :
    ∃ u : State, exec c s = .next u.settle ∧ u.le.lastLoss = .protocol ∧ u.le.link ≠ .inService ∧ u.ss.txs = [] := by
  obtain ⟨u, hu, hl, hn, htx, -⟩ := h.loses fun k => ⟨(s.freed n k).unmarked p .coding, hin, by
    have own : ((s.freed n k).unmarked p .coding).call p = { s.call p with txs := (s.call p).txs.without .coding } :=
      call_unmarked _
    rw [(txEnded_own (x := s.freed n k) hp hs).2.2.2.2 hk, he, codingEnded_acked _ _ x]
    · exact if_neg (by simp [State.unmarked, State.freed, State.modCallRaw, State.modCc, late])
    · rw [own]
      exact hc
    · rw [own]
      exact hd⟩
  exact ⟨u, hu, hl, hn, htx⟩

theorem State.EndedBy.releaseOver (hk : t.req.kind = .release) (hst : (s.call p).state = .clearing) :
    ∃ u : State, exec c s = .next u.settle ∧ u.le = s.le
      ∧ ((s.port p).hook = .onHook → u.call p = { Reset.call with cause := (s.call p).cause }
          ∧ u.call p.other = s.call p.other)
      ∧ ((s.port p).hook ≠ .onHook → (s.call p).cause = .normal → (u.call p).dir = some .out)
      ∧ ((s.port p).hook ≠ .onHook → (s.call p).cause = .intercom → (u.call p).dir = some .intercom)
      ∧ ((s.port p).hook ≠ .onHook → (s.call p).cause ≠ .normal → (s.call p).cause ≠ .intercom →
          u.call p = { s.call p with
            state := .blocked, channel := none, coding := none, downgrade := none
            txs := { (s.call p).txs with release := false } }
          ∧ u.call p.other = s.call p.other ∧ (u.port p).tone = .congestion) := by
  obtain ⟨k, u, hu, only, -⟩ := h
  let x := (s.freed n k).unmarked p .release
  have own : x.call p = { s.call p with txs := (s.call p).txs.without .release } := call_unmarked _
  have other : x.call p.other = s.call p.other := call_unmarked_other _
  have port : x.port p = s.port p := rfl
  have done : (s.freed n k).txEnded t.req n e = x.releaseDone p := by
    rw [(txEnded_own (x := s.freed n k) hp hs).2.1 hk]
    exact releaseEnded_clearing (by rw [own]; exact hst)
  rw [done] at only
  have call (q : Port) : u.call q = (x.releaseDone p).call q := by
    rw [State.call, only.cc (by decide)]
    rfl
  have tone : (u.port p).tone = ((x.releaseDone p).port p).tone := by
    rw [State.port, only.ports (by decide)]
    rfl
  have ends := releaseDone_ends x p
  rw [own, other, port] at ends
  obtain ⟨on, out, intercom, stays⟩ := ends
  refine ⟨u, hu, ?_⟩
  rw [call, call, tone, only.le (by decide), only_releaseDone.le (by decide)]
  exact ⟨rfl, on, out, intercom, fun hh => stays hh hst⟩

theorem State.EndedBy.seizeOver (hk : t.req.kind = .seize) (he : e.bad) :
    ∃ u : State, exec c s = .next u.settle ∧ u.le = s.le
      ∧ ((s.call p).state = .seizing → u.call p = { s.call p with
          state := .blocked, coding := none, cause := seizeCause (s.call p) e
          txs := { (s.call p).txs with seize := false } }
        ∧ u.call p.other = s.call p.other ∧ (u.port p).tone = .congestion)
      ∧ ((s.call p).state = .clearing → (s.port p).hook = .onHook →
        u.call p = { Reset.call with cause := seizeCause (s.call p) e } ∧ u.call p.other = s.call p.other)
      ∧ ((s.call p).state = .clearing → (s.port p).hook ≠ .onHook → e = .failed →
        u.call p = { s.call p with
          state := .blocked, cause := .protocol, channel := none, coding := none, downgrade := none
          txs := { (s.call p).txs with seize := false } }
        ∧ u.call p.other = s.call p.other ∧ (u.port p).tone = .congestion) := by
  obtain ⟨k, u, hu, only, -⟩ := h
  let x := (s.freed n k).unmarked p .seize
  have own : x.call p = { s.call p with txs := (s.call p).txs.without .seize } := call_unmarked _
  have other : x.call p.other = s.call p.other := call_unmarked_other _
  have told : (s.freed n k).txEnded t.req n e = x.seizeEnded p e := (txEnded_own (x := s.freed n k) hp hs).1 hk
  rw [told] at only
  have call (q : Port) : u.call q = (x.seizeEnded p e).call q := by
    rw [State.call, only.cc (by decide)]
    rfl
  have tone : (u.port p).tone = ((x.seizeEnded p e).port p).tone := by
    rw [State.port, only.ports (by decide)]
    rfl
  have cause : seizeCause (x.call p) e = seizeCause (s.call p) e := by rw [own]; rfl
  have line : (x.seizeEnded p e).le = s.le := by
    by_cases hst : (x.call p).state = .seizing
    · rw [seizeEnded_bad (.inl hst) he, seizeRefused_seizing hst, (only_updCall x p _).le (by decide)]
      rfl
    · by_cases hst' : (x.call p).state = .clearing
      · rw [seizeEnded_bad (.inr hst') he, seizeRefused_clearing hst', only_releaseDone.le (by decide),
          (only_updCall x p _).le (by decide)]
        rfl
      · have stays : x.seizeEnded p e = x := if_neg (by simp [hst, hst'])
        rw [stays]
        rfl
  refine ⟨u, hu, ?_⟩
  rw [call, call, tone, only.le (by decide), line]
  refine ⟨rfl, fun hst => ?_, fun hst hh => ?_, fun hst hh hf => ?_⟩
  · have hx : (x.call p).state = .seizing := by rw [own]; exact hst
    rw [seizeEnded_bad (.inl hx) he, seizeRefused_seizing hx, cause, call_updCall, call_updCall_other,
      updCall_tone x p _ (by rw [hx]; simp), own, other]
    exact ⟨rfl, rfl, rfl⟩
  all_goals
    have hx : (x.call p).state = .clearing := by rw [own]; exact hst
    rw [seizeEnded_bad (.inr hx) he, seizeRefused_clearing hx, cause]
    have kept : (x.updCall p fun r => { r with cause := seizeCause (s.call p) e }).port p = s.port p :=
      updCall_hook _ rfl
    have ends := releaseDone_ends (x.updCall p fun r => { r with cause := seizeCause (s.call p) e }) p
    rw [call_updCall, call_updCall_other, kept, own, other] at ends
  · exact ends.1 hh
  · subst hf
    exact ends.2.2.2 hh hst (by simp [seizeCause]) (by simp [seizeCause])

end

/-! ## The calls' own ACKs -/

section
variable {s : State} {n : Nat} {t : Tx} {p : Port} (hp : t.req.port = some p) (hs : t.req.tag = (s.call p).serial)
include hp hs

theorem digit_acked (hk : t.req.kind = .digit) (hst : (s.call p).state = .dialling ∨ (s.call p).state = .connected)
    (f : AckFields) : ∃ u : State, (s.acked n).txEnded t.req n (.ack f) = u
      ∧ u.call p = { s.call p with txs := { (s.call p).txs with digit := false } }
      ∧ u.call p.other = s.call p.other
      ∧ u.port p = { s.port p with digits := (s.port p).digits.zipIdx.map fun x =>
          if x.2 < (s.call p).digitsUpTo ∧ x.1.mark = .pending then { x.1 with mark := .forwarded } else x.1 }
      ∧ u.port p.other = s.port p.other ∧ u.le = s.le ∧ u.ss = (s.acked n).ss := by
  let x := (s.acked n).unmarked p .digit
  have own : x.call p = { s.call p with txs := (s.call p).txs.without .digit } := call_unmarked _
  have told : (s.acked n).txEnded t.req n (.ack f) =
      x.markDigits p (fun i => decide (i < (s.call p).digitsUpTo)) .forwarded := by
    rw [(txEnded_own (x := s.acked n) hp hs).2.2.2.1 hk]
    have acked := digitEnded_acked (s := x) (p := p) (by rw [own]; exact hst) f
    rwa [own] at acked
  have only : Only [.ports, .plk] x (x.markDigits p (fun i => decide (i < (s.call p).digitsUpTo)) .forwarded) :=
    only_markDigits x p _ _
  refine ⟨_, told, ?_⟩
  rw [only.call p, only.call p.other, own, markDigits_port, markDigits_port_other, only.le (by decide),
    only.ss (by decide)]
  refine ⟨rfl, call_unmarked_other _, ?_, rfl, rfl, rfl⟩
  simp only [decide_eq_true_eq]
  rfl

theorem answer_acked (hk : t.req.kind = .answer) (f : AckFields) :
    ∃ u : State, (s.acked n).txEnded t.req n (.ack f) = u
      ∧ u.call p = { s.call p with txs := { (s.call p).txs with answer := false } }
      ∧ u.call p.other = s.call p.other ∧ u.ports = s.ports ∧ u.le = s.le ∧ u.ss = (s.acked n).ss :=
  ⟨_, (txEnded_own (x := s.acked n) hp hs).2.2.1 hk, call_unmarked _, call_unmarked_other _, rfl, rfl, rfl⟩

theorem coding_acked (hk : t.req.kind = .coding) (hc : (s.call p).carries = true) (hd : (s.call p).downgrade ≠ none)
    {e : Sf} (he : ahead e s.le.sf = true) :
    ∃ u : State, (s.acked n).txEnded t.req n (.ack (.seff e)) = u
      ∧ u.call p = { s.call p with downgrade := some ⟨some e⟩, txs := { (s.call p).txs with coding := false } }
      ∧ u.call p.other = s.call p.other ∧ u.ports = s.ports ∧ u.le = s.le ∧ u.ss = (s.acked n).ss := by
  let x := (s.acked n).unmarked p .coding
  have own : x.call p = { s.call p with txs := (s.call p).txs.without .coding } := call_unmarked _
  have told : (s.acked n).txEnded t.req n (.ack (.seff e)) = x.updCall p fun r => { r with downgrade := some ⟨some e⟩ } := by
    rw [(txEnded_own (x := s.acked n) hp hs).2.2.2.2 hk]
    rw [codingEnded_acked (by rw [own]; exact hc) (by rw [own]; exact hd)]
    exact if_pos he
  have only : Only [.cc, .plk, .ports] x (x.updCall p fun r => { r with downgrade := some ⟨some e⟩ }) :=
    only_updCall x p _
  refine ⟨_, told, ?_⟩
  rw [call_updCall, call_updCall_other, updCall_ports x p _ rfl, only.le (by decide), only.ss (by decide), own]
  exact ⟨rfl, call_unmarked_other _, rfl, rfl, rfl⟩

end

/-! ## The statement -/

section
variable {s : State} {n : Byte} {t : Tx} (awake : s.dormant = false) (hin : s.le.link = .inService)
  (ht : (s.ss.txs.find? fun x => x.number == n.toNat) = some t)

/-- The commands that fail a transaction: its third timeout, and an ACK with result fields of another layout. -/
def Tx.FailsBy (t : Tx) (n : Byte) (c : Instr) : Prop :=
  (c = .transactionTimeout n.toNat ∧ t.timeLeft ≠ none ∧ 3 ≤ t.sends)
  ∨ ∃ l body, c = .ack n l body ∧ body.length = l.toNat ∧ l.toNat ≤ 117 ∧ otherLayout t.req.kind body

include awake hin ht

theorem failsBy_failedWith {c : Instr} (h : t.FailsBy n c) : ∃ k : SsCounts, k.failed = inc32 s.ss.counts.failed
    ∧ exec c s = .next (s.failedWith t k).settle := by
  rcases h with ⟨rfl, hleft, hsends⟩ | ⟨l, body, rfl, hb, hl, seize, seff, empty⟩
  · exact timeout_failedWith awake hin ht hleft hsends
  · exact ack_failedWith awake hin ht hb hl (ackFields_none seize seff empty)

theorem endedBy_failed (hw : s.ss.waiting = []) {c : Instr} (h : t.FailsBy n c) :
    s.EndedBy t n.toNat c .failed := by
  obtain ⟨k, -, run⟩ := failsBy_failedWith awake hin ht h
  exact endedBy_failedWith ht hw run

end

/-- Settles O46, by what each kind's owner does: a failure keeps what `Steady` names, and with no other request waiting
the owner is told with the entry freed and nothing else changed. -/
theorem transactionsEnd : Obligations.TransactionsEnd := by
  intro n t s w v refused failed awake hin ht hwx hvx hrefused hfailed
  have fails (c) (h : failed c) : t.FailsBy n c := by
    rcases (hfailed c).mp h with h | ⟨l, body, hc, hb, hl, hk⟩
    · exact .inl h
    · refine .inr ⟨l, body, hc, hb, hl, ?_⟩
      unfold otherLayout
      cases kind : t.req.kind <;> simp_all
  refine ⟨fun c h => ?_, fun hw => ?_⟩
  · obtain ⟨k, hk, run⟩ := failsBy_failedWith awake hin ht (fails c h)
    exact ⟨_, run, failedWith_counts hin hk⟩
  have acked : v = s.acked n.toNat := by
    subst hvx hwx
    rfl
  have txs : w.ss.txs = s.ss.txs.filter fun x => x.number != n.toNat := by rw [hwx]
  clear hwx hvx
  have ended (c) (h : failed c) : s.EndedBy t n.toNat c .failed := endedBy_failed awake hin ht hw (fails c h)
  have denied (c) (h : refused c) : s.EndedBy t n.toNat c .nak := by
    obtain ⟨cause, rfl⟩ := (hrefused c).mp h
    exact endedBy_nak awake hin ht hw cause
  have bad (c) (h : refused c ∨ failed c) : ∃ e : TxEnd, e.bad ∧ s.EndedBy t n.toNat c e := by
    rcases h with h | h
    · exact ⟨_, .inl rfl, denied c h⟩
    · exact ⟨_, .inr rfl, ended c h⟩
  have gives (c x) (h : (refused c ∧ x = ChangeResult.refused) ∨ (failed c ∧ x = ChangeResult.failed)) :
      ∃ e : TxEnd, e.gives x ∧ s.EndedBy t n.toNat c e := by
    rcases h with ⟨h, rfl⟩ | ⟨h, rfl⟩
    · exact ⟨_, .inl ⟨rfl, rfl⟩, denied c h⟩
    · exact ⟨_, .inr ⟨rfl, rfl⟩, ended c h⟩
  have seff := ack_seff awake hin ht hw
  have empty := ack_empty awake hin ht hw
  have emptyBy (hf : ackFields t.req.kind [] = some .empty) : s.EndedBy t n.toNat (.ack n 0 []) (.ack .empty) :=
    endedBy_of_exec (empty hf)
  subst acked
  rw [txs]
  refine ⟨fun d r hk hf hwr => ?_, fun m hk hf hwr => ?_, fun hk htag => ?_, fun hk htag => ?_, fun g hk hg => ?_,
    fun e hk hg => ?_, fun i hk hi hr c x h => ?_, fun p hp hs hk c h => ?_, fun p hp hs => ⟨fun hk hst => ?_, fun hk => ?_,
      fun hk hst c h => ?_, fun hk hc hd => ?_, fun hk c h => ?_⟩⟩
  · refine ⟨fun e he => ?_, fun e he => ?_, fun c x h => ?_⟩
    · rw [seff (by simp [hk]), (txEnded_line _ _).1 hk, swapEnded_acked (s := s.acked n.toNat) hf]
      exact congrArg (fun x => Host.Outcome.next (State.settle x)) (if_pos he)
    · exact (endedBy_of_exec (seff (by simp [hk]) e)).swapLost hin hk hf rfl he
    · obtain ⟨e, he, told⟩ := gives c x h
      exact told.swapOver hk hf hwr he
  · refine ⟨fun e he => ?_, fun e he => ?_, fun c x h => ?_⟩
    · rw [seff (by simp [hk]), (txEnded_line _ _).2.1 hk, rateEnded_acked (s := s.acked n.toNat) hf]
      exact congrArg (fun x => Host.Outcome.next (State.settle x)) (if_pos he)
    · exact (endedBy_of_exec (seff (by simp [hk]) e)).rateLost hin hk hf rfl he
    · obtain ⟨e, he, told⟩ := gives c x h
      exact told.rateOver hk hf hwr he
  · refine ⟨?_, fun c h => ?_⟩
    · rw [empty (by rw [hk]; rfl), (txEnded_line _ _).2.2.1 hk,
        (profileEnded_change _ htag).1]
      rfl
    · obtain ⟨e, he, told⟩ := bad c h
      exact told.changeLost hin hk htag he
  · refine ⟨?_, fun c h => ?_⟩
    · rw [empty (by rw [hk]; rfl), (txEnded_line _ _).2.2.1 hk,
        profileEnded_need _ htag]
      rfl
    · obtain ⟨e, -, told⟩ := bad c h
      exact told.needOver hk htag
  · have line (e : TxEnd) : (s.acked n.toNat).txEnded t.req n.toNat e = (s.acked n.toNat).gateSetEnded e :=
      (txEnded_line _ _).2.2.2.1 hk
    have cases := gateSetEnded_cases (s := s.acked n.toNat) hg
    refine ⟨fun ha => ?_, fun c h => ?_, fun c h => ?_⟩
    · have agreed := (cases.1 .empty).trans (if_pos ha)
      have only := only_ftUpd ((s.acked n.toNat).modFt fun x => { x with request := .none }) fun x => x.agree g
      have run := empty (by rw [hk]; rfl)
      rw [line, agreed] at run
      refine ⟨_, run, ?_⟩
      rw [ftUpd_ft, only.le (by decide), only.tt (by decide), only.ss (by decide)]
      exact ⟨rfl, rfl, rfl, rfl⟩
    · obtain ⟨cause, rfl⟩ := (hrefused c).mp h
      rw [nak_acked awake hin ht hw cause, line, cases.2.1]
      rfl
    · rcases h with ⟨rfl, late⟩ | h
      · exact (emptyBy (by rw [hk]; rfl)).gateSetLost hin hk hg
          (.inl ⟨⟨_, rfl⟩, late⟩)
      · exact (ended c h).gateSetLost hin hk hg (.inr rfl)
  · refine ⟨fun ha => ?_, fun c h => ?_⟩
    · rw [empty (by rw [hk]; rfl), (txEnded_line _ _).2.2.2.2.1 hk,
        (gateClearEnded_cases (s := s.acked n.toNat) hg).1]
      exact congrArg (fun x => Host.Outcome.next (State.settle x)) (if_pos ha)
    · rcases h with ⟨rfl, late⟩ | h
      · exact (emptyBy (by rw [hk]; rfl)).gateClearLost hin hk hg
          (.inl ⟨⟨_, rfl⟩, late⟩)
      · obtain ⟨e, he, told⟩ := bad c h
        exact told.gateClearLost hin hk hg (.inr he)
  · rcases h with ⟨rfl, rfl⟩ | ⟨h, rfl⟩
    · exact (emptyBy (by rw [hk]; rfl)).reported hk hi hr
        (.inl ⟨⟨_, rfl⟩, rfl⟩)
    · obtain ⟨e, he, told⟩ := bad c h
      exact told.reported hk hi hr (.inr ⟨he, rfl⟩)
  · have ends : ∃ e, s.EndedBy t n.toNat c e := by
      rcases h with h | h | ⟨rfl, hz, hc⟩
      · exact ⟨_, denied c h⟩
      · exact ⟨_, ended c h⟩
      · exact ⟨_, emptyBy (ackFields_empty hz hc (by rcases hk with h | h | h | h | h <;> simp [h])
          (by rcases hk with h | h | h | h | h <;> simp [h]))⟩
    obtain ⟨e, told⟩ := ends
    exact told.stranger hp hs hk
  · refine ⟨?_, fun c h => ?_⟩
    · obtain ⟨u, hu, rest⟩ := digit_acked (s := s) (n := n.toNat) hp hs hk hst .empty
      exact ⟨u, hu ▸ empty (by rw [hk]; rfl), rest⟩
    · obtain ⟨e, he, told⟩ := bad c h
      exact told.digitLost hp hs hk hst he
  · refine ⟨?_, fun hst c h => ?_⟩
    · obtain ⟨u, hu, rest⟩ := answer_acked (s := s) (n := n.toNat) hp hs hk .empty
      exact ⟨u, hu ▸ empty (by rw [hk]; rfl), rest⟩
    · obtain ⟨e, he, told⟩ := bad c h
      exact told.answerLost hp hs hk hst he
  · have ends : ∃ e, s.EndedBy t n.toNat c e := by
      rcases h with rfl | h | h
      · exact ⟨_, emptyBy (by rw [hk]; rfl)⟩
      · exact ⟨_, denied c h⟩
      · exact ⟨_, ended c h⟩
    obtain ⟨e, told⟩ := ends
    exact told.releaseOver hp hs hk hst
  · refine ⟨fun e he => ?_, fun e he => ?_, fun c h => ?_⟩
    · obtain ⟨u, hu, rest⟩ := coding_acked (s := s) (n := n.toNat) hp hs hk hc hd he
      exact ⟨u, hu ▸ seff (.inl hk) e, rest⟩
    · exact (endedBy_of_exec (seff (.inl hk) e)).codingLate hp hs hin hk hc hd rfl he
    · obtain ⟨e, he, told⟩ := bad c h
      exact told.codingRefused hp hs hk hc hd he
  · have cases : ∃ e : TxEnd, e.bad ∧ s.EndedBy t n.toNat c e ∧ (refused c → e = .nak) ∧ (failed c → e = .failed) := by
      have apart (hr : refused c) (hf : failed c) : False := by
        obtain ⟨cause, rfl⟩ := (hrefused c).mp hr
        rcases fails _ hf with ⟨hc, -⟩ | ⟨l, body, hc, -⟩ <;> cases hc
      rcases h with h | h
      · exact ⟨_, .inl rfl, denied c h, fun _ => rfl, fun hf => (apart h hf).elim⟩
      · exact ⟨_, .inr rfl, ended c h, fun hr => (apart hr h).elim, fun _ => rfl⟩
    obtain ⟨e, he, told, nak, fail⟩ := cases
    obtain ⟨u, hu, hle, seizing, clearing, stays⟩ := told.seizeOver hp hs hk he
    refine ⟨u, hu, hle, fun hst => ?_, fun hst hh => ?_, fun hst hh hf => stays hst hh (fail hf)⟩
    · obtain ⟨own, other, tone⟩ := seizing hst
      have cause : (u.call p).cause = seizeCause (s.call p) e := by rw [own]
      refine ⟨by rw [cause]; exact own, fun hr => ?_, fun hf => ?_, other, tone⟩
      · rw [cause, nak hr]
        simp [seizeCause, hst]
      · rw [cause, fail hf]
        simp [seizeCause]
    · obtain ⟨own, other⟩ := clearing hst hh
      refine ⟨fun hr => ?_, fun hf => ?_, other⟩
      · rw [own, nak hr]
        simp [seizeCause, hst]
      · rw [own, fail hf]
        simp [seizeCause]

end Sys2Proof.Machine
end

section
/-!
PROOFS. The capacity evaluation (R100 to R102): the vocabulary of the statements read as the model's, and what each of
its three moves, a downgrade, a release and an admission, does to the calls.
-/

namespace Sys2Proof.Machine

-- One proof at a time: the text is compiled as one, and each proof that waits for the others holds a thread.
set_option Elab.async false

/-! ## Ports -/

theorem port_eq_or_other (p q : Port) : q = p ∨ q = p.other := by
  cases p <;> cases q <;> simp [Port.other]

@[simp] theorem port_other_other (p : Port) : p.other.other = p := by cases p <;> rfl

@[simp] theorem port_other_ne (p : Port) : p.other ≠ p := by cases p <;> decide

/-! ## The statements' words and the model's (R99, R100, R102) -/

section
variable (r : CallRec) (s : State) (p : Port)

theorem carries_eq_slot : r.carries = r.slot := by
  unfold CallRec.carries CallRec.slot
  cases r.state <;> simp

theorem voiceBytes_eq : r.voiceBytes = r.ownBytes := by
  unfold CallRec.voiceBytes CallRec.ownBytes
  cases r.downgrade <;> simp

theorem downgradable_eq : r.downgradable = (r.slot && r.ownBytes == 80) := by
  have own : (r.coding == some .full && r.downgrade.isNone) = (r.ownBytes == 80) := by
    unfold CallRec.ownBytes
    by_cases hc : r.coding = some .full <;> cases r.downgrade <;> simp [hc]
  rw [CallRec.downgradable, Bool.and_assoc, own, carries_eq_slot]

theorem counted_eq : r.counted = r.bytesInR := by
  unfold CallRec.counted CallRec.admitted CallRec.bytesInR
  cases r.state <;> simp [voiceBytes_eq]

theorem passes_eq (n : Nat) : s.passes n = s.fits n := by simp [State.passes, State.fits]

theorem voiceRequirement_eq : s.voiceRequirement = 64 + (s.call p).bytesInR + (s.call p.other).bytesInR := by
  rw [State.voiceRequirement, counted_eq, counted_eq]
  cases p <;> simp only [Port.other] <;> omega

theorem newerCall_b : s.newerCall .b = newer (s.call .b) (s.call .a) := by
  unfold State.newerCall newer
  rw [show Port.b.other = .a from rfl]
  cases (s.call .a).connect <;> cases (s.call .b).connect <;> simp

theorem newerCall_a : s.newerCall .a = !newer (s.call .b) (s.call .a) := by
  unfold State.newerCall newer
  rw [show Port.a.other = .b from rfl]
  cases (s.call .a).connect <;> cases (s.call .b).connect <;> simp
  rw [Bool.eq_iff_iff]
  simp only [Bool.or_eq_true, decide_eq_true_eq, beq_iff_eq, Bool.not_eq_true', decide_eq_false_iff_not, not_lt]
  omega

theorem newerCall_other : s.newerCall p.other = !s.newerCall p := by
  cases p <;> simp [Port.other, newerCall_a, newerCall_b]

variable {p}

/-- The newest call that meets a condition is the one that is newer where both do. -/
theorem newest_wins {f : CallRec → Bool} (h : f (s.call p) = true) (hn : f (s.call p.other) = true → s.newerCall p = true) :
    s.newest f = some p := by
  unfold State.newest
  cases p
  case a =>
    cases hb : f (s.call .b)
    · simp [h, hb]
    · have newer := hn hb
      simp_all [newerCall_a]
  case b =>
    cases ha : f (s.call .a)
    · simp [h, ha]
    · have newer := hn ha
      simp_all [newerCall_b]

/-- Either no call meets a condition, or the newest that does is of one port. -/
theorem newest_cases (f : CallRec → Bool) : (∀ p, f (s.call p) = false)
    ∨ ∃ p, f (s.call p) = true ∧ (f (s.call p.other) = true → s.newerCall p = true) := by
  by_cases ha : f (s.call .a) = true
  · by_cases hb : f (s.call .b) = true ∧ s.newerCall .a = false
    · refine .inr ⟨.b, hb.1, fun _ => ?_⟩
      rw [show Port.b = Port.a.other from rfl, newerCall_other, hb.2]
      rfl
    · exact .inr ⟨.a, ha, fun h => by simpa [Port.other] using fun hn => hb ⟨h, hn⟩⟩
  · by_cases hb : f (s.call .b) = true
    · exact .inr ⟨.b, hb, fun h => absurd h ha⟩
    · refine .inl fun p => ?_
      cases p
      · simpa using ha
      · simpa using hb

end

/-! ## What the call controller keeps -/

/-- P_min, custody and the R last taken stay. -/
structure CcKept (s t : State) : Prop where
  pDown : t.cc.pDown = s.cc.pDown
  pUp : t.cc.pUp = s.cc.pUp
  custody : t.cc.custody = s.cc.custody
  lastR : t.cc.lastR = s.cc.lastR

section
variable {s t u : State} {p : Port}

theorem CcKept.refl (s : State) : CcKept s s := ⟨rfl, rfl, rfl, rfl⟩

theorem CcKept.trans (h : CcKept s t) (k : CcKept t u) : CcKept s u :=
  ⟨k.pDown.trans h.pDown, k.pUp.trans h.pUp, k.custody.trans h.custody, k.lastR.trans h.lastR⟩

theorem CcKept.of_cc (h : t.cc = s.cc) : CcKept s t := by
  constructor <;> rw [h]

theorem CcKept.of_only {l : List Block} (h : Only l s t) (hl : Block.cc ∉ l := by decide) : CcKept s t := .of_cc (h.cc hl)

theorem CcKept.fits (h : CcKept s t) (n : Nat) : t.fits n = s.fits n := by
  unfold State.fits
  rw [h.pDown, h.pUp]

theorem ccKept_updCall (s : State) (p : Port) (f : CallRec → CallRec) : CcKept s (s.updCall p f) := by
  have cc := updCall_cc (s := s) p f
  constructor <;> rw [cc] <;> rfl

theorem ccKept_takeSerial (s : State) : CcKept s s.takeSerial.1 := ⟨rfl, rfl, rfl, rfl⟩

theorem ccKept_callTx (s : State) (p : Port) (k : TxKind) (body : List Byte) (mark : CallTxs → CallTxs)
    (hk : k.quiet = true) : CcKept s (s.callTx p k body mark) :=
  .trans (t := s.modCallRaw p fun r => { r with txs := mark r.txs }) ⟨rfl, rfl, rfl, rfl⟩
    (.of_only (only_requestTx_quiet _ k _ _ _ hk))

/-! ## Requests -/

theorem requested_of_ss (h : t.ss = s.ss) : t.requested = s.requested := by
  rw [State.requested, h]
  rfl

theorem requested_requestTx (s : State) (k : TxKind) (q : Option Port) (body : List Byte) (tag : Nat)
    (hk : k.quiet = true) :
    (s.requestTx k q body tag).requested = s.requested ++ [{ kind := k, port := q, body := body, tag := tag }] := by
  unfold State.requestTx
  dsimp only
  split
  · rename_i room
    have idle : s.ss.waiting = [] := by
      simp only [Bool.and_eq_true, List.isEmpty_iff] at room
      exact room.2
    have told := granted_quiet (s.modSs fun x => SS.enqueue
      { x with txs := x.txs ++ [{ req := { kind := k, port := q, body := body, tag := tag }, number := s.ss.freeNumber, sends := 1, timeLeft := none }]
               nextNumber := (s.ss.freeNumber + 1) % 16 }
      (.send s.ss.freeNumber) (message k.code s.ss.freeNumber body)) { kind := k, port := q, body := body, tag := tag } s.ss.freeNumber hk
    unfold State.grant
    dsimp only
    rw [told]
    simp [State.requested, State.modSs, SS.enqueue, idle]
  · simp [State.requested, State.modSs]

theorem requested_callTx (s : State) (p : Port) (k : TxKind) (body : List Byte) (mark : CallTxs → CallTxs)
    (hk : k.quiet = true) : (s.callTx p k body mark).requested =
      s.requested ++ [{ kind := k, port := some p, body := wPort p ++ body, tag := (s.call p).serial }] := by
  unfold State.callTx
  dsimp only
  rw [requested_requestTx _ _ _ _ _ hk]
  rw [call_modCallRaw]
  rfl

theorem requested_updCall (s : State) (p : Port) (f : CallRec → CallRec) : (s.updCall p f).requested = s.requested :=
  requested_of_ss ((only_updCall s p f).ss (by decide))

theorem requested_placeAnswer (s : State) (ty : Option FarType) (n : Byte) (b : Bool) (msg : List Byte) :
    (s.placeAnswer ty n b msg).requested = s.requested := by
  unfold State.placeAnswer
  split
  · rfl
  · split <;> rfl

theorem requested_answer (s : State) (ty : FarType) (n : Byte) (b : Bool) (body : List Byte) :
    (s.answer ty n b body).requested = s.requested := by
  unfold State.answer
  dsimp only
  split
  · rfl
  · rw [requested_placeAnswer]
    split <;> rfl

/-! ## Bells -/

theorem ringRequest_modPort (s : State) (q : Port) {f : PP → PP} (h : (f (s.port q)).ringRequest = (s.port q).ringRequest)
    (p : Port) : ((s.modPort q f).port p).ringRequest = (s.port p).ringRequest := by
  cases p <;> cases q
  · exact h
  · rfl
  · rfl
  · exact h

theorem ringRequest_updCall (s : State) (q : Port) (f : CallRec → CallRec) (p : Port) :
    ((s.updCall q f).port p).ringRequest = (s.port p).ringRequest := by
  have raised : ((s.modCallRaw q f).raiseIf (decide ((s.call q).shown ≠ (f (s.call q)).shown)) (.call q)).ports = s.ports := by
    rw [(only_raiseIf _ _ _).ports (by decide)]
    rfl
  unfold State.updCall
  dsimp only
  split
  · rw [State.port, raised]
    rfl
  · unfold State.nameAudio State.setAudio
    dsimp only
    rw [ringRequest_modPort _ _ rfl, State.port, raised]
    rfl

theorem ringOff_ringRequest (s : State) (p : Port) : ((s.ringOff p).port p).ringRequest = none := by
  have own : (s.ringOff p).port p = (if (s.port p).feed.isRinging then
      { s.port p with ringRequest := none, cadence := none }.enter .standby
      else { s.port p with ringRequest := none, cadence := none }) := by
    cases p <;> rfl
  rw [own]
  split <;> rfl

theorem releaseCall_bells (s : State) (p : Port) (c : RelCause) : ((s.releaseCall p c).port p).ringRequest = none
    ∧ ((s.releaseCall p c).port p.other).ringRequest = (s.port p.other).ringRequest := by
  have bell (q : Port) : ((s.releaseCall p c).port q).ringRequest = ((s.ringOff p).port q).ringRequest := by
    unfold State.releaseCall
    dsimp only
    rw [State.port, (only_callTx _ p .release _ _ rfl).ports (by decide), ← State.port, ringRequest_updCall]
  rw [bell, bell, ringOff_ringRequest]
  exact ⟨rfl, by rw [State.ringOff, port_modPort_ne _ _ (Ne.symm (port_other_ne p))]⟩

theorem ringPort_other (s : State) (p : Port) (c : Nat) : (s.ringPort p c).port p.other = s.port p.other := by
  have off (x : State) (f : PP → PP) : (x.modPort p f).port p.other = x.port p.other :=
    port_modPort_ne _ _ (Ne.symm (port_other_ne p))
  unfold State.ringPort
  dsimp only
  split
  · unfold State.ringIfDue
    dsimp only
    split
    · split
      · rw [State.burstStart, off, off]
      · exact off _ _
    · exact off _ _
  · split
    · exact off _ _
    · rfl

end

end Sys2Proof.Machine
end

section
/-!
PROOFS. The capacity evaluation (R100 to R102): how far an evaluation has come, told by the calls asked down, released
and admitted so far, and what each of its moves adds.
-/

namespace Sys2Proof.Machine

-- One proof at a time: the text is compiled as one, and each proof that waits for the others holds a thread.
set_option Elab.async false

/-! ## The requests made -/

/-- The requests of the evaluation of `s` made by `t`, by kind and port. -/
def State.Asks (s t : State) (w : TxKind → Port → Bool) : Prop :=
  ∃ new, t.requested = s.requested ++ new ∧ new.Nodup ∧ ∀ q, q ∈ new ↔ ∃ k p, w k p = true ∧ q = s.capacityRequest k p

section
variable {s t u : State} {w v : TxKind → Port → Bool}

theorem capacityRequest_inj {k k' : TxKind} {p p' : Port} (h : s.capacityRequest k p = s.capacityRequest k' p') :
    k = k' ∧ p = p' := by
  have kind := congrArg TxReq.kind h
  have port := congrArg TxReq.port h
  simp only [State.capacityRequest, Option.some.injEq] at kind port
  exact ⟨kind, port⟩

theorem State.Asks.start (hw : ∀ k p, w k p = false) : s.Asks s w :=
  ⟨[], by simp, List.nodup_nil, fun q => by simp [hw]⟩

theorem State.Asks.still (h : s.Asks t w) (hu : u.requested = t.requested) : s.Asks u w := by
  obtain ⟨new, hn, rest⟩ := h
  exact ⟨new, hu.trans hn, rest⟩

theorem State.Asks.append (h : s.Asks t w) {k : TxKind} {p : Port} (hu : u.requested = t.requested ++ [s.capacityRequest k p])
    (hk : w k p = false) (hv : ∀ k' p', v k' p' = true ↔ w k' p' = true ∨ (k' = k ∧ p' = p)) : s.Asks u v := by
  obtain ⟨new, hn, nodup, mem⟩ := h
  refine ⟨new ++ [s.capacityRequest k p], by rw [hu, hn, List.append_assoc], ?_, fun q => ?_⟩
  · refine List.nodup_append.mpr ⟨nodup, List.nodup_singleton _, fun x hx y hy => ?_⟩
    rw [List.mem_singleton] at hy
    rintro rfl
    obtain ⟨k', p', hw, hq⟩ := (mem x).mp hx
    obtain ⟨rfl, rfl⟩ := capacityRequest_inj (hy.symm.trans hq)
    rw [hk] at hw
    exact Bool.false_ne_true hw
  · rw [List.mem_append, mem, List.mem_singleton]
    constructor
    · rintro (⟨k', p', hw, rfl⟩ | rfl)
      · exact ⟨k', p', (hv k' p').mpr (.inl hw), rfl⟩
      · exact ⟨k, p, (hv k p).mpr (.inr ⟨rfl, rfl⟩), rfl⟩
    · rintro ⟨k', p', hw, rfl⟩
      rcases (hv k' p').mp hw with hw | ⟨rfl, rfl⟩
      · exact .inl ⟨k', p', hw, rfl⟩
      · exact .inr rfl

end

/-! ## How far an evaluation has come -/

/-- A call's record once it is asked down (`d`) and released (`e`) (R102). -/
def CallRec.evaluated (r : CallRec) (d e : Bool) : CallRec :=
  if e then { r with
    state := .clearing, cause := .capacity, sub := none, admission := none, decision := none, alert := none
    downgrade := none, txs := { r.txs with release := true, coding := r.txs.coding || d } }
  else if d then { r with downgrade := some { seff := none }, txs := { r.txs with coding := true } }
  else r

/-- A waiting call's record once it is admitted at REDUCED (R101, R103, R108). -/
def CallRec.roomed (r : CallRec) (k : Nat) (custody : Custody) (mode : SupplyMode) : CallRec :=
  { r with
    admission := none, order := k, coding := some .reduced
    txs := if r.state = .seizing then { r.txs with seize := true } else r.txs
    channel := if r.state = .seizing then r.channel else r.alertChannel
    alertNumber := if r.state = .seizing then r.alertNumber else none
    alertChannel := if r.state = .seizing then r.alertChannel else none
    alert := if r.state = .seizing then r.alert else some 120000
    sub := if r.state = .seizing then r.sub
      else if custody = .part then some .ringingPlan else some .decisionWanted
    plan := if r.state = .alertingIn ∧ custody = .part then some (.ring (if mode = .reserve then 2 else 0)) else r.plan
    decision := if r.state = .seizing then r.decision else if custody = .part then none else some 2000 }

/-- The record of a released call's VOICE_CAPACITY, its entry among the newest `k` (R102, R156). -/
structure VoiceTold (s t : State) (i : FaultId) (k : Nat) : Prop where
  silent : (s.faultSetting i).policy = .silent → (s.faultRec i).state = .clear ∨ (s.faultRec i).state = .recovered →
    t.faultRec i = s.faultRec i
  raised : (s.faultSetting i).policy = .report → (s.faultRec i).state = .clear ∨ (s.faultRec i).state = .recovered →
    t.faultRec i = { s.faultRec i with
      state := .recovered, run := none, retry := none, count := min 255 ((s.faultRec i).count + 1)
      firstSeen := (s.faultRec i).firstSeen <|> some s.uptime, lastSeen := some s.uptime }
    ∧ ∃ e ∈ newestEntries k t.fs.history, e.record = i ∧ e.uptime = s.uptime ∧ e.transition = .raised

/-- The transactions wanted of the calls asked down (`D`), released (`E`) and admitted (`A`). -/
def State.capacityWants (s : State) (D E A : Port → Bool) (k : TxKind) (p : Port) : Bool :=
  match k with
  | .coding => D p
  | .release => E p
  | .seize => A p && (s.call p).state == .seizing
  | _ => false

/-- The calls released. -/
def released (E : Port → Bool) : Nat := (E .a).toNat + (E .b).toNat

/-- An evaluation of `s` has come to `t`: the calls of `D` are asked down, those of `E` released, those of `A`
admitted, and nothing else of the calls has changed. -/
structure Evaluated (s t : State) (D E A : Port → Bool) : Prop where
  sup : t.sup = s.sup
  settings : t.settings = s.settings
  uptime : t.uptime = s.uptime
  pDown : t.cc.pDown = s.cc.pDown
  pUp : t.cc.pUp = s.cc.pUp
  custody : t.cc.custody = s.cc.custody
  call : ∀ p, A p = false → t.call p = (s.call p).evaluated (D p) (E p)
  roomed : ∀ p, A p = true → ∃ k, t.call p = (s.call p).roomed k s.cc.custody s.sup.mode
  bell : ∀ p, E p = true → (t.port p).ringRequest = none
  kept : ∀ p, E p = false → t.faultRec (FaultId.voiceCapacity p) = s.faultRec (FaultId.voiceCapacity p)
  told : ∀ p, E p = true → VoiceTold s t (FaultId.voiceCapacity p) (released E)
  asks : s.Asks t (s.capacityWants D E A)

section
variable {s t u : State} {D E A F : Port → Bool} {p : Port}

theorem VoiceTold.of_fs {i : FaultId} {k : Nat} (h : VoiceTold s t i k) (hu : u.fs = t.fs) : VoiceTold s u i k := by
  have same : u.faultRec i = t.faultRec i := by
    rw [State.faultRec, hu]
    rfl
  exact ⟨by rw [same]; exact h.silent, by rw [same, hu]; exact h.raised⟩

theorem Evaluated.start (s : State) : Evaluated s s (fun _ => false) (fun _ => false) (fun _ => false) where
  sup := rfl
  settings := rfl
  uptime := rfl
  pDown := rfl
  pUp := rfl
  custody := rfl
  call _ _ := rfl
  roomed _ h := absurd h (by simp)
  bell _ h := absurd h (by simp)
  kept _ _ := rfl
  told _ h := absurd h (by simp)
  asks := .start fun k p => by cases k <;> simp [State.capacityWants]

theorem Evaluated.fits (h : Evaluated s t D E A) (n : Nat) : t.fits n = s.fits n := by
  unfold State.fits
  rw [h.pDown, h.pUp]

/-- A step that touches no call, no bell, no VOICE_CAPACITY record and no request. -/
theorem Evaluated.still {l : List Block} (h : Evaluated s t D E A) (only : Only l t u)
    (room : u.cc.pDown = t.cc.pDown ∧ u.cc.pUp = t.cc.pUp ∧ u.cc.custody = t.cc.custody)
    (calls : ∀ p, u.call p = t.call p) (ports : u.ports = t.ports) (fs : u.fs = t.fs) (ss : u.ss = t.ss)
    (hl : Block.sup ∉ l := by decide) :
    Evaluated s u D E A := by
  obtain ⟨pDown, pUp, custody⟩ := room
  have rec' (i : FaultId) : u.faultRec i = t.faultRec i := by
    rw [State.faultRec, fs]
    rfl
  exact {
    sup := (only.sup hl).trans h.sup
    settings := only.settings.trans h.settings
    uptime := only.uptime.trans h.uptime
    pDown := pDown.trans h.pDown
    pUp := pUp.trans h.pUp
    custody := custody.trans h.custody
    call := fun p hp => (calls p).trans (h.call p hp)
    roomed := fun p hp => by rw [calls]; exact h.roomed p hp
    bell := fun p hp => by rw [State.port, ports]; exact h.bell p hp
    kept := fun p hp => (rec' _).trans (h.kept p hp)
    told := fun p hp => (h.told p hp).of_fs fs
    asks := h.asks.still (requested_of_ss ss) }

/-! ## A downgrade (R102) -/

theorem downgradeCall_calls (t : State) (p : Port) :
    (t.downgradeCall p).call p = { t.call p with
      downgrade := some { seff := none }, txs := { (t.call p).txs with coding := true } }
    ∧ (t.downgradeCall p).call p.other = t.call p.other := by
  unfold State.downgradeCall
  dsimp only
  rw [call_callTx _ _ _ _ _ rfl, call_callTx_other _ _ _ _ _ rfl, call_updCall, call_updCall_other]
  exact ⟨rfl, rfl⟩

theorem downgradeCall_ports (t : State) (p : Port) : (t.downgradeCall p).ports = t.ports := by
  unfold State.downgradeCall
  dsimp only
  rw [(only_callTx _ p .coding _ _ rfl).ports (by decide), updCall_ports]
  rfl

theorem downgradeCall_requested (t : State) (p : Port) :
    (t.downgradeCall p).requested = t.requested ++ [t.capacityRequest .coding p] := by
  unfold State.downgradeCall
  dsimp only
  rw [requested_callTx _ _ _ _ _ rfl, requested_updCall, call_updCall, State.capacityRequest, List.append_assoc]
  rfl

theorem ccKept_downgradeCall (t : State) (p : Port) : CcKept t (t.downgradeCall p) := by
  unfold State.downgradeCall
  exact .trans (ccKept_updCall t p _) (ccKept_callTx _ p .coding _ _ rfl)

/-- A request depends on the call's serial and channel alone. -/
theorem capacityRequest_congr {k : TxKind} (serial : (t.call p).serial = (s.call p).serial)
    (channel : (t.call p).channel = (s.call p).channel) : t.capacityRequest k p = s.capacityRequest k p := by
  unfold State.capacityRequest
  rw [serial, channel]

theorem evaluated_marks (r : CallRec) (d e : Bool) : (r.evaluated d e).serial = r.serial
    ∧ (r.evaluated d e).channel = r.channel ∧ (r.evaluated d e).connect = r.connect
    ∧ (r.evaluated d e).order = r.order := by
  unfold CallRec.evaluated
  cases d <;> cases e <;> exact ⟨rfl, rfl, rfl, rfl⟩

theorem Evaluated.downgrade (h : Evaluated s t D E A) (hD : D p = false) (hE : E p = false) (hA : A p = false)
    (own : F p = true) (other : F p.other = D p.other) : Evaluated s (t.downgradeCall p) F E A := by
  have cc := ccKept_downgradeCall t p
  have only := only_downgradeCall t p
  obtain ⟨call, callOther⟩ := downgradeCall_calls t p
  have before : t.call p = s.call p := by rw [h.call p hA, hD, hE]; rfl
  exact {
    sup := (only.sup (by decide)).trans h.sup
    settings := only.settings.trans h.settings
    uptime := only.uptime.trans h.uptime
    pDown := cc.pDown.trans h.pDown
    pUp := cc.pUp.trans h.pUp
    custody := cc.custody.trans h.custody
    call := fun q hq => by
      rcases port_eq_or_other p q with rfl | rfl
      · rw [call, before, own, hE]
        rfl
      · rw [callOther, other]
        exact h.call _ hq
    roomed := fun q hq => by
      rcases port_eq_or_other p q with rfl | rfl
      · rw [hA] at hq
        exact absurd hq (by simp)
      · rw [callOther]
        exact h.roomed _ hq
    bell := fun q hq => by
      rw [State.port, downgradeCall_ports]
      exact h.bell q hq
    kept := fun q hq => by
      rw [State.faultRec, only.fs (by decide)]
      exact h.kept q hq
    told := fun q hq => (h.told q hq).of_fs (only.fs (by decide))
    asks := h.asks.append (k := .coding) (p := p)
      (by rw [downgradeCall_requested, capacityRequest_congr] <;> rw [before]) hD fun k q => by
        cases k <;> rcases port_eq_or_other p q with rfl | rfl <;> simp [State.capacityWants, own, other, port_other_ne] }

/-! ## A release for want of room (R102) -/

/-- A release with its VOICE_CAPACITY event. -/
def State.releaseForRoom (t : State) (p : Port) : State :=
  (t.releaseCall p .capacity).faultEvent (FaultId.voiceCapacity p)

theorem only_releaseForRoom (t : State) (p : Port) : Only [.cc, .plk, .ports, .ss, .fs] t (t.releaseForRoom p) :=
  .seq (only_releaseCall t p _) (only_faultEvent _ _)

theorem releaseForRoom_calls (t : State) (p : Port) :
    (t.releaseForRoom p).call p = { t.call p with
      state := .clearing, cause := .capacity, sub := none, admission := none, decision := none, alert := none
      downgrade := none, txs := { (t.call p).txs with release := true } }
    ∧ (t.releaseForRoom p).call p.other = t.call p.other := by
  have event : Only [.fs, .plk] (t.releaseCall p .capacity) (t.releaseForRoom p) := only_faultEvent _ _
  rw [event.call p, event.call p.other]
  exact releaseCall_call t p .capacity

theorem releaseForRoom_bells (t : State) (p : Port) : ((t.releaseForRoom p).port p).ringRequest = none
    ∧ ((t.releaseForRoom p).port p.other).ringRequest = (t.port p.other).ringRequest := by
  have event : Only [.fs, .plk] (t.releaseCall p .capacity) (t.releaseForRoom p) := only_faultEvent _ _
  rw [State.port, State.port, event.ports (by decide)]
  exact releaseCall_bells t p .capacity

theorem releaseForRoom_requested (t : State) (p : Port) :
    (t.releaseForRoom p).requested = t.requested ++ [t.capacityRequest .release p] := by
  have event : Only [.fs, .plk] (t.releaseCall p .capacity) (t.releaseForRoom p) := only_faultEvent _ _
  rw [requested_of_ss (event.ss (by decide))]
  unfold State.releaseCall
  dsimp only
  rw [requested_callTx _ _ _ _ _ rfl, requested_updCall, call_updCall, State.capacityRequest, List.append_assoc]
  rfl

theorem ccKept_releaseForRoom (t : State) (p : Port) : CcKept t (t.releaseForRoom p) := by
  have event : Only [.fs, .plk] (t.releaseCall p .capacity) (t.releaseForRoom p) := only_faultEvent _ _
  refine .trans ?_ (.of_only event)
  unfold State.releaseCall
  exact .trans (.of_only (only_ringOff t p)) (.trans (ccKept_updCall _ p _) (ccKept_callTx _ p .release _ _ rfl))

theorem newestEntries_succ {k : Nat} {l : List HistEntry} {e : HistEntry} (h : e ∈ newestEntries k l) :
    e ∈ newestEntries (k + 1) l := by
  unfold newestEntries at *
  rw [show l.length - k = (l.length - (k + 1)) + (l.length - k - (l.length - (k + 1))) by omega, ← List.drop_drop] at h
  exact List.mem_of_mem_drop h

theorem releaseForRoom_faults (t : State) (p : Port) :
    VoiceTold t (t.releaseForRoom p) (FaultId.voiceCapacity p) 1
    ∧ (t.releaseForRoom p).faultRec (FaultId.voiceCapacity p.other) = t.faultRec (FaultId.voiceCapacity p.other)
    ∧ ∀ k < 32, ∀ e ∈ newestEntries k t.fs.history, e ∈ newestEntries (k + 1) (t.releaseForRoom p).fs.history := by
  have only := only_releaseCall t p .capacity
  have fs : (t.releaseCall p .capacity).fs = t.fs := only.fs (by decide)
  have record (i : FaultId) : (t.releaseCall p .capacity).faultRec i = t.faultRec i := by
    rw [State.faultRec, fs]
    rfl
  have setting (i : FaultId) : (t.releaseCall p .capacity).faultSetting i = t.faultSetting i := by
    rw [State.faultSetting, only.settings]
    rfl
  have reported := reported_faultEventCore (t.releaseCall p .capacity) (FaultId.voiceCapacity p) none
  have cases := faultEvent_cases (t.releaseCall p .capacity) (FaultId.voiceCapacity p)
  rw [record, setting] at cases
  refine ⟨⟨fun hp hs => (cases hs).2 hp, fun hp hs => ?_⟩, ?_, fun k hk e he => ?_⟩
  · have raised : t.releaseForRoom p = ((t.releaseCall p .capacity).faultOccur (FaultId.voiceCapacity p) none).faultMove
        (FaultId.voiceCapacity p) .recovered none none .raised none := by
      unfold State.releaseForRoom State.faultEvent State.faultEventCore
      dsimp only
      rw [record, setting, hp]
      rcases hs with hs | hs <;> rw [hs]
    rw [raised, faultRec_faultMove, faultRec_faultOccur, record, only.uptime, faultMove_history]
    refine ⟨by simp [FaultRec.occur, satInc], _, newest_historyWith _ _, rfl, ?_, rfl⟩
    exact only.uptime
  · refine (reported.others _ ?_).trans (record _)
    cases p <;> decide
  · have history : (t.releaseForRoom p).fs.history = (t.releaseCall p .capacity).fs.history
        ∨ ∃ x, (t.releaseForRoom p).fs.history = historyWith (t.releaseCall p .capacity).fs.history x := reported.history
    rw [fs] at history
    rcases history with same | ⟨x, joined⟩
    · rw [same]
      exact newestEntries_succ he
    · rw [joined]
      exact newest_historyWith_older x hk he

end

section
variable {s t u : State} {D E A F : Port → Bool} {p : Port}

theorem newestEntries_mono {j k : Nat} (h : j ≤ k) {l : List HistEntry} {e : HistEntry} (he : e ∈ newestEntries j l) :
    e ∈ newestEntries k l := by
  induction h with
  | refl => exact he
  | step _ ih => exact newestEntries_succ ih

theorem released_le (E : Port → Bool) : released E ≤ 2 := by
  unfold released
  cases E .a <;> cases E .b <;> simp

theorem released_succ (hE : E p = false) (own : F p = true) (other : F p.other = E p.other) :
    released F = released E + 1 := by
  unfold released
  cases p
  · rw [own, hE, show F .b = E .b from other]
    simp [Nat.add_comm]
  · rw [own, hE, show F .a = E .a from other]
    simp

/-- What a report says of the record does not depend on what came before it of other records. -/
theorem VoiceTold.after {i : FaultId} {j k : Nat} (h : VoiceTold t u i j) (hjk : j ≤ k)
    (record : t.faultRec i = s.faultRec i) (setting : t.faultSetting i = s.faultSetting i) (now : t.uptime = s.uptime) :
    VoiceTold s u i k := by
  obtain ⟨silent, raised⟩ := h
  rw [record, setting] at silent raised
  rw [now] at raised
  refine ⟨silent, fun hp hs => ?_⟩
  obtain ⟨hrec, e, he, rest⟩ := raised hp hs
  exact ⟨hrec, e, newestEntries_mono hjk he, rest⟩

/-- A record told of keeps what it says while reports of other records follow. -/
theorem VoiceTold.later {i : FaultId} {k : Nat} (h : VoiceTold s t i k) (record : u.faultRec i = t.faultRec i)
    (older : ∀ e ∈ newestEntries k t.fs.history, e ∈ newestEntries (k + 1) u.fs.history) : VoiceTold s u i (k + 1) := by
  refine ⟨fun hp hs => record.trans (h.silent hp hs), fun hp hs => ?_⟩
  obtain ⟨hrec, e, he, rest⟩ := h.raised hp hs
  exact ⟨record.trans hrec, e, older e he, rest⟩

theorem Evaluated.release (h : Evaluated s t D E A) (hE : E p = false) (hA : A p = false) (own : F p = true)
    (other : F p.other = E p.other) : Evaluated s (t.releaseForRoom p) D F A := by
  have cc := ccKept_releaseForRoom t p
  have only := only_releaseForRoom t p
  obtain ⟨call, callOther⟩ := releaseForRoom_calls t p
  obtain ⟨bell, bellOther⟩ := releaseForRoom_bells t p
  obtain ⟨told, recordOther, older⟩ := releaseForRoom_faults t p
  have before : t.call p = (s.call p).evaluated (D p) false := by rw [h.call p hA, hE]
  have count := released_succ hE own other
  exact {
    sup := (only.sup (by decide)).trans h.sup
    settings := only.settings.trans h.settings
    uptime := only.uptime.trans h.uptime
    pDown := cc.pDown.trans h.pDown
    pUp := cc.pUp.trans h.pUp
    custody := cc.custody.trans h.custody
    call := fun q hq => by
      rcases port_eq_or_other p q with rfl | rfl
      · rw [call, before, own]
        cases D q <;> simp [CallRec.evaluated]
      · rw [callOther, other]
        exact h.call _ hq
    roomed := fun q hq => by
      rcases port_eq_or_other p q with rfl | rfl
      · rw [hA] at hq
        exact absurd hq (by simp)
      · rw [callOther]
        exact h.roomed _ hq
    bell := fun q hq => by
      rcases port_eq_or_other p q with rfl | rfl
      · exact bell
      · rw [bellOther]
        exact h.bell _ (other ▸ hq)
    kept := fun q hq => by
      rcases port_eq_or_other p q with rfl | rfl
      · rw [own] at hq
        exact absurd hq (by simp)
      · rw [recordOther]
        exact h.kept _ (other ▸ hq)
    told := fun q hq => by
      rcases port_eq_or_other p q with rfl | rfl
      · refine told.after (by omega) (h.kept _ hE) ?_ h.uptime
        rw [State.faultSetting, h.settings]
        rfl
      · rw [count]
        exact (h.told _ (other ▸ hq)).later recordOther (older _ (by have := released_le E; omega))
    asks := h.asks.append (k := .release) (p := p)
      (by
        obtain ⟨serial, channel, -⟩ := evaluated_marks (s.call p) (D p) false
        rw [releaseForRoom_requested, capacityRequest_congr] <;> rw [before] <;> assumption)
      hE fun k q => by
        cases k <;> rcases port_eq_or_other p q with rfl | rfl <;> simp [State.capacityWants, own, other, port_other_ne] }

/-! ## An admission (R101, R103, R108) -/

theorem admitWaiting_seizing (hs : (t.call p).state = .seizing) : t.admitWaiting p =
    (t.takeSerial.1.updCall p fun r =>
      { r with admission := none, order := t.cc.nextSerial, coding := some .reduced }).requestSeize p .reduced := by
  unfold State.admitWaiting
  dsimp only
  rw [show t.takeSerial.1.call p = t.call p from rfl, hs]
  rfl

/-- A waiting record of another state, which no run reaches, is admitted in vain. -/
theorem admitWaiting_vain (hs : (t.call p).state ≠ .seizing) (ha : (t.call p).state ≠ .alertingIn) :
    t.admitWaiting p = t.takeSerial.1 := by
  unfold State.admitWaiting
  dsimp only
  rw [show t.takeSerial.1.call p = t.call p from rfl]
  split
  · exact absurd ‹_› hs
  · exact absurd ‹_› ha
  · rfl

/-- The admitted alerting record, its ring decision to come. -/
def State.alertAdmitted (t : State) (p : Port) : State :=
  t.takeSerial.1.updCall p fun r =>
    { r with admission := none, order := t.cc.nextSerial, coding := some .reduced, channel := (t.call p).alertChannel
             alertNumber := none, alertChannel := none, alert := some 120000 }

/-- The same, its ALERT answered. -/
def State.alertAnswered (t : State) (p : Port) : State :=
  match (t.call p).alertNumber with
  | some n => (t.alertAdmitted p).answerAck .alert n (wIdx Coding.reduced.ctorIdx)
  | none => t.alertAdmitted p

theorem admitWaiting_alerting (hs : (t.call p).state = .alertingIn) :
    t.admitWaiting p = (t.alertAnswered p).ringDecision p := by
  unfold State.admitWaiting
  dsimp only
  rw [show t.takeSerial.1.call p = t.call p from rfl, hs]
  rfl

/-- What an admission leaves besides the record: the other call, its bell, the calls' room. -/
structure AdmitFrame (t u : State) (p : Port) : Prop where
  other : u.call p.other = t.call p.other
  bell : (u.port p.other).ringRequest = (t.port p.other).ringRequest
  cc : CcKept t u

theorem AdmitFrame.trans {v : State} (h : AdmitFrame t u p) (k : AdmitFrame u v p) : AdmitFrame t v p :=
  ⟨k.other.trans h.other, k.bell.trans h.bell, h.cc.trans k.cc⟩

theorem admitFrame_updCall (t : State) (p : Port) (f : CallRec → CallRec) : AdmitFrame t (t.updCall p f) p :=
  ⟨call_updCall_other t p f, ringRequest_updCall t p f _, ccKept_updCall t p f⟩

theorem AdmitFrame.of_only {l : List Block} (h : Only l t u) (hc : Block.cc ∉ l := by decide)
    (hp : Block.ports ∉ l := by decide) : AdmitFrame t u p := by
  refine ⟨h.call _ hc, ?_, .of_only h hc⟩
  rw [State.port, h.ports hp]
  rfl

theorem admitFrame_takeSerial (t : State) (p : Port) : AdmitFrame t t.takeSerial.1 p := ⟨rfl, rfl, ccKept_takeSerial t⟩

theorem alertAnswered_only (t : State) (p : Port) : Only [.ss] (t.alertAdmitted p) (t.alertAnswered p) := by
  unfold State.alertAnswered
  split
  · exact only_answer _ _ _ _ _
  · exact .refl _ _

theorem alertAnswered_requested (t : State) (p : Port) : (t.alertAnswered p).requested = t.requested := by
  have admitted : (t.alertAdmitted p).requested = t.requested := requested_updCall _ p _
  unfold State.alertAnswered
  split
  · exact (requested_answer _ _ _ _ _).trans admitted
  · exact admitted

/-- The ring decision of an admitted call: DECISION_WANTED, or in PART the plan at once (R109). -/
theorem ringDecision_spec (t : State) (p : Port) : AdmitFrame t (t.ringDecision p) p
    ∧ (t.ringDecision p).requested = t.requested
    ∧ (t.ringDecision p).call p = (if t.cc.custody = .part then
        { t.call p with
          sub := some .ringingPlan, decision := none
          plan := some (.ring (if t.sup.mode = .reserve then 2 else 0)) }
        else { t.call p with sub := some .decisionWanted, decision := some 2000 }) := by
  by_cases hc : t.cc.custody = .part
  · let x := t.updCall p fun r => { r with
      sub := some .ringingPlan, plan := some (.ring (if t.sup.mode = .reserve then 2 else 0)), decision := none }
    have eq : t.ringDecision p = if x.mayRing p then x.ringPort p (if t.sup.mode = .reserve then 2 else 0) else x := by
      unfold State.ringDecision
      rw [hc]
      rfl
    have named : AdmitFrame t x p := admitFrame_updCall t p _
    have call : x.call p = { t.call p with
        sub := some .ringingPlan, plan := some (.ring (if t.sup.mode = .reserve then 2 else 0)), decision := none } :=
      call_updCall t p _
    rw [eq, if_pos hc]
    split
    · have rung : Only [.ports] x (x.ringPort p (if t.sup.mode = .reserve then 2 else 0)) := only_ringPort _ _ _
      refine ⟨named.trans ⟨rung.call _, ?_, .of_only rung⟩, ?_, ?_⟩
      · rw [ringPort_other]
      · exact (requested_of_ss (rung.ss (by decide))).trans (requested_updCall t p _)
      · rw [rung.call p, call]
    · exact ⟨named, requested_updCall t p _, call⟩
  · have eq : t.ringDecision p = t.updCall p fun r => { r with sub := some .decisionWanted, decision := some 2000 } := by
      unfold State.ringDecision
      split
      · exact absurd ‹_› hc
      · rfl
    rw [eq, if_neg hc]
    exact ⟨admitFrame_updCall t p _, requested_updCall t p _, call_updCall t p _⟩

/-- An admission, by the state of the waiting record. -/
theorem admitWaiting_spec (hs : (t.call p).state = .seizing ∨ (t.call p).state = .alertingIn) :
    AdmitFrame t (t.admitWaiting p) p
    ∧ (∃ k, (t.admitWaiting p).call p = (t.call p).roomed k t.cc.custody t.sup.mode)
    ∧ (t.admitWaiting p).requested =
      t.requested ++ (if (t.call p).state = .seizing then [t.capacityRequest .seize p] else []) := by
  rcases hs with hs | hs
  · rw [admitWaiting_seizing hs, if_pos hs]
    let x := t.takeSerial.1.updCall p fun r =>
      { r with admission := none, order := t.cc.nextSerial, coding := some .reduced }
    have call : x.call p = { t.call p with admission := none, order := t.cc.nextSerial, coding := some .reduced } :=
      call_updCall _ p _
    have frame : AdmitFrame t x p := (admitFrame_takeSerial t p).trans (admitFrame_updCall _ p _)
    refine ⟨frame.trans ⟨?_, ?_, ?_⟩, ⟨t.cc.nextSerial, ?_⟩, ?_⟩
    · exact call_callTx_other x p _ _ _ rfl
    · rw [State.port, (only_requestSeize _ p _).ports (by decide)]
      rfl
    · exact ccKept_callTx x p .seize _ _ rfl
    · rw [State.requestSeize, call_callTx _ _ _ _ _ rfl, call]
      simp [CallRec.roomed, hs]
    · rw [State.requestSeize, requested_callTx _ _ _ _ _ rfl, requested_updCall, call_updCall]
      rfl
  · rw [admitWaiting_alerting hs, if_neg (by simp [hs]), List.append_nil]
    obtain ⟨frame, requested, call⟩ := ringDecision_spec (t.alertAnswered p) p
    have answered := alertAnswered_only t p
    have admitted : AdmitFrame t (t.alertAdmitted p) p := (admitFrame_takeSerial t p).trans (admitFrame_updCall _ p _)
    have record : (t.alertAdmitted p).call p = { t.call p with
        admission := none, order := t.cc.nextSerial, coding := some .reduced, channel := (t.call p).alertChannel
        alertNumber := none, alertChannel := none, alert := some 120000 } := call_updCall _ p _
    have custody : (t.alertAnswered p).cc.custody = t.cc.custody :=
      (congrArg CC.custody (answered.cc (by decide))).trans admitted.cc.custody
    have mode : (t.alertAnswered p).sup = t.sup := by
      rw [answered.sup (by decide), State.alertAdmitted, (only_updCall _ p _).sup (by decide)]
      rfl
    refine ⟨(admitted.trans (.of_only answered)).trans frame, ⟨t.cc.nextSerial, ?_⟩,
      requested.trans (alertAnswered_requested t p)⟩
    rw [call, custody, mode, answered.call p, record]
    by_cases hc : t.cc.custody = .part
    · simp [CallRec.roomed, hs, hc]
    · simp [CallRec.roomed, hs, hc]

theorem Evaluated.admits (h : Evaluated s t D E A) (hD : D p = false) (hE : E p = false) (hA : A p = false)
    (hs : (s.call p).state = .seizing ∨ (s.call p).state = .alertingIn) (own : F p = true)
    (other : F p.other = A p.other) : Evaluated s (t.admitWaiting p) D E F := by
  have before : t.call p = s.call p := by rw [h.call p hA, hD, hE]; rfl
  have only := only_admitWaiting t p
  obtain ⟨⟨callOther, bell, cc⟩, ⟨k, call⟩, requested⟩ := admitWaiting_spec (t := t) (p := p) (by rw [before]; exact hs)
  rw [before, h.custody, h.sup] at call
  rw [before, capacityRequest_congr (s := s) (by rw [before]) (by rw [before])] at requested
  exact {
    sup := (only.sup (by decide)).trans h.sup
    settings := only.settings.trans h.settings
    uptime := only.uptime.trans h.uptime
    pDown := cc.pDown.trans h.pDown
    pUp := cc.pUp.trans h.pUp
    custody := cc.custody.trans h.custody
    call := fun q hq => by
      rcases port_eq_or_other p q with rfl | rfl
      · rw [own] at hq
        exact absurd hq (by simp)
      · rw [callOther]
        exact h.call _ (other ▸ hq)
    roomed := fun q hq => by
      rcases port_eq_or_other p q with rfl | rfl
      · exact ⟨k, call⟩
      · rw [callOther]
        exact h.roomed _ (other ▸ hq)
    bell := fun q hq => by
      rcases port_eq_or_other p q with rfl | rfl
      · rw [hE] at hq
        exact absurd hq (by simp)
      · rw [bell]
        exact h.bell _ hq
    kept := fun q hq => by
      rw [State.faultRec, only.fs (by decide)]
      exact h.kept q hq
    told := fun q hq => (h.told q hq).of_fs (only.fs (by decide))
    asks := by
      by_cases hz : (s.call p).state = .seizing
      · rw [if_pos hz] at requested
        refine h.asks.append (k := .seize) requested (by simp [State.capacityWants, hA]) fun k q => ?_
        cases k <;> rcases port_eq_or_other p q with rfl | rfl <;>
          simp [State.capacityWants, own, other, port_other_ne, hz]
      · rw [if_neg hz, List.append_nil] at requested
        have same : s.capacityWants D E F = s.capacityWants D E A := by
          funext k q
          have state : ((s.call p).state == .seizing) = false := by simpa using hz
          cases k <;> rcases port_eq_or_other p q with rfl | rfl <;> simp [State.capacityWants, other, state]
        rw [same]
        exact h.asks.still requested }

end

end Sys2Proof.Machine
end

section
/-!
PROOFS. The capacity evaluation (R100 to R102), step by step: the downgrades, the releases, the retest of the waiting
calls, and what the whole leaves of the calls.
-/

namespace Sys2Proof.Machine

-- One proof at a time: the text is compiled as one, and each proof that waits for the others holds a thread.
set_option Elab.async false

/-- No port. -/
abbrev noPort : Port → Bool := fun _ => false

section
variable {s t : State} {D E A : Port → Bool} {p : Port}

theorem fits_mono {m n : Nat} (h : s.fits m = false) (hmn : m ≤ n) : s.fits n = false := by
  simp only [State.fits, decide_eq_false_iff_not] at *
  omega

/-! ## Records on the way -/

theorem CallRec.evaluated_slot (r : CallRec) (d e : Bool) : (r.evaluated d e).slot = (!e && r.slot) := by
  cases e <;> cases d <;> simp [CallRec.evaluated, CallRec.slot]

/-- What a record counts on the way; only calls that carry a slot are asked down. -/
theorem CallRec.evaluated_bytes (r : CallRec) (d e : Bool) (h : d = true → r.slot = true) :
    (r.evaluated d e).bytesInR = if e then r.bytesLeft else if d then 40 else r.bytesInR := by
  cases e
  · cases d
    · rfl
    · have slot := h rfl
      simp only [CallRec.evaluated, CallRec.bytesInR, CallRec.ownBytes]
      cases hs : r.state <;> simp_all [CallRec.slot]
  · simp [CallRec.evaluated, CallRec.bytesInR, CallRec.bytesLeft, CallRec.ownBytes]

theorem CallRec.evaluated_downgradable (r : CallRec) (d : Bool) :
    (r.evaluated d false).downgradable = (!d && r.downgradable) := by
  cases d <;> simp [CallRec.evaluated, CallRec.downgradable]

theorem newerCall_congr (connect : ∀ q, (t.call q).connect = (s.call q).connect)
    (order : ∀ q, (t.call q).order = (s.call q).order) : t.newerCall p = s.newerCall p := by
  simp only [State.newerCall, connect, order]

theorem Evaluated.newer (h : Evaluated s t D E noPort) : t.newerCall p = s.newerCall p := by
  refine newerCall_congr (fun q => ?_) fun q => ?_ <;> rw [h.call q rfl]
  · exact (evaluated_marks _ _ _).2.2.1
  · exact (evaluated_marks _ _ _).2.2.2

theorem Evaluated.requirement (h : Evaluated s t D E noPort) (hD : ∀ q, D q = true → (s.call q).slot = true) (p : Port) :
    t.voiceRequirement = 64 + (if E p then (s.call p).bytesLeft else if D p then 40 else (s.call p).bytesInR)
      + (if E p.other then (s.call p.other).bytesLeft else if D p.other then 40 else (s.call p.other).bytesInR) := by
  rw [voiceRequirement_eq t p, h.call p rfl, h.call p.other rfl, CallRec.evaluated_bytes _ _ _ (hD p),
    CallRec.evaluated_bytes _ _ _ (hD p.other)]

/-! ## The downgrades (R102, steps 1 and 2) -/

theorem downgradable_bytes (h : (s.call p).downgradable = true) : (s.call p).bytesInR = 80 ∧ (s.call p).slot = true := by
  rw [downgradable_eq, Bool.and_eq_true, beq_iff_eq] at h
  refine ⟨?_, h.1⟩
  have slot := h.1
  simp only [CallRec.bytesInR, h.2]
  cases hs : (s.call p).state <;> simp_all [CallRec.slot]

theorem askedDown_lifeline (hl : s.effProfile = .lifeline) : s.askedDown s p = (s.call p).downgradable := by
  simp [State.askedDown, hl, downgradable_eq]

theorem askedDown_else (hl : s.effProfile ≠ .lifeline) : s.askedDown s p = ((s.call p).downgradable
    && (!s.fits s.voiceRequirement
      && (!(s.call p.other).downgradable || s.newerCall p || !s.fits (s.voiceRequirement - 40)))) := by
  have lifeline : (s.effProfile == .lifeline) = false := by simpa using hl
  rw [State.askedDown, voiceRequirement_eq s p, downgradable_eq, downgradable_eq, lifeline, Bool.false_or]

theorem askedDown_slot (h : s.askedDown s p = true) : (s.call p).slot = true := by
  simp only [State.askedDown, Bool.and_eq_true] at h
  exact h.1.1

theorem downgradeOver_fits (k : Nat) (h : s.fits s.voiceRequirement = true) : State.downgradeOver k s = s := by
  cases k with
  | zero => rfl
  | succ k => exact if_pos (by rw [passes_eq, h])

theorem downgradeOver_newest {k : Nat} (h : s.fits s.voiceRequirement = false)
    (hp : s.newest CallRec.downgradable = some p) :
    State.downgradeOver (k + 1) s = State.downgradeOver k (s.downgradeCall p) := by
  rw [State.downgradeOver, passes_eq, h, hp]
  rfl

/-- R102, step 2, outside LIFELINE: the newest FULL call, then the other, while R does not fit. -/
theorem downgradeOver_evaluated (hl : s.effProfile ≠ .lifeline) :
    Evaluated s (State.downgradeOver 2 s) (fun p => s.askedDown s p) noPort noPort := by
  have asked (p : Port) := askedDown_else (p := p) hl
  have start := Evaluated.start s
  cases hf : s.fits s.voiceRequirement with
  | true =>
    have none : (fun p => s.askedDown s p) = noPort := funext fun p => by rw [asked, hf]; simp
    rw [downgradeOver_fits _ hf, none]
    exact start
  | false =>
    rcases newest_cases s CallRec.downgradable with idle | ⟨p, hp, hn⟩
    · have none : (fun p => s.askedDown s p) = noPort := funext fun p => by rw [asked, idle]; rfl
      rw [downgradeOver_idle 2 idle, none]
      exact start
    · rw [downgradeOver_newest hf (newest_wins s hp hn)]
      have own : s.askedDown s p = true := by
        rw [asked, hp, hf]
        cases hq : (s.call p.other).downgradable
        · rfl
        · rw [hn hq]
          rfl
      have first : Evaluated s (s.downgradeCall p) (fun q => q == p) noPort noPort :=
        start.downgrade rfl rfl rfl (by simp) (by simp [port_other_ne])
      have slot (q : Port) (h : (q == p) = true) : (s.call q).slot = true := by
        rw [beq_iff_eq.mp h]
        exact (downgradable_bytes hp).2
      have requirement : (s.downgradeCall p).voiceRequirement = s.voiceRequirement - 40 := by
        rw [first.requirement slot p, voiceRequirement_eq s p, (downgradable_bytes hp).1]
        simp [port_other_ne]
        omega
      have fits : (s.downgradeCall p).fits (s.downgradeCall p).voiceRequirement = s.fits (s.voiceRequirement - 40) := by
        rw [first.fits, requirement]
      have later : s.askedDown s p.other = ((s.call p.other).downgradable && !s.fits (s.voiceRequirement - 40)) := by
        rw [asked, hf, port_other_other, hp, newerCall_other]
        cases hq : (s.call p.other).downgradable
        · rfl
        · rw [hn hq]
          rfl
      have onlyFirst (h : s.askedDown s p.other = false) : (fun q => s.askedDown s q) = fun q => q == p := funext fun q => by
        rcases port_eq_or_other p q with rfl | rfl
        · simp [own]
        · simp [h, port_other_ne]
      cases hf' : s.fits (s.voiceRequirement - 40) with
      | true =>
        rw [downgradeOver_fits _ (fits.trans hf'), onlyFirst (by rw [later, hf']; simp)]
        exact first
      | false =>
        have down (q : Port) : ((s.downgradeCall p).call q).downgradable = (!(q == p) && (s.call q).downgradable) := by
          rw [first.call q rfl, CallRec.evaluated_downgradable]
        cases hq : (s.call p.other).downgradable with
        | false =>
          have idle (q : Port) : ((s.downgradeCall p).call q).downgradable = false := by
            rcases port_eq_or_other p q with rfl | rfl <;> simp [down, hq]
          rw [downgradeOver_idle _ idle, onlyFirst (by rw [later, hq]; rfl)]
          exact first
        | true =>
          have wins : (s.downgradeCall p).newest CallRec.downgradable = some p.other := by
            refine newest_wins _ ?_ fun h => ?_
            · simp [down, hq, port_other_ne]
            · simp [down] at h
          rw [downgradeOver_newest (fits.trans hf') wins]
          exact first.downgrade (by simp [port_other_ne]) rfl rfl (by rw [later, hq, hf']; rfl) (by simp [own])

/-- R102, step 1: in LIFELINE every FULL call. -/
theorem downgradeAll_evaluated (hl : s.effProfile = .lifeline) :
    Evaluated s ([Port.a, .b].foldl (fun s p => if (s.call p).downgradable then s.downgradeCall p else s) s)
      (fun p => s.askedDown s p) noPort noPort := by
  have asked (p : Port) := askedDown_lifeline (p := p) hl
  have one {t : State} {D D' : Port → Bool} (h : Evaluated s t D noPort noPort) (p : Port) (hD : D p = false)
      (own : D' p = (s.call p).downgradable) (other : D' p.other = D p.other) :
      Evaluated s (if (t.call p).downgradable then t.downgradeCall p else t) D' noPort noPort := by
    have same : (t.call p).downgradable = (s.call p).downgradable := by
      rw [h.call p rfl, hD]
      rfl
    rw [same]
    cases hp : (s.call p).downgradable with
    | true => exact h.downgrade hD rfl rfl (own.trans hp) other
    | false =>
      have none : D' = D := funext fun q => by
        rcases port_eq_or_other p q with rfl | rfl
        · rw [own, hp, hD]
        · exact other
      rw [none]
      exact h
  have a : Evaluated s _ (fun q => q == .a && (s.call .a).downgradable) noPort noPort :=
    one (.start s) .a rfl (by simp) (by simp [Port.other])
  exact one a .b rfl (asked _) (by rw [asked]; simp [Port.other])

end

section
variable {s t : State} {D E A : Port → Bool} {p : Port}

/-- The calls once the downgrades are asked for. -/
def State.downgraded (s : State) : State :=
  State.downgradeOver 2 (if s.effProfile = .lifeline then
    [Port.a, .b].foldl (fun s p => if (s.call p).downgradable then s.downgradeCall p else s) s else s)

theorem downgraded_evaluated (s : State) : Evaluated s s.downgraded (fun p => s.askedDown s p) noPort noPort := by
  unfold State.downgraded
  by_cases hl : s.effProfile = .lifeline
  · rw [if_pos hl]
    have all := downgradeAll_evaluated hl
    rw [downgradeOver_idle]
    · exact all
    · intro p
      rw [all.call p rfl, CallRec.evaluated_downgradable, askedDown_lifeline hl]
      cases (s.call p).downgradable <;> rfl
  · rw [if_neg hl]
    exact downgradeOver_evaluated hl

/-! ## The releases (R102, step 3) -/

theorem releaseOver_fits (k : Nat) (h : s.fits s.voiceRequirement = true) : State.releaseOver k s = s := by
  cases k with
  | zero => rfl
  | succ k => exact if_pos (by rw [passes_eq, h])

theorem releaseOver_newest {k : Nat} (h : s.fits s.voiceRequirement = false)
    (hp : s.newest CallRec.carries = some p) :
    State.releaseOver (k + 1) s = State.releaseOver k (s.releaseForRoom p) := by
  rw [State.releaseOver, passes_eq, h, hp]
  rfl

theorem Evaluated.carries (h : Evaluated s t D E noPort) (q : Port) :
    (t.call q).carries = (!E q && (s.call q).slot) := by
  rw [carries_eq_slot, h.call q rfl, CallRec.evaluated_slot]

/-- R102, step 3: the newest call that carries a slot, then the other, while R does not fit. -/
theorem releaseOver_evaluated (h : Evaluated s t (fun p => s.askedDown s p) noPort noPort) :
    Evaluated s (State.releaseOver 2 t) (fun p => s.askedDown s p) (fun p => s.releasedForRoom s p) noPort := by
  have slots (q : Port) (hq : s.askedDown s q = true) : (s.call q).slot = true := askedDown_slot hq
  have requirement (p : Port) : t.voiceRequirement = 64 + s.bytesAsked s p + s.bytesAsked s p.other := h.requirement slots p
  have decided (p : Port) : s.releasedForRoom s p = ((s.call p).slot && !t.fits t.voiceRequirement
      && (!(s.call p.other).slot || s.newerCall p || !s.fits (64 + s.bytesAsked s p + (s.call p.other).bytesLeft))) := by
    rw [h.fits, requirement p]
    rfl
  have slot (q : Port) : (t.call q).carries = (s.call q).slot := h.carries q
  cases hf : t.fits t.voiceRequirement with
  | true =>
    have none : (fun p => s.releasedForRoom s p) = noPort := funext fun p => by rw [decided, hf]; simp
    rw [releaseOver_fits _ hf, none]
    exact h
  | false =>
    rcases newest_cases t CallRec.carries with idle | ⟨p, hp, hn⟩
    · have none : (fun p => s.releasedForRoom s p) = noPort := funext fun p => by
        rw [decided, ← slot p, idle]
        rfl
      rw [releaseOver_idle 2 idle, none]
      exact h
    · rw [releaseOver_newest hf (newest_wins t hp hn)]
      rw [slot] at hp
      rw [slot, h.newer] at hn
      have own : s.releasedForRoom s p = true := by
        rw [decided, hp, hf]
        cases hq : (s.call p.other).slot
        · rfl
        · rw [hn hq]
          rfl
      have first : Evaluated s (t.releaseForRoom p) (fun p => s.askedDown s p) (fun q => q == p) noPort :=
        h.release rfl rfl (by simp) (by simp [port_other_ne])
      have fits : (t.releaseForRoom p).fits (t.releaseForRoom p).voiceRequirement =
          s.fits (64 + s.bytesAsked s p.other + (s.call p).bytesLeft) := by
        rw [first.fits, first.requirement slots p.other]
        simp [port_other_ne, State.bytesAsked]
      have later : s.releasedForRoom s p.other =
          ((s.call p.other).slot && !s.fits (64 + s.bytesAsked s p.other + (s.call p).bytesLeft)) := by
        rw [decided, hf, port_other_other, hp, newerCall_other]
        cases hq : (s.call p.other).slot
        · rfl
        · rw [hn hq]
          rfl
      have onlyFirst (h : s.releasedForRoom s p.other = false) :
          (fun q => s.releasedForRoom s q) = fun q => q == p := funext fun q => by
        rcases port_eq_or_other p q with rfl | rfl
        · simp [own]
        · simp [h, port_other_ne]
      cases hf' : s.fits (64 + s.bytesAsked s p.other + (s.call p).bytesLeft) with
      | true =>
        rw [releaseOver_fits _ (fits.trans hf'), onlyFirst (by rw [later, hf']; simp)]
        exact first
      | false =>
        cases hq : (s.call p.other).slot with
        | false =>
          have idle (q : Port) : ((t.releaseForRoom p).call q).carries = false := by
            rcases port_eq_or_other p q with rfl | rfl <;> simp [first.carries, hq]
          rw [releaseOver_idle _ idle, onlyFirst (by rw [later, hq]; rfl)]
          exact first
        | true =>
          have wins : (t.releaseForRoom p).newest CallRec.carries = some p.other := by
            refine newest_wins _ ?_ fun h => ?_
            · simp [first.carries, hq, port_other_ne]
            · simp [first.carries] at h
          rw [releaseOver_newest (fits.trans hf') wins]
          exact first.release (by simp [port_other_ne]) rfl (by rw [later, hq, hf']; rfl) (by simp [own])

/-- R as taken at the end of the three steps. -/
def State.takenR (t : State) : State := t.modCc fun c => { c with lastR := t.voiceRequirement }

theorem Evaluated.takenR (h : Evaluated s t D E A) : Evaluated s t.takenR D E A :=
  h.still (only_modCc t _) ⟨rfl, rfl, rfl⟩ (fun _ => rfl) rfl rfl rfl

theorem takenR_lastR (t : State) : t.takenR.cc.lastR = t.voiceRequirement := rfl

/-- The calls once the three steps are done. -/
def State.fitted (s : State) : State := (State.releaseOver 2 s.downgraded).takenR

theorem evaluateCapacity_eq (s : State) : s.evaluateCapacity = s.fitted.retestWaiting := rfl

theorem fitted_evaluated (s : State) :
    Evaluated s s.fitted (fun p => s.askedDown s p) (fun p => s.releasedForRoom s p) noPort
    ∧ s.fitted.cc.lastR = 64 + s.bytesAfter s .a + s.bytesAfter s .b := by
  have done := releaseOver_evaluated (downgraded_evaluated s)
  refine ⟨done.takenR, ?_⟩
  rw [State.fitted, takenR_lastR, done.requirement (fun q hq => askedDown_slot hq) .a]
  rfl

/-! ## The retest of the waiting calls (R101) -/

/-- The record still waits for admission. -/
def State.stillWaits (s : State) (p : Port) : Bool := (s.call p).admission.isSome && !s.releasedForRoom s p

/-- A record that an admission moves. -/
def CallRec.admissible (r : CallRec) : Bool := r.state == .seizing || r.state == .alertingIn

/-- What the other call counts against a waiting one. -/
def State.share (t : State) (p : Port) : Nat :=
  if (t.call p.other).admission.isSome then 0 else (t.call p.other).bytesInR

theorem retest_eq (t : State) (p : Port) : t.retest p =
    if (t.call p).admission.isSome then (if t.fits (104 + t.share p) then t.admitWaiting p else t) else t := by
  unfold State.retest State.share
  dsimp only
  rw [passes_eq, counted_eq]

theorem Evaluated.record (h : Evaluated s t D E A) (hA : A p = false) (ha : (t.call p).admission.isSome = true)
    (hD : ∀ q, D q = true → (s.call q).slot = true) (hs : (t.call p).admissible = true) :
    D p = false ∧ E p = false ∧ t.call p = s.call p := by
  have call := h.call p hA
  have hE : E p = false := by
    cases hE : E p with
    | false => rfl
    | true =>
      rw [call, hE] at ha
      simp [CallRec.evaluated] at ha
  rw [hE] at call
  cases hd : D p with
  | false => exact ⟨rfl, hE, by rw [call, hd]; rfl⟩
  | true =>
    have slot := hD p hd
    rw [call, hd] at ha hs
    simp only [CallRec.evaluated, CallRec.admissible] at ha hs
    simp only [CallRec.slot] at slot
    cases hst : (s.call p).state <;> simp_all

/-- The waiting call is admitted at its retest. -/
def State.gets (t : State) (p : Port) : Bool :=
  (t.call p).admission.isSome && (t.call p).admissible && t.fits (104 + t.share p)

/-- A retest admits the call, or leaves all but the next serial as it was. -/
theorem retest_cases (t : State) (p : Port) : (t.gets p = true → t.retest p = t.admitWaiting p)
    ∧ (t.gets p = false → t.retest p = t ∨ t.retest p = t.takeSerial.1) := by
  rw [retest_eq, State.gets]
  cases (t.call p).admission.isSome
  · exact ⟨fun h => by simp at h, fun _ => .inl rfl⟩
  · cases t.fits (104 + t.share p)
    · exact ⟨fun h => by simp at h, fun _ => .inl rfl⟩
    · refine ⟨fun _ => rfl, fun h => .inr ?_⟩
      simp only [CallRec.admissible, Bool.true_and, Bool.and_true, Bool.or_eq_false_iff, beq_eq_false_iff_ne] at h
      exact admitWaiting_vain h.1 h.2

/-- A step that changes nothing of the calls but the next serial. -/
theorem Evaluated.unmoved (h : Evaluated s t D E A) {u : State} (hu : u = t ∨ u = t.takeSerial.1) :
    Evaluated s u D E A ∧ CcKept t u ∧ (∀ q, u.call q = t.call q) := by
  rcases hu with rfl | rfl
  · exact ⟨h, .refl _, fun _ => rfl⟩
  · exact ⟨h.still (only_takeSerial t) ⟨rfl, rfl, rfl⟩ (fun _ => rfl) rfl rfl rfl, ccKept_takeSerial t, fun _ => rfl⟩

/-- One waiting call tested again: admitted at 40 bytes, or left as it was. -/
structure Retested (t u : State) (p : Port) : Prop where
  cc : CcKept t u
  other : u.call p.other = t.call p.other
  stays : t.gets p = false → u.call p = t.call p
  admitted : t.gets p = true → (u.call p).admission = none ∧ (u.call p).bytesInR = 40

theorem Evaluated.retest (h : Evaluated s t D E A) (hD : ∀ q, D q = true → (s.call q).slot = true) (hA : A p = false) :
    ∃ A' : Port → Bool, Evaluated s (t.retest p) D E A' ∧ Retested t (t.retest p) p ∧ A' p.other = A p.other
      ∧ A' p = t.gets p := by
  obtain ⟨admits, leaves⟩ := retest_cases t p
  cases hg : t.gets p with
  | false =>
    obtain ⟨done, cc, calls⟩ := h.unmoved (leaves hg)
    exact ⟨A, done, ⟨cc, calls _, fun _ => calls _, fun hn => by simp [hg] at hn⟩, rfl, hA⟩
  | true =>
    rw [admits hg]
    have waiting := hg
    simp only [State.gets, Bool.and_eq_true] at waiting
    obtain ⟨⟨ha, hs⟩, -⟩ := waiting
    obtain ⟨hd, hE, same⟩ := h.record hA ha hD hs
    have state : (t.call p).state = .seizing ∨ (t.call p).state = .alertingIn := by
      simpa [CallRec.admissible] using hs
    obtain ⟨frame, ⟨k, call⟩, -⟩ := admitWaiting_spec state
    refine ⟨fun q => q == p || A q, ?_, ⟨frame.cc, frame.other, fun hn => by simp [hg] at hn, fun _ => ?_⟩,
      by simp [port_other_ne], by simp⟩
    · exact h.admits hd hE hA (by rw [← same]; exact state) (by simp) (by simp [port_other_ne])
    · rw [call]
      refine ⟨rfl, ?_⟩
      rcases state with hst | hst <;> simp [CallRec.roomed, CallRec.bytesInR, CallRec.ownBytes, hst]

end

section
variable {s t u : State} {D E A : Port → Bool} {p : Port}

theorem gets_congr (calls : ∀ q, u.call q = t.call q) (cc : CcKept t u) : u.gets p = t.gets p := by
  simp only [State.gets, State.share, calls, cc.fits]

theorem gets_none (h : (t.call p).admission = none) : t.gets p = false := by
  simp [State.gets, h]

/-- The wait of this call began first (R101, log 20). -/
def State.waitedFirst (s : State) (p : Port) : Bool :=
  if p = .a then decide ((s.call .a).order ≤ (s.call .b).order) else decide ((s.call .b).order < (s.call .a).order)

theorem admittedToRoom_eq (s : State) (p : Port) : s.admittedToRoom s p = (s.stillWaits p && (s.call p).admissible
    && s.fits (104 + (if !s.stillWaits p.other || s.waitedFirst p
      then (if s.stillWaits p.other then 0 else s.bytesAfter s p.other)
      else if (s.call p.other).admissible then 40 else 0))) := by
  have ok : ((s.call p.other).state = .seizing ∨ (s.call p.other).state = .alertingIn) =
      ((s.call p.other).admissible = true) := by simp [CallRec.admissible]
  unfold State.admittedToRoom
  simp only [ok]
  rfl

/-- Once both have been tested again, no call that waits would be admitted. -/
theorem Retested.pair_quiet {v : State} (one : Retested t v p) (two : Retested v u p.other) (q : Port) :
    u.gets q = false := by
  obtain ⟨cc, other, stays, admitted⟩ := one
  obtain ⟨cc', other', stays', admitted'⟩ := two
  rw [port_other_other] at other'
  cases hg' : v.gets p.other with
  | false =>
    have calls (q : Port) : u.call q = v.call q := by
      rcases port_eq_or_other p q with rfl | rfl
      · exact other'
      · exact stays' hg'
    rcases port_eq_or_other p q with rfl | rfl
    · refine (gets_congr calls cc').trans ?_
      cases hg : t.gets q with
      | true => exact gets_none (admitted hg).1
      | false =>
        refine (gets_congr (fun r => ?_) cc).trans hg
        rcases port_eq_or_other q r with rfl | rfl
        · exact stays hg
        · exact other
    · exact (gets_congr calls cc').trans hg'
  | true =>
    rcases port_eq_or_other p q with rfl | rfl
    · cases hg : t.gets q with
      | true => exact gets_none (by rw [other']; exact (admitted hg).1)
      | false =>
        -- both waited, so the first was tested alone, and found no room
        have waits : (t.call q.other).admission.isSome = true := by
          rw [State.gets, other] at hg'
          simp only [Bool.and_eq_true] at hg'
          exact hg'.1.1
        have alone : ((t.call q).admission.isSome && (t.call q).admissible && t.fits 104) = false := by
          rw [State.gets, State.share, waits] at hg
          exact hg
        rw [State.gets, other', stays hg, cc'.fits, cc.fits]
        cases ha : ((t.call q).admission.isSome && (t.call q).admissible)
        · rfl
        · rw [ha, Bool.true_and] at alone
          rw [Bool.true_and]
          exact fits_mono alone (Nat.le_add_right _ _)
    · exact gets_none (admitted' hg').1

variable (h : Evaluated s t (fun p => s.askedDown s p) (fun p => s.releasedForRoom s p) noPort)
include h

theorem Evaluated.stillWaits (q : Port) : (t.call q).admission.isSome = s.stillWaits q := by
  rw [h.call q rfl, State.stillWaits]
  cases s.releasedForRoom s q <;> cases s.askedDown s q <;> simp [CallRec.evaluated]

theorem Evaluated.bytes (q : Port) : (t.call q).bytesInR = s.bytesAfter s q := by
  rw [h.call q rfl, CallRec.evaluated_bytes _ _ _ askedDown_slot]
  rfl

theorem Evaluated.admissible (q : Port) (hw : s.stillWaits q = true) :
    (t.call q).admissible = (s.call q).admissible := by
  rw [State.stillWaits, Bool.and_eq_true, Bool.not_eq_true'] at hw
  rw [h.call q rfl, hw.2]
  cases s.askedDown s q <;> rfl

theorem Evaluated.gets (q : Port) : t.gets q = (s.stillWaits q && (s.call q).admissible
    && s.fits (104 + (if s.stillWaits q.other then 0 else s.bytesAfter s q.other))) := by
  rw [State.gets, State.share, h.stillWaits, h.stillWaits, h.bytes, h.fits]
  cases hw : s.stillWaits q
  · rfl
  · rw [h.admissible q hw]

/-- The waiting calls tested again, first the one whose wait began first (R101). -/
theorem Evaluated.retestPair (order : s.stillWaits p = true → s.stillWaits p.other = true →
      s.waitedFirst p = true ∧ s.waitedFirst p.other = false) :
    Evaluated s ((t.retest p).retest p.other) (fun p => s.askedDown s p) (fun p => s.releasedForRoom s p)
      (fun p => s.admittedToRoom s p)
    ∧ CcKept t ((t.retest p).retest p.other) ∧ ∀ q, ((t.retest p).retest p.other).gets q = false := by
  have slots (q : Port) (hq : s.askedDown s q = true) : (s.call q).slot = true := askedDown_slot hq
  obtain ⟨A, first, one, other, own⟩ := h.retest (p := p) slots rfl
  obtain ⟨B, second, two, other', own'⟩ := first.retest (p := p.other) slots other
  rw [port_other_other] at other'
  have gets (q : Port) := h.gets q
  -- the second call's test finds the first admitted at 40 bytes, or as it was
  have share : (t.retest p).share p.other = if t.gets p then 40 else t.share p.other := by
    unfold State.share
    rw [port_other_other]
    cases hg : t.gets p with
    | true => simp [one.admitted hg]
    | false => rw [one.stays hg]; rfl
  have later : (t.retest p).gets p.other = (s.stillWaits p.other && (s.call p.other).admissible
      && s.fits (104 + (if t.gets p then 40 else if s.stillWaits p then 0 else s.bytesAfter s p))) := by
    rw [State.gets, one.other, share, one.cc.fits, h.fits, h.stillWaits, State.share, port_other_other, h.stillWaits, h.bytes]
    cases hw : s.stillWaits p.other
    · rfl
    · rw [h.admissible _ hw]
  have firstAdmitted : t.gets p = s.admittedToRoom s p := by
    rw [gets, admittedToRoom_eq]
    cases hw : s.stillWaits p
    · rfl
    · cases ho : s.stillWaits p.other
      · rfl
      · rw [(order hw ho).1]
        rfl
  have secondAdmitted : (t.retest p).gets p.other = s.admittedToRoom s p.other := by
    rw [later, admittedToRoom_eq, port_other_other]
    cases hw : s.stillWaits p
    · rw [gets, hw]
      rfl
    · cases ho : s.stillWaits p.other
      · rfl
      · rw [(order hw ho).2, gets, hw, ho]
        cases (s.call p).admissible
        · rfl
        · cases hf : s.fits 104
          · have no : s.fits 144 = false := fits_mono hf (by decide)
            simp [hf, no]
          · simp [hf]
  have both : B = fun q => s.admittedToRoom s q := funext fun q => by
    rcases port_eq_or_other p q with rfl | rfl
    · rw [other', own, firstAdmitted]
    · rw [own', secondAdmitted]
  exact ⟨both ▸ second, one.cc.trans two.cc, one.pair_quiet two⟩

omit h in
/-- What a capacity evaluation leaves of the calls (R100 to R102). -/
theorem evaluateCapacity_evaluated (s : State) :
    Evaluated s s.evaluateCapacity (fun p => s.askedDown s p) (fun p => s.releasedForRoom s p)
      (fun p => s.admittedToRoom s p)
    ∧ s.evaluateCapacity.cc.lastR = 64 + s.bytesAfter s .a + s.bytesAfter s .b
    ∧ ∀ q, s.evaluateCapacity.gets q = false := by
  obtain ⟨fitted, lastR⟩ := fitted_evaluated s
  rw [evaluateCapacity_eq]
  have orders (q : Port) : (s.fitted.call q).order = (s.call q).order := by
    rw [fitted.call q rfl]
    exact (evaluated_marks _ _ _).2.2.2
  have waits := fitted.stillWaits .b
  unfold State.retestWaiting
  split
  · rename_i hc
    rw [Bool.and_eq_true, decide_eq_true_eq, orders, orders] at hc
    obtain ⟨done, cc, quiet⟩ := fitted.retestPair (p := .b) fun _ _ =>
      ⟨by simp [State.waitedFirst, hc.2], by simp [State.waitedFirst, Port.other, hc.2]⟩
    exact ⟨done, cc.lastR.trans lastR, quiet⟩
  · rename_i hc
    rw [Bool.and_eq_true, decide_eq_true_eq, orders, orders, waits, not_and, not_lt] at hc
    obtain ⟨done, cc, quiet⟩ := fitted.retestPair (p := .a) fun _ hb =>
      ⟨by simp [State.waitedFirst, hc hb], by simp [State.waitedFirst, Port.other, hc hb]⟩
    exact ⟨done, cc.lastR.trans lastR, quiet⟩

omit h in
/-- A retest that finds no call with room changes nothing of the calls. -/
theorem Evaluated.retestQuiet (h : Evaluated s t D E A) (quiet : ∀ q, t.gets q = false) :
    Evaluated s t.retestWaiting D E A ∧ CcKept t t.retestWaiting ∧ ∀ q, t.retestWaiting.gets q = false := by
  have pair (p q : Port) : Evaluated s ((t.retest p).retest q) D E A ∧ CcKept t ((t.retest p).retest q)
      ∧ ∀ r, ((t.retest p).retest q).gets r = false := by
    obtain ⟨one, cc, calls⟩ := h.unmoved ((retest_cases t p).2 (quiet p))
    obtain ⟨two, cc', calls'⟩ := one.unmoved ((retest_cases (t.retest p) q).2 ((gets_congr calls cc).trans (quiet q)))
    refine ⟨two, cc.trans cc', fun r => ?_⟩
    rw [gets_congr (t := t) (fun x => (calls' x).trans (calls x)) (cc.trans cc'), quiet]
  unfold State.retestWaiting
  split <;> exact pair _ _

end

end Sys2Proof.Machine
end

section
/-!
PROOFS. What a hand-over of P_min leaves of the calls (R30, R100 to R102), and the changes that come into force with one
(R18, R33, R34, R36, R102).
-/

namespace Sys2Proof.Machine

-- One proof at a time: the text is compiled as one, and each proof that waits for the others holds a thread.
set_option Elab.async false

/-! ## A hand-over of P_min -/

/-- What an evaluation reads of the calls is the same in both states. -/
structure SameCalls (s y : State) : Prop where
  call : ∀ p, y.call p = s.call p
  requested : y.requested = s.requested
  voice : ∀ p, y.faultRec (FaultId.voiceCapacity p) = s.faultRec (FaultId.voiceCapacity p)
  settings : y.settings = s.settings
  uptime : y.uptime = s.uptime

/-- P_min was handed over in `y`, whose calls are those of `s`, and `u` is what the evaluation has left. -/
structure HandedOver (s y u : State) : Prop where
  same : SameCalls s y
  done : Evaluated y u (fun p => y.askedDown y p) (fun p => y.releasedForRoom y p) (fun p => y.admittedToRoom y p)
  lastR : u.cc.lastR = 64 + y.bytesAfter y .a + y.bytesAfter y .b
  profile : u.effProfile = y.effProfile
  quiet : ∀ q, u.gets q = false

section
variable {s x y u : State}

theorem SameCalls.of_only {l : List Block} (h : Only l s y) (hc : Block.cc ∉ l := by decide) (hs : Block.ss ∉ l := by decide)
    (hf : Block.fs ∉ l := by decide) : SameCalls s y where
  call p := h.call p hc
  requested := requested_of_ss (h.ss hs)
  voice p := by
    rw [State.faultRec, h.fs hf]
    rfl
  settings := h.settings
  uptime := h.uptime

theorem SameCalls.modCc {f : CC → CC} (h : SameCalls s x) (recs : (f x.cc).recs = x.cc.recs) : SameCalls s (x.modCc f) where
  call p := by
    refine Eq.trans ?_ (h.call p)
    rw [State.call, State.call]
    exact congrArg (fun r => PerPort.get r p) recs
  requested := h.requested
  voice := h.voice
  settings := h.settings
  uptime := h.uptime

/-- P_min of both directions as the tables and the agreed width give it. -/
def State.pMinTaken (x : State) : State := x.modCc fun c => { c with pDown := x.pMinDown, pUp := x.pMinUp }

theorem handed_handPMin (h : SameCalls s x) : HandedOver s x.pMinTaken x.handPMin := by
  obtain ⟨done, lastR, quiet⟩ := evaluateCapacity_evaluated x.pMinTaken
  have only := only_evaluateCapacity x.pMinTaken
  refine ⟨h.modCc rfl, done, lastR, ?_, quiet⟩
  change x.pMinTaken.evaluateCapacity.effProfile = _
  rw [State.effProfile, State.effProfile, only.sup (by decide), only.le (by decide)]

theorem HandedOver.pDown (h : HandedOver s x.pMinTaken u) : u.cc.pDown = x.pMinDown := h.done.pDown

theorem HandedOver.pUp (h : HandedOver s x.pMinTaken u) : u.cc.pUp = x.pMinUp := h.done.pUp

/-- Later updates elsewhere. -/
theorem HandedOver.still {l : List Block} {v : State} (h : HandedOver s y u) (only : Only l u v) (profile : v.effProfile = u.effProfile)
    (hc : Block.cc ∉ l := by decide) (hp : Block.ports ∉ l := by decide) (hf : Block.fs ∉ l := by decide)
    (hs : Block.ss ∉ l := by decide) (hu : Block.sup ∉ l := by decide) : HandedOver s y v := by
  have cc := only.cc hc
  refine ⟨h.same, ?_, (congrArg CC.lastR cc).trans h.lastR, profile.trans h.profile, fun q => ?_⟩
  · exact h.done.still only (by rw [cc]; exact ⟨rfl, rfl, rfl⟩) (fun p => only.call p hc) (only.ports hp) (only.fs hf)
      (only.ss hs) hu
  · rw [gets_congr (fun p => only.call p hc) (.of_cc cc), h.quiet]

theorem HandedOver.modTt (h : HandedOver s y u) (f : Tables → Tables) : HandedOver s y (u.modTt f) := h.still (only_modTt u f) rfl

theorem HandedOver.retested (h : HandedOver s y u) : HandedOver s y u.retestWaiting := by
  obtain ⟨done, cc, quiet⟩ := h.done.retestQuiet h.quiet
  refine ⟨h.same, done, cc.lastR.trans h.lastR, ?_, quiet⟩
  have only := only_retestWaiting u
  rw [State.effProfile, only.sup (by decide), only.le (by decide)]
  exact h.profile

/-! ## The statement's words after the hand-over -/

variable (h : HandedOver s y u)
include h

theorem HandedOver.newer (p : Port) : s.newerCall p = y.newerCall p :=
  (newerCall_congr (fun q => by rw [h.same.call]) fun q => by rw [h.same.call]).symm

theorem HandedOver.asked (p : Port) : s.askedDown u p = y.askedDown y p := by
  simp only [State.askedDown, h.done.fits, h.profile, h.same.call, h.newer]

theorem HandedOver.released (p : Port) : s.releasedForRoom u p = y.releasedForRoom y p := by
  simp only [State.releasedForRoom, State.bytesAsked, h.done.fits, h.asked, h.same.call, h.newer]

theorem HandedOver.after (p : Port) : s.bytesAfter u p = y.bytesAfter y p := by
  simp only [State.bytesAfter, State.bytesAsked, h.released, h.asked, h.same.call]

theorem HandedOver.admitted (p : Port) : s.admittedToRoom u p = y.admittedToRoom y p := by
  simp only [State.admittedToRoom, h.done.fits, h.released, h.after, h.same.call]

theorem HandedOver.asks {k : TxKind} (p : Port) : s.capacityRequest k p = y.capacityRequest k p :=
  (capacityRequest_congr (by rw [h.same.call]) (by rw [h.same.call])).symm

omit h in
/-- An admitted call waited, so it carried no slot and was not released. -/
theorem admittedToRoom_alone {p : Port} (ha : y.admittedToRoom y p = true) :
    y.askedDown y p = false ∧ y.releasedForRoom y p = false := by
  rw [admittedToRoom_eq, Bool.and_eq_true, Bool.and_eq_true] at ha
  obtain ⟨⟨waits, state⟩, -⟩ := ha
  rw [State.stillWaits, Bool.and_eq_true, Bool.not_eq_true'] at waits
  refine ⟨?_, waits.2⟩
  cases hd : y.askedDown y p with
  | false => rfl
  | true =>
    have slot := askedDown_slot hd
    obtain ⟨wait, -⟩ := waits
    simp only [CallRec.admissible] at state
    simp only [CallRec.slot] at slot
    cases hst : (y.call p).state <;> simp_all

theorem HandedOver.callsEvaluated : s.callsEvaluated u := by
  have voice (p : Port) (hr : s.releasedForRoom u p = true) :=
    h.done.told p ((h.released p).symm.trans hr)
  have setting (p : Port) : y.faultSetting (FaultId.voiceCapacity p) = s.faultSetting (FaultId.voiceCapacity p) := by
    rw [State.faultSetting, h.same.settings]
    rfl
  have plain (p : Port) (ha : s.admittedToRoom u p = false) :
      u.call p = (s.call p).evaluated (s.askedDown u p) (s.releasedForRoom u p) := by
    rw [h.done.call p ((h.admitted p).symm.trans ha), h.same.call, h.asked, h.released]
  have alone (p : Port) (ha : s.admittedToRoom u p = true) :
      s.askedDown u p = false ∧ s.releasedForRoom u p = false := by
    rw [h.asked, h.released]
    exact admittedToRoom_alone ((h.admitted p).symm.trans ha)
  refine ⟨?_, ?_⟩
  · rintro p r rfl
    refine ⟨fun hr => ⟨?_, ?_⟩, fun hr hd => ?_, fun ha => ?_, fun hr hd ha => ?_, fun hr => ?_, fun hr hp hs => ?_, ?_⟩
    · have ha : s.admittedToRoom u p = false := by
        cases ha : s.admittedToRoom u p with
        | false => rfl
        | true =>
          rw [(alone p ha).2] at hr
          exact absurd hr (by simp)
      rw [plain p ha, hr]
      rfl
    · exact h.done.bell p ((h.released p).symm.trans hr)
    · have ha : s.admittedToRoom u p = false := by
        cases ha : s.admittedToRoom u p with
        | false => rfl
        | true =>
          rw [(alone p ha).1] at hd
          exact absurd hd (by simp)
      rw [plain p ha, hr, hd]
      rfl
    · obtain ⟨k, call⟩ := h.done.roomed p ((h.admitted p).symm.trans ha)
      rw [h.same.call, ← h.done.custody, ← h.done.sup] at call
      exact ⟨k, call⟩
    · rw [plain p ha, hr, hd]
      rfl
    · exact (h.done.kept p ((h.released p).symm.trans hr)).trans (h.same.voice p)
    · have told := (voice p hr).silent
      rw [setting, h.same.voice] at told
      exact told hp hs
    · rintro q rfl hr hp hs
      have told := (voice p hr).raised
      rw [setting, h.same.voice, h.same.uptime] at told
      obtain ⟨record, e, he, rest⟩ := told hp hs
      exact ⟨record, e, mem_of_newest he, rest⟩
  · rw [h.lastR, h.after, h.after]

theorem HandedOver.capacityTaken : s.capacityTaken u := by
  refine ⟨h.callsEvaluated, ?_⟩
  obtain ⟨new, hnew, nodup, mem⟩ := h.done.asks
  refine ⟨new, by rw [hnew, h.same.requested], nodup, fun q => (mem q).trans ⟨?_, ?_⟩⟩
  · rintro ⟨k, p, hk, rfl⟩
    refine ⟨p, ?_⟩
    rw [← h.asks, h.asked, h.released, h.admitted]
    cases k with
    | coding => exact .inl ⟨hk, rfl⟩
    | release => exact .inr (.inl ⟨hk, rfl⟩)
    | seize =>
      simp only [State.capacityWants, Bool.and_eq_true, beq_iff_eq, h.same.call] at hk
      exact .inr (.inr ⟨hk.1, hk.2, rfl⟩)
    | _ => exact absurd hk (by simp [State.capacityWants])
  · rintro ⟨p, ⟨hd, rfl⟩ | ⟨hr, rfl⟩ | ⟨ha, hs, rfl⟩⟩
    · exact ⟨.coding, p, (h.asked p).symm.trans hd, h.asks p⟩
    · exact ⟨.release, p, (h.released p).symm.trans hr, h.asks p⟩
    · refine ⟨.seize, p, ?_, h.asks p⟩
      simp only [State.capacityWants, Bool.and_eq_true, beq_iff_eq, h.same.call]
      exact ⟨(h.admitted p).symm.trans ha, hs⟩

end

/-! ## Changes that end with a hand-over (R33, R34, R36) -/

section
variable {s x y u : State}

/-- What R38's test of a need leaves besides the calls. -/
theorem needMet_spec (u : State) : (∃ n, u.needMet.tt = { u.tt with needProgress := n })
    ∧ Only [.tt, .cc, .plk, .ports, .ss] u u.needMet := by
  have same : u.tt = { u.tt with needProgress := u.tt.needProgress } := rfl
  unfold State.needMet
  split
  · split
    · have only := only_retestWaiting (u.modTt fun t => { t with needProgress := none })
      refine ⟨⟨none, ?_⟩, .seq (only_modTt u _) only⟩
      rw [only.tt (by decide)]
      rfl
    · exact ⟨⟨_, same⟩, .refl _ u⟩
  · exact ⟨⟨_, same⟩, .refl _ u⟩

theorem HandedOver.needMet (h : HandedOver s y u) : HandedOver s y u.needMet := by
  unfold State.needMet
  split
  · split
    · exact (h.modTt _).retested
    · exact h
  · exact h

/-- An exec that acts in service at its superframe. -/
theorem atSuperframe (hin : s.le.link = .inService) : (s.inService && s.le.sf == s.le.sf) = true := by
  simp [State.inService, hin]

/-- A change in flight applied, with nothing waiting behind it. -/
def State.applied (u : State) : State :=
  u.modTt fun t => { t with inFlight := .none, lastResult := .applied, waitingRate := none }

theorem applied_tt (u : State) :
    u.applied.tt = { u.tt with inFlight := .none, lastResult := .applied, waitingRate := none } := rfl

theorem only_applied (u : State) : Only [.tt] u u.applied := only_modTt u _

theorem HandedOver.applied (h : HandedOver s y u) : HandedOver s y u.applied := h.modTt _

theorem changeEnded_applied (h : u.tt.waitingRate = none) : u.changeEnded .applied = u.applied := changeEnded_idle _ h

/-- The swap made (R33). -/
def State.swapMade (s : State) (d r : Nat) : State :=
  s.modTt fun t =>
    { t with down := swapBits d r t.down, lowCounts := clearCounts d r t.lowCounts, lastSwap := some s.le.sf }

theorem only_swapMade (s : State) (d r : Nat) : Only [.tt] s (s.swapMade d r) := only_modTt s _

theorem swapMade_tt (s : State) (d r : Nat) : (s.swapMade d r).tt = { s.tt with
    down := swapBits d r s.tt.down, lowCounts := clearCounts d r s.tt.lowCounts, lastSwap := some s.le.sf } := rfl

/-- P_min of tables and agreed width (R30). -/
theorem pMin_eq (x : State) : x.pMinDown = (x.tt.down.map (·.b)).sum * (39 - x.agreedWidth) / 8
    ∧ x.pMinUp = (x.tt.up.map (·.b)).sum * (39 - x.agreedWidth) / 8 := ⟨rfl, rfl⟩

theorem agreedWidth_of_ft (h : x.ft = s.ft) : x.agreedWidth = s.agreedWidth := by
  rw [State.agreedWidth, h]
  rfl

theorem swapApply_runs (hd : s.dormant = false) (hin : s.le.link = .inService) {d r : Nat} {n : Option Nat}
    (hf : s.tt.inFlight = .swap d r n (some s.le.sf)) :
    exec .swapApply s = .next ((s.swapMade d r).handPMin.changeEnded .applied).settle := by
  refine congrArg _ ((live_awake s _ hd).trans (congrArg _ ?_))
  rw [hf]
  exact if_pos (atSuperframe hin)

theorem swapApply_applies (hd : s.dormant = false) (hin : s.le.link = .inService) (d r : Nat) (n : Option Nat)
    (hf : s.tt.inFlight = .swap d r n (some s.le.sf)) (hw : s.tt.waitingRate = none) :
    ∃ u : State, exec .swapApply s = .next u.settle
      ∧ u.tt.down = (s.tt.down.zipIdx.map fun x =>
          if x.2 + 32 = d then { x.1 with b := x.1.b - 1 }
          else if x.2 + 32 = r then { x.1 with b := x.1.b + 1 } else x.1)
      ∧ u.tt.lastSwap = some s.le.sf ∧ u.tt.inFlight = .none ∧ u.tt.lastResult = .applied
      ∧ u.tt.up = s.tt.up ∧ u.tt.maskInForce = s.tt.maskInForce
      ∧ u.cc.pDown = (u.tt.down.map (·.b)).sum * (39 - s.agreedWidth) / 8
      ∧ u.cc.pUp = (s.tt.up.map (·.b)).sum * (39 - s.agreedWidth) / 8 ∧ s.capacityTaken u
      ∧ u.settings = s.settings ∧ u.sts = s.sts ∧ u.sup.mode = s.sup.mode ∧ u.mu.accounts = s.mu.accounts := by
  have run := swapApply_runs hd hin hf
  generalize hx : s.swapMade d r = x at run
  have before : Only [.tt] s x := hx ▸ only_swapMade s d r
  have tables : x.tt = { s.tt with
      down := swapBits d r s.tt.down, lowCounts := clearCounts d r s.tt.lowCounts, lastSwap := some s.le.sf } := by
    rw [← hx, swapMade_tt]
  have kept : x.handPMin.tt = x.tt := (only_handPMin x).tt (by decide)
  rw [changeEnded_applied (by rw [kept, tables]; exact hw)] at run
  have ended := (handed_handPMin (.of_only before)).applied
  have only : Only [.tt, .cc, .plk, .ports, .ss, .fs] s x.handPMin.applied :=
    .seq (n := [.tt, .cc, .plk, .ports, .ss, .fs]) (.seq (n := [.tt, .cc, .plk, .ports, .ss, .fs]) before (only_handPMin x))
      (only_applied _)
  refine ⟨_, run, ?_⟩
  rw [ended.pDown, ended.pUp, (pMin_eq x).1, (pMin_eq x).2, agreedWidth_of_ft (before.ft (by decide)), applied_tt, kept,
    tables, only.sup (by decide), only.mu (by decide)]
  exact ⟨rfl, rfl, rfl, rfl, rfl, rfl, rfl, rfl, ended.capacityTaken, only.settings, only.sts, rfl, rfl⟩

/-- The RATE's table, mask and level taken (R34). -/
def State.rateMade (s : State) (m : RateMsg) : State :=
  ((s.modTt fun t =>
    { t with down := setBits t.down m.bits, lowCounts := Reset.tables.lowCounts, upshift := 0
             needProgress := t.needProgress.map fun n => { n with rate := true } }).setMaskInForce m.mask).modLe
    fun x => { x with level := m.level }

theorem only_rateMade (s : State) (m : RateMsg) : Only [.tt, .le] s (s.rateMade m) :=
  .seq (l := [.tt]) (.trans (only_modTt s _) (only_setMaskInForce _ _)) (only_modLe _ _)

theorem rateMade_tt (s : State) (m : RateMsg) : (s.rateMade m).tt = { s.tt with
    maskInForce := m.mask, down := List.zipWith (fun t k => { t with masked := k }) (setBits s.tt.down m.bits) m.mask
    lowCounts := List.replicate 224 0, upshift := 0
    needProgress := s.tt.needProgress.map fun n => { n with rate := true } } := rfl

theorem rateMade_level (s : State) (m : RateMsg) : (s.rateMade m).le.level = m.level := rfl

theorem rateApply_runs (hd : s.dormant = false) (hin : s.le.link = .inService) {m : RateMsg} {n : Option Nat}
    (hf : s.tt.inFlight = .rate m n (some s.le.sf)) (hw : s.tt.waitingRate = none) :
    exec .rateApply s = .next ((s.rateMade m).handPMin.changeEnded .applied).needMet.settle := by
  have taken : s.applyRate m = ((s.rateMade m).handPMin.changeEnded .applied).needMet := by
    unfold State.applyRate
    rw [hw]
    rfl
  refine congrArg _ ((live_awake s _ hd).trans (congrArg _ ?_))
  rw [hf, ← taken]
  exact if_pos (atSuperframe hin)

theorem rateApply_applies (hd : s.dormant = false) (hin : s.le.link = .inService) (m : RateMsg) (n : Option Nat)
    (hf : s.tt.inFlight = .rate m n (some s.le.sf)) (hw : s.tt.waitingRate = none) :
    ∃ u : State, exec .rateApply s = .next u.settle
      ∧ u.tt.down = List.zipWith (fun (t : ToneRec) k => { t with masked := k })
          (List.zipWith (fun (t : ToneRec) b => { t with b := b }) s.tt.down m.bits) m.mask
      ∧ u.tt.maskInForce = m.mask ∧ u.le.level = m.level ∧ u.tt.inFlight = .none ∧ u.tt.lastResult = .applied
      ∧ u.tt.upshift = 0 ∧ u.tt.lowCounts = List.replicate 224 0 ∧ u.tt.up = s.tt.up
      ∧ u.cc.pDown = (u.tt.down.map (·.b)).sum * (39 - s.agreedWidth) / 8
      ∧ u.cc.pUp = (s.tt.up.map (·.b)).sum * (39 - s.agreedWidth) / 8 ∧ s.capacityTaken u
      ∧ u.settings = s.settings ∧ u.sts = s.sts ∧ u.sup.mode = s.sup.mode ∧ u.mu.accounts = s.mu.accounts := by
  have run := rateApply_runs hd hin hf hw
  have level := rateMade_level s m
  have tables := rateMade_tt s m
  have before := only_rateMade s m
  generalize s.rateMade m = x at run level tables before
  have kept : x.handPMin.tt = x.tt := (only_handPMin x).tt (by decide)
  rw [changeEnded_applied (by rw [kept, tables]; exact hw)] at run
  have ended := (handed_handPMin (.of_only before)).applied
  obtain ⟨⟨k, need⟩, after⟩ := needMet_spec x.handPMin.applied
  have only : Only [.tt, .le, .cc, .plk, .ports, .ss, .fs] s x.handPMin.applied.needMet :=
    .seq (l := [.tt, .le, .cc, .plk, .ports, .ss, .fs]) (.seq before (.seq (n := [.tt, .cc, .plk, .ports, .ss, .fs])
      (only_handPMin x) (only_applied _))) after
  refine ⟨_, run, ?_⟩
  rw [ended.needMet.pDown, ended.needMet.pUp, (pMin_eq x).1, (pMin_eq x).2, agreedWidth_of_ft (before.ft (by decide)),
    need, applied_tt, kept, tables, after.le (by decide), (only_applied _).le (by decide),
    (only_handPMin x).le (by decide), level, only.sup (by decide), only.mu (by decide)]
  exact ⟨rfl, rfl, rfl, rfl, rfl, rfl, rfl, rfl, rfl, rfl, ended.needMet.capacityTaken, only.settings, only.sts, rfl, rfl⟩

end

/-! ## A profile in force and an upstream table (R17, R18, R36) -/

section
variable {s x y u : State}

theorem setInForce_le (s : State) (p : Profile) : (s.setInForce p).le = { s.le with inForce := p } := by
  unfold State.setInForce
  dsimp only
  rw [State.raiseIf_le]
  split <;> rfl

/-- Leaving LIFELINE ends its need (R38). -/
theorem setInForce_tt (s : State) (p : Profile) : (s.setInForce p).tt =
    if s.le.inForce = .lifeline ∧ p ≠ .lifeline then { s.tt with needSent := none, needProgress := none } else s.tt := by
  unfold State.setInForce
  dsimp only
  rw [State.raiseIf_tt]
  by_cases h : s.le.inForce = .lifeline ∧ p ≠ .lifeline
  · rw [if_pos h, if_pos (by simpa using h)]
    rfl
  · rw [if_neg h, if_neg (by simpa using h)]
    rfl

theorem setInForce_tables (s : State) (p : Profile) : ∃ a b,
    (s.setInForce p).tt = { s.tt with needSent := a, needProgress := b } := by
  rw [setInForce_tt]
  split
  · exact ⟨_, _, rfl⟩
  · exact ⟨_, _, rfl⟩

theorem only_setInForce (s : State) (p : Profile) : Only [.le, .tt, .plk] s (s.setInForce p) := by
  unfold State.setInForce
  exact .seq (l := [.le, .tt])
    (.seq (only_modLe s _) (.ite (l := [.tt]) (fun _ => only_modTt _ _) fun _ => .refl _ _)) (only_raiseIf _ _ _)

/-- The accepted UP_TABLE taken (R36). -/
def State.upTaken (s : State) (c : UpChange) : State :=
  s.modTt fun t =>
    { t with up := c.table, cap := c.cap, upWaiting := none
             needProgress := t.needProgress.map fun n => { n with up := n.up || decide (n.old ≠ some c), old := none } }

/-- With the cap of a pending profile it brings that profile into force (R36). -/
def State.upMade (s : State) (c : UpChange) : State :=
  match (s.upTaken c).le.pending with
  | some p =>
    if Profile.cap p.profile = c.cap then ((s.upTaken c).modLe fun x => { x with pending := none }).setInForce p.profile
    else s.upTaken c
  | none => s.upTaken c

theorem applyUp_eq (s : State) (c : UpChange) : s.applyUp c = (s.upMade c).handPMin.needMet := by
  unfold State.applyUp State.upMade
  rfl

theorem only_upMade (s : State) (c : UpChange) : Only [.le, .tt, .plk] s (s.upMade c) := by
  have taken : Only [.tt] s (s.upTaken c) := only_modTt s _
  unfold State.upMade
  split
  · exact .ite (fun _ => .seq (l := [.tt, .le]) (.seq taken (only_modLe _ _)) (only_setInForce _ _)) fun _ => taken.within
  · exact taken.within

theorem upMade_tables (s : State) (c : UpChange) : ∃ a b, (s.upMade c).tt = { s.tt with
    up := c.table, cap := c.cap, upWaiting := none, needSent := a, needProgress := b } := by
  unfold State.upMade
  split
  · split
    · obtain ⟨a, b, e⟩ := setInForce_tables ((s.upTaken c).modLe fun x => { x with pending := none }) _
      exact ⟨a, b, e⟩
    · exact ⟨_, _, rfl⟩
  · exact ⟨_, _, rfl⟩

theorem upMade_profile (s : State) (c : UpChange) :
    (∀ p timer, s.le.pending = some ⟨p, timer⟩ → Profile.cap p = c.cap →
      (s.upMade c).le.pending = none ∧ (s.upMade c).le.inForce = p)
    ∧ (s.le.pending = none → (s.upMade c).le.inForce = s.le.inForce) := by
  have same : (s.upTaken c).le = s.le := rfl
  refine ⟨fun p timer hp hc => ?_, fun hp => ?_⟩
  · unfold State.upMade
    rw [same, hp]
    dsimp only
    rw [if_pos hc, setInForce_le]
    exact ⟨rfl, rfl⟩
  · unfold State.upMade
    rw [same, hp]
    rfl

theorem upTableApply_applies (hd : s.dormant = false) (hin : s.le.link = .inService) (t : List ToneRec) (cap : Nat)
    (hw : s.tt.upWaiting = some ⟨t, s.le.sf, cap⟩) :
    ∃ u : State, exec .upTableApply s = .next u.settle
      ∧ u.tt.up = t ∧ u.tt.cap = cap ∧ u.tt.upWaiting = none ∧ u.tt.down = s.tt.down
      ∧ (∀ p timer, s.le.pending = some ⟨p, timer⟩ → Profile.cap p = cap → u.le.pending = none ∧ u.le.inForce = p)
      ∧ (s.le.pending = none → u.le.inForce = s.le.inForce)
      ∧ u.cc.pUp = (t.map (·.b)).sum * (39 - s.agreedWidth) / 8
      ∧ u.cc.pDown = (s.tt.down.map (·.b)).sum * (39 - s.agreedWidth) / 8 ∧ s.capacityTaken u
      ∧ u.settings = s.settings ∧ u.sts = s.sts ∧ u.sup.mode = s.sup.mode ∧ u.mu.accounts = s.mu.accounts := by
  have run : exec .upTableApply s = .next (s.upMade ⟨t, s.le.sf, cap⟩).handPMin.needMet.settle := by
    refine congrArg _ ((live_awake s _ hd).trans (congrArg _ ?_))
    rw [hw, ← applyUp_eq]
    exact if_pos (atSuperframe hin)
  obtain ⟨a, b, tables⟩ := upMade_tables s ⟨t, s.le.sf, cap⟩
  obtain ⟨pending, plain⟩ := upMade_profile s ⟨t, s.le.sf, cap⟩
  have before := only_upMade s ⟨t, s.le.sf, cap⟩
  generalize s.upMade ⟨t, s.le.sf, cap⟩ = x at run tables pending plain before
  have handed : HandedOver s x.pMinTaken x.handPMin := handed_handPMin (.of_only before)
  obtain ⟨⟨k, need⟩, after⟩ := needMet_spec x.handPMin
  have hand := only_handPMin x
  have only : Only [.tt, .le, .cc, .plk, .ports, .ss, .fs] s x.handPMin.needMet :=
    .seq (l := [.tt, .le, .cc, .plk, .ports, .ss, .fs]) (.seq before hand) after
  refine ⟨_, run, ?_⟩
  rw [handed.needMet.pDown, handed.needMet.pUp, (pMin_eq x).1, (pMin_eq x).2, agreedWidth_of_ft (before.ft (by decide)),
    need, hand.tt (by decide), tables, after.le (by decide), hand.le (by decide), only.sup (by decide),
    only.mu (by decide)]
  exact ⟨rfl, rfl, rfl, rfl, pending, plain, rfl, rfl, handed.needMet.capacityTaken, only.settings, only.sts, rfl, rfl⟩

/-! ## A downgrade and a profile -/

theorem codingApply_applies (hd : s.dormant = false) (hin : s.le.link = .inService) (p : Port)
    (hw : (s.call p).downgrade = some ⟨some s.le.sf⟩) :
    exec (.codingApply p) s =
      .next (s.updCall p fun r => { r with coding := some .reduced, downgrade := none }).settle := by
  refine congrArg _ ((live_awake s _ hd).trans (congrArg _ ?_))
  rw [hw]
  exact if_pos (atSuperframe hin)

theorem profileTimerExpiry_enters (hd : s.dormant = false) (hin : s.le.link = .inService) {p : Profile} {t : Nat}
    (hp : s.le.pending = some ⟨p, some t⟩)
    (hc : overCap (Profile.cap p) (Profile.upBudget p) (s.tt.up.map (·.b)) = false) :
    exec .profileTimerExpiry s = .next ((s.modLe fun x => { x with pending := none }).setInForce p).settle := by
  refine congrArg _ ((live_awake s _ hd).trans (congrArg _ ?_))
  rw [hp]
  dsimp only
  rw [if_pos (by simp [State.inService, hin]), hc]
  rfl

/-! ## Before its superframe -/

theorem swapApply_early (hd : s.dormant = false) (d r : Nat) (n : Option Nat) (e : Sf)
    (hf : s.tt.inFlight = .swap d r n (some e)) (he : e ≠ s.le.sf) : exec .swapApply s = .next s.settle := by
  refine congrArg _ ((live_awake s _ hd).trans (congrArg _ ?_))
  rw [hf]
  exact if_neg (by simp [he])

theorem rateApply_early (hd : s.dormant = false) (m : RateMsg) (n : Option Nat) (e : Sf)
    (hf : s.tt.inFlight = .rate m n (some e)) (he : e ≠ s.le.sf) : exec .rateApply s = .next s.settle := by
  refine congrArg _ ((live_awake s _ hd).trans (congrArg _ ?_))
  rw [hf]
  exact if_neg (by simp [he])

theorem upTableApply_early (hd : s.dormant = false) (c : UpChange) (hw : s.tt.upWaiting = some c)
    (he : c.seff ≠ s.le.sf) : exec .upTableApply s = .next s.settle := by
  refine congrArg _ ((live_awake s _ hd).trans (congrArg _ ?_))
  rw [hw]
  exact if_neg (by simp [he])

theorem codingApply_idle (hd : s.dormant = false) (p : Port) (hw : (s.call p).downgrade = none) :
    exec (.codingApply p) s = .next s.settle := by
  refine congrArg _ ((live_awake s _ hd).trans (congrArg _ ?_))
  rw [hw]

end

/-- Settles O40, by the hand-over of P_min that follows each change (`HandedOver`): the change itself is read off its
tables, and the calls are as the evaluation leaves them. -/
theorem changesApply : Obligations.ChangesApply := by
  refine ⟨fun s hd hin => ⟨swapApply_applies hd hin, rateApply_applies hd hin, upTableApply_applies hd hin,
    fun p hw => ?_, swapApply_early hd, rateApply_early hd, upTableApply_early hd, codingApply_idle hd⟩,
    fun p t s hd hin hp hc => ?_⟩
  · refine ⟨_, codingApply_applies hd hin p hw, call_updCall s p _, call_updCall_other s p _, ?_⟩
    have only := only_updCall s p fun r => { r with coding := some .reduced, downgrade := none }
    exact ⟨only.le (by decide), only.tt (by decide), only.ft (by decide), only.ss (by decide), updCall_ports s p _ rfl,
      only.mu (by decide), only.sup (by decide), only.tu (by decide), only.fs (by decide), only.sts, only.settings⟩
  · refine ⟨_, profileTimerExpiry_enters hd hin hp hc, ?_⟩
    have only : Only [.le, .tt, .plk] s ((s.modLe fun x => { x with pending := none }).setInForce p) :=
      .seq (only_modLe s _) (only_setInForce _ _)
    refine ⟨setInForce_le _ _, fun h => ?_, fun h hp => ?_, only.ft (by decide), only.ss (by decide),
      only.ports (by decide), only.cc (by decide), only.mu (by decide), only.sup (by decide), only.tu (by decide),
      only.fs (by decide), only.sts, only.settings⟩
    · rw [setInForce_tt]
      refine if_neg fun hn => ?_
      rcases h with h | h
      · exact h hn.1
      · exact hn.2 h
    · rw [setInForce_tt]
      exact if_pos ⟨h, hp⟩

end Sys2Proof.Machine
end

section
/-!
PROOFS. Entry to service (R8) and the agreement on windows (R49 to R51), each with its hand-over of P_min (R30).
-/

namespace Sys2Proof.Machine

-- One proof at a time: the text is compiled as one, and each proof that waits for the others holds a thread.
set_option Elab.async false

/-! ## The agreement (R49 to R51) -/

section
variable {s x u : State}

/-- A change of the agreement hands P_min on where the agreed width changes, and only there. -/
theorem widthChanged_spec (s : State) (f : FT → FT) :
    ((s.ftUpd f).widthChanged s.agreedWidth).ft = f s.ft
    ∧ ((s.ftUpd f).agreedWidth = s.agreedWidth → ((s.ftUpd f).widthChanged s.agreedWidth).cc = s.cc)
    ∧ ((s.ftUpd f).agreedWidth ≠ s.agreedWidth →
      ((s.ftUpd f).widthChanged s.agreedWidth).cc.pDown =
          (s.tt.down.map (·.b)).sum * (39 - (s.ftUpd f).agreedWidth) / 8
      ∧ ((s.ftUpd f).widthChanged s.agreedWidth).cc.pUp =
          (s.tt.up.map (·.b)).sum * (39 - (s.ftUpd f).agreedWidth) / 8
      ∧ s.capacityTaken ((s.ftUpd f).widthChanged s.agreedWidth))
    ∧ Only [.ft, .plk, .cc, .ports, .ss, .fs] s ((s.ftUpd f).widthChanged s.agreedWidth) := by
  have before := only_ftUpd s f
  have ft := ftUpd_ft s f
  generalize s.ftUpd f = x at before ft
  have after := only_widthChanged x s.agreedWidth
  refine ⟨(after.ft (by decide)).trans ft, fun h => ?_, fun h => ?_, .seq before after⟩
  · rw [State.widthChanged, if_pos h, before.cc (by decide)]
  · have handed : HandedOver s x.pMinTaken x.handPMin := handed_handPMin (.of_only before)
    rw [State.widthChanged, if_neg h, handed.pDown, handed.pUp, (pMin_eq x).1, (pMin_eq x).2, before.tt (by decide)]
    exact ⟨rfl, rfl, handed.capacityTaken⟩

theorem agreedWidth_none (h : s.ft.agreement = none) : s.agreedWidth = 0 := by
  rw [State.agreedWidth, h]

theorem agreedWidth_some {a : Agreement} (h : s.ft.agreement = some a) :
    s.agreedWidth = if a.active then a.cur.width else 0 := by
  rw [State.agreedWidth, h]

theorem beforeEnd_of {anchor : Sf} {e : Option Sf} (h : ∀ x, e = some x → ahead x anchor = true) :
    beforeEnd anchor e = true := by
  cases e with
  | none => rfl
  | some x => exact h x rfl

/-- A state with the agreement changed, and what its hand-over leaves. -/
def State.agreeing (s : State) (a : Option Agreement) : State :=
  (s.ftUpd fun x => { x with agreement := a }).widthChanged s.agreedWidth

/-- A changed agreement, by the width that is agreed with it. -/
theorem agreeing_spec (a : Option Agreement) {w : Nat} (hw : ∀ t : State, t.ft.agreement = a → t.agreedWidth = w) :
    (s.agreeing a).ft = { s.ft with agreement := a } ∧ (s.agreeing a).agreedWidth = w
    ∧ (w = s.agreedWidth → (s.agreeing a).cc = s.cc)
    ∧ (w ≠ s.agreedWidth → (s.agreeing a).cc.pDown = (s.tt.down.map (·.b)).sum * (39 - w) / 8
      ∧ (s.agreeing a).cc.pUp = (s.tt.up.map (·.b)).sum * (39 - w) / 8 ∧ s.capacityTaken (s.agreeing a))
    ∧ (s.agreeing a).tt = s.tt ∧ (s.agreeing a).le = s.le ∧ (s.agreeing a).mu = s.mu ∧ (s.agreeing a).sup = s.sup
    ∧ (s.agreeing a).settings = s.settings ∧ (s.agreeing a).sts = s.sts := by
  have spec := widthChanged_spec s fun x => { x with agreement := a }
  rw [hw (s.ftUpd fun x => { x with agreement := a }) (by rw [ftUpd_ft])] at spec
  obtain ⟨ft, still, moved, only⟩ := spec
  exact ⟨ft, hw _ (congrArg FT.agreement ft), still, moved, only.tt (by decide), only.le (by decide),
    only.mu (by decide), only.sup (by decide), only.settings, only.sts⟩

variable (hd : s.dormant = false)
include hd

theorem agreementInForce_acts {a : Agreement} (ha : s.ft.agreement = some a) (hin : s.le.link = .inService)
    (hn : a.active = false) (hs : a.cur.anchor = s.le.sf) (he : ∀ e, a.endSf = some e → ahead e a.cur.anchor = true) :
    exec .agreementInForce s = .next (s.agreeing (some { a with active := true })).settle := by
  refine congrArg _ ((live_awake s _ hd).trans (congrArg _ ?_))
  have ends := beforeEnd_of he
  rw [hs] at ends
  rw [ha]
  exact if_pos (by simp [State.inService, hin, hn, hs, ends])

theorem replacementInForce_acts {a : Agreement} {c : Sched} (ha : s.ft.agreement = some a) (hin : s.le.link = .inService)
    (hr : a.repl = some c) (hs : c.anchor = s.le.sf) (he : ∀ e, a.endSf = some e → ahead e c.anchor = true) :
    exec .replacementInForce s = .next (s.agreeing (some { a with cur := c, repl := none })).settle := by
  refine congrArg _ ((live_awake s _ hd).trans (congrArg _ ?_))
  have ends := beforeEnd_of he
  rw [hs] at ends
  rw [ha]
  dsimp only
  rw [hr]
  exact if_pos (by simp [State.inService, hin, hs, ends])

theorem agreementEnd_acts {a : Agreement} (ha : s.ft.agreement = some a) (hin : s.le.link = .inService)
    (he : a.endSf = some s.le.sf) : exec .agreementEnd s = .next (s.agreeing none).settle := by
  refine congrArg _ ((live_awake s _ hd).trans (congrArg _ ?_))
  rw [ha]
  exact if_pos (by simp [State.inService, hin, he])

theorem agreementInForce_idle {a : Agreement} (ha : s.ft.agreement = some a) (h : s.le.link ≠ .inService ∨ a.active = true
    ∨ a.cur.anchor ≠ s.le.sf ∨ ∃ e, a.endSf = some e ∧ ahead e a.cur.anchor = false) :
    exec .agreementInForce s = .next s.settle := by
  refine congrArg _ ((live_awake s _ hd).trans (congrArg _ ?_))
  rw [ha]
  refine if_neg ?_
  rcases h with h | h | h | ⟨e, he, h⟩
  · simp [State.inService, h]
  · simp [h]
  · simp [h]
  · simp [beforeEnd, he, h]

theorem replacementInForce_idle {a : Agreement} (ha : s.ft.agreement = some a) (h : s.le.link ≠ .inService ∨ a.repl = none
    ∨ ∃ c, a.repl = some c ∧ (c.anchor ≠ s.le.sf ∨ ∃ e, a.endSf = some e ∧ ahead e c.anchor = false)) :
    exec .replacementInForce s = .next s.settle := by
  refine congrArg _ ((live_awake s _ hd).trans (congrArg _ ?_))
  rw [ha]
  dsimp only
  split
  · rename_i c hc
    refine if_neg ?_
    rcases h with h | h | ⟨d, hr, h | ⟨e, he, h⟩⟩
    · simp [State.inService, h]
    · simp [hc] at h
    · obtain rfl : c = d := Option.some.inj (hc.symm.trans hr)
      simp [h]
    · obtain rfl : c = d := Option.some.inj (hc.symm.trans hr)
      simp [beforeEnd, he, h]
  · rfl

theorem agreementEnd_idle {a : Agreement} (ha : s.ft.agreement = some a)
    (h : s.le.link ≠ .inService ∨ a.endSf ≠ some s.le.sf) : exec .agreementEnd s = .next s.settle := by
  refine congrArg _ ((live_awake s _ hd).trans (congrArg _ ?_))
  rw [ha]
  refine if_neg ?_
  rcases h with h | h
  · simp [State.inService, h]
  · simp [h]

theorem agreement_absent (ha : s.ft.agreement = none) : exec .agreementInForce s = .next s.settle
    ∧ exec .replacementInForce s = .next s.settle ∧ exec .agreementEnd s = .next s.settle := by
  refine ⟨?_, ?_, ?_⟩ <;> refine congrArg _ ((live_awake s _ hd).trans (congrArg _ ?_)) <;> rw [ha]

theorem gateRetryExpiry_stops :
    exec .gateRetryExpiry s = .next (State.settle { s with ft := { s.ft with retry := none } }) := by
  refine congrArg _ ((live_awake s _ hd).trans (congrArg _ ?_))
  cases hr : s.ft.retry with
  | some _ => rfl
  | none =>
    have same : s = { s with ft := { s.ft with retry := none } } := by rw [← hr]
    exact same

end

/-! ## What the grants and the evaluation leave of the line and of the other records -/

section
variable {s t u : State}

theorem granted_line (s : State) (q : TxReq) (n : Nat) (h : s.le.pending = none) :
    (s.granted q n).le = s.le ∧ ∃ x, (s.granted q n).tt = { s.tt with inFlight := x } := by
  have tables : s.tt = { s.tt with inFlight := s.tt.inFlight } := rfl
  have only := only_granted s q n
  cases hk : q.kind with
  | profile =>
    rw [hk] at only
    refine ⟨?_, _, by rw [only.tt (by decide)]⟩
    unfold State.granted
    rw [hk]
    dsimp only
    split
    · rw [State.modLe_le, h, Option.map_none, ← h]
    · rfl
  | swap =>
    rw [hk] at only
    refine ⟨only.le (by decide), ?_⟩
    unfold State.granted
    rw [hk]
    exact ⟨_, rfl⟩
  | rate =>
    rw [hk] at only
    refine ⟨only.le (by decide), ?_⟩
    unfold State.granted
    rw [hk]
    exact ⟨_, rfl⟩
  | _ =>
    rw [hk] at only
    exact ⟨only.le (by decide), _, by rw [only.tt (by decide)]⟩

theorem grant_line (s : State) (q : TxReq) (h : s.le.pending = none) :
    (s.grant q).le = s.le ∧ (∃ x, (s.grant q).tt = { s.tt with inFlight := x })
    ∧ (s.grant q).requested = s.ss.txs.map (·.req) ++ q :: s.ss.waiting := by
  obtain ⟨le, tt⟩ := granted_line (s.listed q) q s.ss.freeNumber h
  refine ⟨le, tt, ?_⟩
  have ss : (s.grant q).ss = (s.listed q).ss :=
    (only_granted (s.listed q) q s.ss.freeNumber).ss (by cases q.kind <;> decide)
  rw [State.requested, ss]
  simp [State.listed, State.modSs, SS.enqueue]

theorem grantList_line (rs : List TxReq) (s : State) (h : s.le.pending = none) :
    (grantList rs s).le = s.le ∧ (∃ x, (grantList rs s).tt = { s.tt with inFlight := x })
    ∧ (s.ss.waiting = [] → (grantList rs s).requested = s.requested ++ rs) := by
  induction rs generalizing s with
  | nil => exact ⟨rfl, ⟨_, rfl⟩, fun _ => (List.append_nil _).symm⟩
  | cons q rs ih =>
    unfold grantList
    split
    · obtain ⟨le, ⟨x, tt⟩, requested⟩ := grant_line s q h
      obtain ⟨le', ⟨y, tt'⟩, requested'⟩ := ih (s.grant q) (by rw [le]; exact h)
      refine ⟨le'.trans le, ⟨y, by rw [tt', tt]⟩, fun hw => ?_⟩
      have idle : (s.grant q).ss.waiting = [] := by
        have ss : (s.grant q).ss = (s.listed q).ss :=
          (only_granted (s.listed q) q s.ss.freeNumber).ss (by cases q.kind <;> decide)
        rw [ss]
        exact hw
      rw [requested' idle, requested, State.requested, hw]
      simp
    · refine ⟨rfl, ⟨_, rfl⟩, fun hw => ?_⟩
      simp [State.requested, State.modSs, hw]

theorem grantWaiting_line (s : State) (h : s.le.pending = none) :
    s.grantWaiting.le = s.le ∧ (∃ x, s.grantWaiting.tt = { s.tt with inFlight := x })
    ∧ s.grantWaiting.requested = s.requested := by
  obtain ⟨le, tt, requested⟩ := grantList_line s.ss.waiting (s.modSs fun x => { x with waiting := [] }) h
  refine ⟨le, tt, (requested rfl).trans ?_⟩
  simp [State.requested, State.modSs]

theorem releaseOver_faults (k : Nat) (s : State) :
    (∀ i, (∀ p, i ≠ FaultId.voiceCapacity p) → (State.releaseOver k s).faultRec i = s.faultRec i)
    ∧ ∀ j, j + k < 32 → ∀ e ∈ newestEntries j s.fs.history,
      e ∈ newestEntries (j + k) (State.releaseOver k s).fs.history := by
  induction k generalizing s with
  | zero => exact ⟨fun _ _ => rfl, fun j _ e he => he⟩
  | succ k ih =>
    have stays : (∀ i, (∀ p, i ≠ FaultId.voiceCapacity p) → s.faultRec i = s.faultRec i)
        ∧ ∀ j, j + (k + 1) < 32 → ∀ e ∈ newestEntries j s.fs.history, e ∈ newestEntries (j + (k + 1)) s.fs.history :=
      ⟨fun _ _ => rfl, fun j _ e he => newestEntries_mono (Nat.le_add_right _ _) he⟩
    unfold State.releaseOver
    split
    · exact stays
    · split
      · rename_i p _
        have released := only_releaseCall s p .capacity
        have reported : Reported (FaultId.voiceCapacity p) (s.releaseCall p .capacity) (s.releaseForRoom p) :=
          reported_faultEventCore _ _ _
        obtain ⟨kept, older⟩ := ih (s.releaseForRoom p)
        refine ⟨fun i hi => (kept i hi).trans ((reported.others i (hi p)).trans ?_), fun j hj e he => ?_⟩
        · rw [State.faultRec, released.fs (by decide)]
          rfl
        · have once := (releaseForRoom_faults s p).2.2 j (by omega) e he
          have all := older (j + 1) (by omega) e once
          rwa [show j + 1 + k = j + (k + 1) by omega] at all
      · exact stays

/-- An evaluation reports VOICE_CAPACITY alone, twice at most. -/
theorem handPMin_faults (s : State) :
    (∀ i, (∀ p, i ≠ FaultId.voiceCapacity p) → s.handPMin.faultRec i = s.faultRec i)
    ∧ ∀ j, j + 2 < 32 → ∀ e ∈ newestEntries j s.fs.history, e ∈ s.handPMin.fs.history := by
  let x := s.pMinTaken
  have down : x.downgraded.fs = x.fs := by
    have all : Only [.cc, .plk, .ports, .ss] x (if x.effProfile = .lifeline then
        [Port.a, .b].foldl (fun s p => if (s.call p).downgradable then s.downgradeCall p else s) x else x) :=
      .ite (fun _ => .foldl _ (fun t p => .ite (fun _ => only_downgradeCall t p) fun _ => .refl _ t) _ x)
        fun _ => .refl _ x
    rw [State.downgraded, (only_downgradeOver _ 2).fs (by decide), all.fs (by decide)]
  have up : s.handPMin.fs = (State.releaseOver 2 x.downgraded).fs := by
    change x.fitted.retestWaiting.fs = _
    rw [(only_retestWaiting _).fs (by decide)]
    exact (only_modCc (State.releaseOver 2 x.downgraded) _).fs (by decide)
  obtain ⟨kept, older⟩ := releaseOver_faults 2 x.downgraded
  refine ⟨fun i hi => ?_, fun j hj e he => ?_⟩
  · have same : s.handPMin.faultRec i = (State.releaseOver 2 x.downgraded).faultRec i := by
      rw [State.faultRec, up]
      rfl
    have before : x.downgraded.faultRec i = s.faultRec i := by
      rw [State.faultRec, down]
      rfl
    rw [same, kept i hi, before]
  · rw [up]
    exact mem_of_newest (older j hj e (by rw [down]; exact he))

end

/-! ## Entry to service (R8) -/

section
variable {s : State}

/-- The line at its entry to service: the tables exchanged in force, the counts at 0. -/
def State.lineEntered (s : State) (x : Exchange) (up : List (Nat × Nat)) : State :=
  (((s.setLink .inService).modTt fun t =>
    { t with down := downTable x.down x.snrDown t.maskInForce, up := up.map upTone, cap := x.cap }).modLe fun e =>
    { e with pending := none, sf := 0, sfStart := e.sym, attempts := 0, backoffStep := 0, lastFailure := .none
             syncFails := 0, lowPower := 0, farEnd := none, level := Profile.level x.profile
             evalDue := false }).setInForce x.profile

/-- The schedule sent: a pending agreement where accepted, else the retry timer. -/
def FT.offered (f : FT) (sched : Option Sched) (accepted : Bool) (start : Sym) : FT :=
  match sched with
  | some c =>
    if accepted then { f with agreement := some { cur := c.inService start, active := false, repl := none, endSf := none } }
    else { f with retry := some Config.gateRetryMs }
  | none => f

/-- The line and the tracker at the entry. -/
def State.entered (s : State) (x : Exchange) (up : List (Nat × Nat)) (accepted : Bool) : State :=
  (s.lineEntered x up).ftUpd fun f => f.offered x.sched accepted (s.lineEntered x up).le.sym

variable {x : Exchange} {up : List (Nat × Nat)}

theorem enterService_eq (s : State) (x : Exchange) (up : List (Nat × Nat)) (accepted : Bool) :
    s.enterService x up accepted = ((s.entered x up accepted).linkLossOver.trainFail false).grantWaiting.handPMin := by
  unfold State.enterService State.entered State.lineEntered
  dsimp only
  congr 4

theorem confirmation_enters (hd : s.dormant = false) (hl : s.le.link = .exchange) (hx : s.le.exchange = some x)
    (hu : x.up = some up) (hc : x.confirmed = true) (accepted : Bool) :
    exec (.confirmation accepted) s = .next (s.enterService x up accepted).settle := by
  refine congrArg Host.Outcome.next ((live_awake s _ hd).trans (congrArg State.settle ?_))
  rw [hx]
  dsimp only
  rw [hu]
  exact if_pos (by simp [hl, hc])

theorem only_lineEntered (s : State) : Only [.le, .tt, .ft, .plk] s (s.lineEntered x up) :=
  .seq (l := [.le, .tt, .ft, .plk])
    (.seq (l := [.le, .tt, .ft, .plk]) (.seq (only_setLink s _) (only_modTt _ _)) (only_modLe _ _))
    (only_setInForce _ _)

theorem only_entered (s : State) (accepted : Bool) : Only [.le, .tt, .ft, .plk] s (s.entered x up accepted) :=
  .seq (only_lineEntered s) (only_ftUpd _ _)

theorem lineEntered_le (hl : s.le.link = .exchange) : (s.lineEntered x up).le = { s.le with
    link := .inService, phaseTimer := none, backoff := none, exchange := none
    pending := none, sf := 0, sfStart := s.le.sym, attempts := 0, backoffStep := 0, lastFailure := .none
    syncFails := 0, lowPower := 0, farEnd := none, level := Profile.level x.profile, evalDue := false
    inForce := x.profile } := by
  unfold State.lineEntered
  rw [setInForce_le, setLink_training s .inService rfl (.inr rfl) (by rw [hl]; decide)]
  rfl

theorem lineEntered_tt (hl : s.le.link = .exchange) : ∃ a b, (s.lineEntered x up).tt = { s.tt with
    down := downTable x.down x.snrDown s.tt.maskInForce, up := up.map upTone, cap := x.cap
    needSent := a, needProgress := b } := by
  unfold State.lineEntered
  rw [setLink_training s .inService rfl (.inr rfl) (by rw [hl]; decide)]
  obtain ⟨a, b, e⟩ := setInForce_tables _ x.profile
  exact ⟨a, b, e⟩

theorem lineEntered_ft : (s.lineEntered x up).ft = s.ft := by
  unfold State.lineEntered
  rw [(only_setInForce _ _).ft (by decide)]
  exact setLink_ft _ _ rfl

theorem entered_line (hl : s.le.link = .exchange) (accepted : Bool) :
    (s.entered x up accepted).le = (s.lineEntered x up).le ∧ (s.entered x up accepted).tt = (s.lineEntered x up).tt
    ∧ (s.entered x up accepted).ft = s.ft.offered x.sched accepted s.le.sym := by
  have only := only_ftUpd (s.lineEntered x up) fun f => f.offered x.sched accepted (s.lineEntered x up).le.sym
  refine ⟨only.le (by decide), only.tt (by decide), ?_⟩
  rw [State.entered, ftUpd_ft, lineEntered_ft, lineEntered_le hl]

/-! ## The line's faults at the entry (R11, R155, R157) -/

theorem Reported.older {i : FaultId} {z t : State} (h : Reported i z t) {k : Nat} (hk : k < 32) {e : HistEntry}
    (he : e ∈ newestEntries k z.fs.history) : e ∈ newestEntries (k + 1) t.fs.history := by
  rcases h.history with same | ⟨y, joined⟩
  · rw [same]
    exact newestEntries_succ he
  · rw [joined]
    exact newest_historyWith_older y hk he

theorem reported_linkLossOver (t : State) : Reported .linkLoss t t.linkLossOver := by
  by_cases h : (t.faultRec .linkLoss).state = .active ∨ (t.faultRec .linkLoss).state = .retryWait
  · rw [linkLossOver_eq t h]
    exact reported_faultMove t _ _ _ _ _ _
  · rw [not_or] at h
    rw [linkLossOver_idle t h.1 h.2]
    exact .refl t _

/-- The line's faults once the entry (`f`), its grants and its evaluation are done (`u`). -/
theorem entered_faults (t : State) {f u : State} (hf : f = t.linkLossOver.trainFail false)
    (hu : u = f.grantWaiting.handPMin) : t.trainFailEnded u
    ∧ u.faultRec .linkLoss = t.linkLossOver.faultRec .linkLoss
    ∧ ∀ e ∈ newestEntries 1 t.linkLossOver.fs.history, e ∈ u.fs.history := by
  have loss := reported_linkLossOver t
  have ended : Reported .trainFail t.linkLossOver f := by
    rw [hf]
    exact reported_trainFail_absent t.linkLossOver
  have grants : f.grantWaiting.fs = f.fs := (only_grantWaiting f).fs (by decide)
  obtain ⟨kept, older⟩ := handPMin_faults f.grantWaiting
  rw [← hu, grants] at older
  rw [← hu] at kept
  have record (i : FaultId) (hi : ∀ p, i ≠ FaultId.voiceCapacity p) : u.faultRec i = f.faultRec i := by
    rw [kept i hi, State.faultRec, grants]
    rfl
  have trainFail := record .trainFail fun p => by cases p <;> decide
  refine ⟨trainFailEnded_of (t := t.linkLossOver) (loss.others _ (by decide)) (only_linkLossOver t).uptime ?_ ?_, ?_,
    fun e he => older 2 (by decide) e (ended.older (by decide) he)⟩
  · rw [trainFail, hf]
  · rw [← hf]
    exact fun e he => older 1 (by decide) e he
  · exact (record .linkLoss fun p => by cases p <;> decide).trans (ended.others _ (by decide))

theorem linkLossOver_ends (t : State) (r : FaultRec) (hr : r = t.faultRec .linkLoss) :
    (r.state = .active ∨ r.state = .retryWait →
      t.linkLossOver.faultRec .linkLoss = { r with state := .recovered, run := none, retry := none }
      ∧ ∃ e ∈ newestEntries 1 t.linkLossOver.fs.history, e.record = .linkLoss ∧ e.uptime = t.uptime
        ∧ e.transition = .recovered ∧ e.value = r.value)
    ∧ (r.state = .clear ∨ r.state = .recovered ∨ r.state = .latched → t.linkLossOver.faultRec .linkLoss = r) := by
  subst hr
  refine ⟨fun h => ?_, fun h => ?_⟩
  · rw [linkLossOver_eq t h, faultRec_faultMove, faultMove_history]
    exact ⟨rfl, _, newest_historyWith _ _, rfl, rfl, rfl, rfl⟩
  · rw [linkLossOver_idle t] <;> intro hn <;> rw [hn] at h <;> simp at h

/-- The calls and their requests at the entry are those of EXCHANGE. -/
theorem entered_calls {t f : State} (before : Only [.le, .tt, .ft, .plk] s t)
    (hf : f = t.linkLossOver.trainFail false) (pending : t.le.pending = none) : SameCalls s f.grantWaiting := by
  have faults : Only [.fs, .plk] t f := by
    rw [hf]
    exact .seq (only_linkLossOver t) (only_trainFail_absent _)
  have grants := only_grantWaiting f
  have loss := reported_linkLossOver t
  have ended : Reported .trainFail t.linkLossOver f := by
    rw [hf]
    exact reported_trainFail_absent t.linkLossOver
  exact {
    call := fun p => (grants.call p).trans ((faults.call p).trans (before.call p))
    requested := (grantWaiting_line f (by rw [faults.le (by decide), pending])).2.2.trans
      ((requested_of_ss (faults.ss (by decide))).trans (requested_of_ss (before.ss (by decide))))
    voice := fun p => by
      have other : f.faultRec (FaultId.voiceCapacity p) = t.faultRec (FaultId.voiceCapacity p) :=
        (ended.others _ (by cases p <;> decide)).trans (loss.others _ (by cases p <;> decide))
      rw [State.faultRec, grants.fs (by decide)]
      refine other.trans ?_
      rw [State.faultRec, before.fs (by decide)]
      rfl
    settings := grants.settings.trans (faults.settings.trans before.settings)
    uptime := grants.uptime.trans (faults.uptime.trans before.uptime) }

end

section
variable {s : State} {x : Exchange} {up : List (Nat × Nat)} (accepted : Bool)

/-- The offered schedule, by the far end's answer. -/
theorem offered_cases (f : FT) (sched : Option Sched) (start : Sym) :
    (∀ c, sched = some c → accepted = true → (f.offered sched accepted start).agreement =
      some { cur := c.inService start, active := false, repl := none, endSf := none })
    ∧ (∀ c, sched = some c → accepted = false → (f.offered sched accepted start).retry = some 10000
      ∧ (f.offered sched accepted start).agreement = f.agreement)
    ∧ (sched = none → (f.offered sched accepted start).agreement = f.agreement
      ∧ (f.offered sched accepted start).retry = f.retry) := by
  refine ⟨?_, ?_, ?_⟩
  · rintro c rfl rfl
    rfl
  · rintro c rfl rfl
    exact ⟨rfl, rfl⟩
  · rintro rfl
    exact ⟨rfl, rfl⟩

/-- What service begins with. -/
theorem confirmation_serves (hd : s.dormant = false) (hl : s.le.link = .exchange) (hx : s.le.exchange = some x)
    (hu : x.up = some up) (hc : x.confirmed = true) :
    ∃ u : State, exec (.confirmation accepted) s = .next u.settle
      ∧ u.le.link = .inService ∧ u.le.sf = 0 ∧ u.le.sfStart = s.le.sym ∧ u.le.sym = s.le.sym ∧ u.le.attempts = 0
      ∧ u.le.backoffStep = 0 ∧ u.le.lastFailure = .none ∧ u.le.inForce = x.profile ∧ u.le.pending = none
      ∧ u.le.level = Profile.level x.profile ∧ u.le.exchange = none
      ∧ u.tt.down = List.zipWith (fun (t : Nat × Nat) k => { s := t.2, b := t.1, masked := k })
          (x.down.zip x.snrDown) s.tt.maskInForce
      ∧ u.tt.up = (up.map fun t => { s := t.2, b := t.1, masked := false })
      ∧ u.tt.cap = x.cap ∧ u.tt.maskInForce = s.tt.maskInForce
      ∧ (∀ c, x.sched = some c → accepted = true →
          u.ft.agreement = some
            { cur := { c with offset :=
                (dist (firstWindowFrom c.origin c.period (s.le.sym + 40 * c.anchor)) s.le.sym).toNat % 40 }
              active := false, repl := none, endSf := none })
      ∧ (∀ c, x.sched = some c → accepted = false → u.ft.retry = some 10000 ∧ u.ft.agreement = s.ft.agreement)
      ∧ (x.sched = none → u.ft.agreement = s.ft.agreement ∧ u.ft.retry = s.ft.retry)
      ∧ u.cc.pDown = (u.tt.down.map (·.b)).sum * (39 - u.agreedWidth) / 8
      ∧ u.cc.pUp = (u.tt.up.map (·.b)).sum * (39 - u.agreedWidth) / 8 ∧ s.capacityTaken u
      ∧ s.trainFailEnded u
      ∧ (∀ r, r = s.faultRec .linkLoss →
        (r.state = .active ∨ r.state = .retryWait →
          u.faultRec .linkLoss = { r with state := .recovered, run := none, retry := none }
          ∧ ∃ e ∈ u.fs.history, e.record = .linkLoss ∧ e.uptime = s.uptime ∧ e.transition = .recovered
            ∧ e.value = r.value)
        ∧ (r.state = .clear ∨ r.state = .recovered ∨ r.state = .latched → u.faultRec .linkLoss = r))
      ∧ u.settings = s.settings ∧ u.sts = s.sts ∧ u.uptime = s.uptime ∧ u.sup.mode = s.sup.mode
      ∧ u.mu.accounts = s.mu.accounts ∧ u.plk.requests = s.plk.requests ∧ u.ss.upQueue = s.ss.upQueue := by
  have calm : Calm allSides s (s.enterService x up accepted) :=
    calm_enterService_table x up accepted (.refl _ _) (by rw [hl]; rfl)
  have before : Only [.le, .tt, .ft, .plk] s (s.entered x up accepted) := only_entered s accepted
  obtain ⟨le, tt, ft⟩ := entered_line (x := x) (up := up) hl accepted
  rw [lineEntered_le hl] at le
  obtain ⟨a, b, tables⟩ := lineEntered_tt (x := x) (up := up) hl
  rw [tables] at tt
  have eq := enterService_eq s x up accepted
  generalize s.entered x up accepted = t at before le tt ft eq
  generalize hf : t.linkLossOver.trainFail false = f at eq
  have pending : t.le.pending = none := by rw [le]
  have calls := entered_calls before hf.symm pending
  obtain ⟨trainFail, linkLoss, history⟩ := entered_faults t hf.symm eq
  have faults : Only [.fs, .plk] t f := by
    rw [← hf]
    exact .seq (only_linkLossOver t) (only_trainFail_absent _)
  obtain ⟨grantLe, ⟨i, grantTt⟩, -⟩ := grantWaiting_line f (by rw [faults.le (by decide), pending])
  have grants := only_grantWaiting f
  generalize f.grantWaiting = y at calls eq grantLe grantTt grants
  have hand := only_handPMin y
  have handed : HandedOver s y.pMinTaken y.handPMin := handed_handPMin calls
  rw [← eq] at hand handed
  have lineLe := (hand.le (by decide)).trans (grantLe.trans ((faults.le (by decide)).trans le))
  have lineTt : (s.enterService x up accepted).tt = { t.tt with inFlight := i } := by
    rw [hand.tt (by decide), grantTt, faults.tt (by decide)]
  have lineFt := (hand.ft (by decide)).trans ((grants.ft (by decide)).trans ((faults.ft (by decide)).trans ft))
  have width : y.agreedWidth = (s.enterService x up accepted).agreedWidth :=
    (agreedWidth_of_ft (hand.ft (by decide))).symm
  have minDown := handed.pDown
  have minUp := handed.pUp
  rw [(pMin_eq y).1, width, ← hand.tt (by decide)] at minDown
  rw [(pMin_eq y).2, width, ← hand.tt (by decide)] at minUp
  obtain ⟨agreed, refused, absent⟩ := offered_cases accepted s.ft x.sched s.le.sym
  have record (i : FaultId) : t.faultRec i = s.faultRec i := by
    rw [State.faultRec, before.fs (by decide)]
    rfl
  refine ⟨_, confirmation_enters hd hl hx hu hc accepted, ?_⟩
  generalize s.enterService x up accepted = u at *
  rw [tt] at lineTt
  refine ⟨by rw [lineLe], by rw [lineLe], by rw [lineLe], by rw [lineLe], by rw [lineLe], by rw [lineLe], by rw [lineLe],
    by rw [lineLe], by rw [lineLe], by rw [lineLe], by rw [lineLe], by rw [lineTt]; rfl, by rw [lineTt]; rfl,
    by rw [lineTt], by rw [lineTt], by rw [lineFt]; exact agreed, by rw [lineFt]; exact refused,
    by rw [lineFt]; exact absent, minDown, minUp, handed.capacityTaken, ?_, ?_, calm.settings, calm.sts, calm.uptime,
    calm.mode, calm.accounts, calm.requests, calm.upQueue⟩
  · have ended := trainFail
    unfold State.trainFailEnded at ended ⊢
    rwa [record, before.uptime] at ended
  · intro r hr
    obtain ⟨ends, stays⟩ := linkLossOver_ends t r (hr.trans (record _).symm)
    rw [linkLoss]
    refine ⟨fun h => ?_, stays⟩
    obtain ⟨own, e, he, hrec, hup, rest⟩ := ends h
    exact ⟨own, e, history e he, hrec, hup.trans before.uptime, rest⟩

end

/-- Settles O36, by the hand-over of P_min that ends entry to service and each change of the agreed width. -/
theorem serviceBeginsAndAgreementsMove : Obligations.ServiceBeginsAndAgreementsMove := by
  refine ⟨fun accepted x up s hd hl hx hu hc => confirmation_serves accepted hd hl hx hu hc,
    fun a s hd ha => ⟨fun hin hn hs he => ?_, fun c hin hr hs he => ?_, fun hin he => ?_, agreementInForce_idle hd ha,
      replacementInForce_idle hd ha, agreementEnd_idle hd ha⟩,
    fun s hd => ⟨agreement_absent hd, gateRetryExpiry_stops hd⟩⟩
  all_goals have old := agreedWidth_some ha
  · obtain ⟨ft, width, still, moved, rest⟩ := agreeing_spec (s := s) (some { a with active := true }) fun t ht =>
      agreedWidth_some ht
    rw [old, hn] at still moved
    exact ⟨_, agreementInForce_acts hd ha hin hn hs he, ft, width, still, moved, rest⟩
  · obtain ⟨ft, -, still, moved, rest⟩ := agreeing_spec (s := s) (some { a with cur := c, repl := none }) fun t ht =>
      agreedWidth_some ht
    rw [old] at still moved
    refine ⟨_, replacementInForce_acts hd ha hin hr hs he, ft, fun h => still ?_, fun hact hne => ?_, rest⟩
    · rcases h with h | h <;> simp [h]
    · rw [if_pos hact, if_pos hact] at moved
      exact moved (Ne.symm hne)
  · obtain ⟨ft, width, still, moved, rest⟩ := agreeing_spec (s := s) none fun t ht => agreedWidth_none ht
    rw [old] at still moved
    refine ⟨_, agreementEnd_acts hd ha hin he, ft, width, fun h => still ?_, fun hact hne => ?_, rest⟩
    · rcases h with h | h <;> simp [h]
    · rw [if_pos hact] at moved
      exact moved (Ne.symm hne)

end Sys2Proof.Machine
end

section
/-!
PROOFS. A RATE or a SWAP sent out (R33, R34): what the tables then hold, and what joins the outbound queue.
-/

namespace Sys2Proof.Machine

-- One proof at a time: the text is compiled as one, and each proof that waits for the others holds a thread.
set_option Elab.async false

section
variable (s : State)

/-- A table of 30 bits or more goes out in a RATE (R34). -/
theorem rateOut_eq (r : RateReason) {bits : List Nat} (hb : 30 ≤ bits.sum) : ∃ body, s.rateOut r bits =
    (s.modTt fun x => { x with inFlight := .rate ⟨bits, s.settings.line.requestedMask, s.rateLevel, r⟩ none none }).requestTx
      .rate none body := by
  have floor : ¬ bits.sum < Config.floorBits := Nat.not_lt.mpr hb
  rw [State.rateOut, if_neg floor]
  exact ⟨_, rfl⟩

theorem rateOut_sent (r : RateReason) {bits : List Nat} (hb : 30 ≤ bits.sum) :
    (∃ n, (s.rateOut r bits).tt = { s.tt with
      inFlight := .rate ⟨bits, s.settings.line.requestedMask, s.rateLevel, r⟩ n none })
    ∧ Only [.tt, .ss] s (s.rateOut r bits) := by
  obtain ⟨body, e⟩ := rateOut_eq s r hb
  rw [e]
  refine ⟨?_, .seq (only_modTt s _) (only_requestTx _ .rate _ _ _)⟩
  unfold State.requestTx
  dsimp only
  split
  · exact ⟨_, rfl⟩
  · exact ⟨none, rfl⟩

/-- A table below 30 bits is held back; with no profile pending that is all (R34). -/
theorem rateOut_floor (r : RateReason) {bits : List Nat} (hb : bits.sum < 30) (hp : s.le.pending = none) :
    s.rateOut r bits = s.modTt fun x => { x with lastResult := .floor } := by
  rw [State.rateOut, if_pos (show bits.sum < Config.floorBits from hb)]
  exact if_neg (by simp [hp])

/-- With no profile pending a RATE carries the level of the profile in force. -/
theorem rateLevel_inForce (hp : s.le.pending = none) : s.rateLevel = Profile.level s.le.inForce := by
  rw [State.rateLevel, hp]
  rfl

end

end Sys2Proof.Machine
end

section
/-!
PROOFS. TONE_MASK (R37): the refusals of the ranges, and what the requested mask becomes in each link state.
-/

namespace Sys2Proof.Machine

-- One proof at a time: the text is compiled as one, and each proof that waits for the others holds a thread.
set_option Elab.async false

/-! ## The ranges (R37) -/

/-- The ranges R37 refuses, by its words. -/
theorem badRanges_iff (a : MaskAction) (rs : List (Nat × Nat)) : badRanges a rs = true ↔
    16 < rs.length ∨ (rs = [] ∧ a ≠ .replace) ∨ ∃ x ∈ rs, x.1 < 32 ∨ 255 < x.2 ∨ x.2 < x.1 := by
  have outside (x : Nat × Nat) : (x.1 < 32 ∨ 255 < x.1 ∨ x.2 < 32 ∨ 255 < x.2 ∨ x.2 < x.1)
      ↔ x.1 < 32 ∨ 255 < x.2 ∨ x.2 < x.1 := by omega
  simp only [badRanges, Bool.or_eq_true, Bool.and_eq_true, decide_eq_true_eq, List.isEmpty_iff, bne_iff_ne,
    List.any_eq_true, or_assoc, outside]

section
variable {s : State} (m : List Bool)

/-! ## The requested mask set (R37) -/

/-- The reply names the tones masked, and whether the mask in force is another. -/
theorem maskReply_eq {rest : List Byte} {t : State} (h : t.asked = some (0x05 :: rest))
    (hm : t.settings.line.requestedMask = m) :
    t.maskReply = t.replied 0x05 .ok (w8 (m.filter id).length ++ wBool (t.tt.maskInForce != m)) := by
  unfold State.maskReply
  dsimp only
  rw [reply_eq h, hm]
  rfl

/-! ## The mask taken, by the link state -/

variable {a : MaskAction} {rs : List (Nat × Nat)} (hr : badRanges a rs = false)
  (hm : m = maskBy a s.settings.line.requestedMask rs)
include hr hm

theorem toneMask_tooFew (hl : s.le.link = .inService) (hb : (s.computeDown m s.effProfile).sum < 30) :
    s.toneMask (.known a) rs = s.reply (.no .refusedState) := by
  subst hm
  simp [State.toneMask, hr, State.inService, hl, Config.floorBits, hb]

theorem toneMask_serving (hl : s.le.link = .inService) (hb : 30 ≤ (s.computeDown m s.effProfile).sum) :
    s.toneMask (.known a) rs = ((s.setRequestedMask m).oweRate .mask).maskReply := by
  subst hm
  simp [State.toneMask, hr, State.inService, hl, Config.floorBits, Nat.not_lt.mpr hb]

theorem toneMask_exchange (hl : s.le.link = .exchange) :
    s.toneMask (.known a) rs = (s.setRequestedMask m).maskReply := by
  subst hm
  simp [State.toneMask, hr, State.inService, hl]

theorem toneMask_idle (hl : s.le.link ≠ .inService) (he : s.le.link ≠ .exchange) :
    s.toneMask (.known a) rs = ((s.setRequestedMask m).setMaskInForce m).maskReply := by
  subst hm
  simp [State.toneMask, hr, State.inService, hl, he]

end

/-! ## The obligation -/

section
variable {s : State} {rest : List Byte} {a : Enum MaskAction} {rs : List (Nat × Nat)} (h : s.asks (0x05 :: rest))
  (hread : readAll (rPair (rReq (rEnum maskActions)) (rReq (rList (rPair (rNat 1) (rNat 1))))) rest = some (a, rs))
include h hread

theorem toneMask_runs : exec (.toneMask a rs) s = .next (s.toneMask a rs).settle :=
  congrArg _ (live_request _ h rfl hread)

theorem toneMask_refused {c : Code} (hc : s.toneMask a rs = s.reply (.no c)) :
    exec (.toneMask a rs) s = .next (s.replied 0x05 c []).settle := by
  rw [toneMask_runs h hread, hc, reply_eq h.2]
  rfl

/-- A mask taken is answered with the tones masked and whether another mask is in force. -/
theorem toneMask_answered {t : State} {m : List Bool} (ht : s.toneMask a rs = t.maskReply)
    (hq : t.plk.requests = s.plk.requests) (hm : t.settings.line.requestedMask = m) :
    exec (.toneMask a rs) s = .next (State.settle
      (t.replied 0x05 .ok (w8 (m.filter id).length ++ wBool (t.tt.maskInForce != m)))) := by
  rw [toneMask_runs h hread, ht, maskReply_eq m ((asked_congr hq).trans h.2) hm]

end

/-- With no change in flight and no profile pending the MASK RATE is sent at once (R34, R37). -/
theorem oweRate_mask_sent {s : State} {m : List Bool} (hf : s.tt.inFlight = .none) (hp : s.le.pending = none)
    (hb : 30 ≤ (s.computeDown m s.effProfile).sum) :
    (∃ n, ((s.setRequestedMask m).oweRate .mask).tt = { s.tt with
      inFlight := .rate ⟨s.computeDown m s.effProfile, m, Profile.level s.le.inForce, .mask⟩ n none })
    ∧ Only [.tt, .ss] (s.setRequestedMask m) ((s.setRequestedMask m).oweRate .mask) := by
  have bits : (s.setRequestedMask m).rateBits = s.computeDown m s.effProfile := by
    unfold State.rateBits State.rateProfile
    rw [show (s.setRequestedMask m).le.pending = none from hp]
    rfl
  have sent := rateOut_sent (s.setRequestedMask m) .mask hb
  rw [rateLevel_inForce (s.setRequestedMask m) hp] at sent
  rw [State.oweRate, if_pos (show (s.setRequestedMask m).tt.inFlight = .none from hf), bits]
  exact sent

/-- Settles O27: the ranges by `badRanges_iff`, then one lemma for each link state; in service a RATE waits
(`oweRate_waits`) or is sent (`oweRate_mask_sent`). -/
theorem toneMaskSets : Obligations.ToneMaskSets := by
  refine ⟨fun b rs rest s h hr => toneMask_refused h hr rfl, fun a rs rest s h hr => ⟨fun hbad => ?_, ?_⟩⟩
  · refine toneMask_refused h hr ?_
    rw [State.toneMask, if_pos ((badRanges_iff a rs).mpr hbad)]
  intro hlen hnil hin m hm
  have good : badRanges a rs = false := by
    rw [Bool.eq_false_iff, Ne, badRanges_iff]
    rintro (hx | ⟨hx, ha⟩ | ⟨x, hx, hout⟩)
    · omega
    · exact ha (hnil hx)
    · have := hin x hx
      omega
  refine ⟨fun hl hb => toneMask_refused h hr (toneMask_tooFew m good hm hl hb), fun hl hb hf => ?_,
    fun hl hb hf hp => ?_, fun hl => ?_, fun hl he => ?_⟩
  · have taken := toneMask_serving m good hm hl hb
    rw [oweRate_waits (s.setRequestedMask m) .mask hf] at taken
    exact toneMask_answered h hr taken rfl rfl
  · obtain ⟨⟨n, htt⟩, only⟩ := oweRate_mask_sent hf hp hb
    have answer := toneMask_answered (m := m) h hr (toneMask_serving m good hm hl hb)
      (congrArg PLK.requests (only.plk (by decide))) (by rw [only.settings]; rfl)
    rw [htt] at answer
    refine ⟨_, n, answer, only.settings, by rw [htt], by rw [htt], only.le (by decide), only.ft (by decide),
      only.ports (by decide), only.cc (by decide), only.mu (by decide), only.sup (by decide), only.tu (by decide),
      only.fs (by decide), only.plk (by decide), only.sts, only.uptime⟩
  · exact toneMask_answered h hr (toneMask_exchange m good hm hl) rfl rfl
  · have answer := toneMask_answered (m := m) h hr (toneMask_idle m good hm hl he) rfl rfl
    rw [answer]
    simp [State.setMaskInForce, State.setRequestedMask, State.modTt, State.modSettings, wBool]

end Sys2Proof.Machine
end

section
/-!
PROOFS. The end of the settings load (R177, R179, R180): the stores read, the reports of SETTINGS_CORRUPT, the values
put in force, and the line and the ports enabled.
-/

namespace Sys2Proof.Machine

-- One proof at a time: the text is compiled as one, and each proof that waits for the others holds a thread.
set_option Elab.async false

/-! ## The stores as they are read (R177, R179) -/

section
variable {x : STS}

theorem loaded_valid {r : StoredRecord} (hr : x.stored = some r) (hw : r.whole = true)
    (hc : r.check = crc16 (Config.recordImage r.values)) : x.loaded = some r.values := by
  simp [STS.loaded, hr, StoredRecord.valid, hw, hc]

theorem loaded_invalid {r : StoredRecord} (hr : x.stored = some r)
    (h : r.check ≠ crc16 (Config.recordImage r.values) ∨ r.whole = false) : x.loaded = none := by
  rcases h with h | h <;> simp [STS.loaded, hr, StoredRecord.valid, h]

theorem loaded_absent (h : x.stored = none) : x.loaded = none := by
  simp [STS.loaded, h]

theorem loadedRegion_valid {g : StoredRegion} (hg : x.storedRegion = some g) (hw : g.whole = true)
    (hc : g.check = crc16 g.values.image) : x.loadedRegion = some g.values := by
  simp [STS.loadedRegion, hg, StoredRegion.valid, hw, hc]

theorem loadedRegion_invalid {g : StoredRegion} (hg : x.storedRegion = some g)
    (h : g.check ≠ crc16 g.values.image ∨ g.whole = false) : x.loadedRegion = none := by
  rcases h with h | h <;> simp [STS.loadedRegion, hg, StoredRegion.valid, h]

theorem loadedRegion_absent (h : x.storedRegion = none) : x.loadedRegion = none := by
  simp [STS.loadedRegion, h]

end

/-! ## The stages of the load's end -/

section
variable (s : State)

/-- The values loaded: the stored record's, or the defaults. -/
def State.loadedValues : Settings := s.sts.loaded.getD Config.defaults

/-- The stores read. -/
def State.loadRead : State :=
  (s.modSts fun x => { x with
    loading := false
    loadResult := if s.sts.loaded.isSome then .stored else .defaults
    region := s.sts.loadedRegion.getD Reset.region
    regionOk := s.sts.loadedRegion.isSome }).modSettings fun _ => s.loadedValues

/-- Then each store without values is reported. -/
def State.loadReported : State :=
  let t := if s.sts.loaded.isSome then s.loadRead else s.loadRead.faultEvent .settingsCorrupt
  if s.sts.loadedRegion.isSome then t else t.faultEvent .settingsCorrupt

/-- Then the mask is in force and the measurement unit starts. -/
def State.loadInForce : State :=
  (s.loadReported.setMaskInForce s.loadedValues.line.requestedMask).modMu fun x => { x with
    active := s.loadedValues.measure, started := true, periodRate := s.loadedValues.measure.rate }

/-- Then the line is enabled. -/
def State.loadLine : State :=
  if s.loadedValues.line.linkEnable then s.loadInForce.lineHoldRemove .disabled else s.loadInForce

/-- A port enabled where its settings say so. -/
def State.enablePort (t : State) (v : Settings) (p : Port) : State :=
  if (v.ports.get p).enable then t.portHoldRemove p .disabled else t

theorem loadEnd_eq : s.loadEnd = (s.loadLine.enablePort s.loadedValues .a).enablePort s.loadedValues .b := rfl

end

/-! ## The reports (R155, R156) -/

/-- A record after a report under policy REPORT in CLEAR or RECOVERED (R156). -/
def FaultRec.reported (r : FaultRec) (now : BitVec 32) : FaultRec :=
  { r with
    state := .recovered, run := none, retry := none, count := min 255 (r.count + 1)
    firstSeen := r.firstSeen <|> some now, lastSeen := some now }

/-- A second report at the same moment counts once more and changes nothing else. -/
theorem reported_twice (r : FaultRec) (now : BitVec 32) :
    (r.reported now).reported now = { r.reported now with count := min 255 (min 255 (r.count + 1) + 1) } := by
  cases h : r.firstSeen <;> simp [FaultRec.reported, h]

section
variable {s : State} {i : FaultId}

theorem faultEvent_reported (hp : (s.faultSetting i).policy = .report)
    (hs : (s.faultRec i).state = .clear ∨ (s.faultRec i).state = .recovered) :
    (s.faultEvent i).faultRec i = (s.faultRec i).reported s.uptime := by
  have raised : s.faultEvent i = (s.faultOccur i none).faultMove i .recovered none none .raised none := by
    unfold State.faultEvent State.faultEventCore
    rcases hs with hs | hs <;> simp only [hs, hp]
  rw [raised, faultRec_faultMove, faultRec_faultOccur]
  rfl

theorem faultEvent_reported_twice (hp : (s.faultSetting i).policy = .report)
    (hs : (s.faultRec i).state = .clear ∨ (s.faultRec i).state = .recovered) :
    ((s.faultEvent i).faultEvent i).faultRec i =
      { (s.faultRec i).reported s.uptime with count := min 255 (min 255 ((s.faultRec i).count + 1) + 1) } := by
  have once := faultEvent_reported hp hs
  have only := only_faultEvent s i
  have policy : ((s.faultEvent i).faultSetting i).policy = .report := by
    rw [State.faultSetting, only.settings]
    exact hp
  rw [faultEvent_reported policy (.inr (by rw [once]; rfl)), once, only.uptime, reported_twice]

end

section
variable (s : State)

theorem only_loadReported : Only [.fs, .plk] s.loadRead s.loadReported :=
  .trans (.ite (fun _ => .refl _ _) fun _ => only_faultEvent _ _) (.ite (fun _ => .refl _ _) fun _ => only_faultEvent _ _)

/-- SETTINGS_CORRUPT once the load has reported: `events` counts the stores without values. -/
theorem loadReported_record {events : Nat}
    (he : events = (if s.sts.loaded.isSome then 0 else 1) + (if s.sts.loadedRegion.isSome then 0 else 1)) :
    (events = 0 → s.loadReported.fs.recs.settingsCorrupt = s.fs.recs.settingsCorrupt)
    ∧ (0 < events → s.loadedValues.faults.records.settingsCorrupt.policy = .report →
      s.fs.recs.settingsCorrupt.state = .clear ∨ s.fs.recs.settingsCorrupt.state = .recovered →
      s.loadReported.fs.recs.settingsCorrupt = { s.fs.recs.settingsCorrupt.reported s.uptime with
        count := min 255 (min 255 (s.fs.recs.settingsCorrupt.count + 1) + (events - 1)) }) := by
  have once (n : Nat) : min 255 (min 255 n) = min 255 n := by omega
  unfold State.loadReported
  subst he
  cases s.sts.loaded.isSome <;> cases s.sts.loadedRegion.isSome
  · refine ⟨fun h => by simp at h, fun _ hp hs => faultEvent_reported_twice (s := s.loadRead) (i := .settingsCorrupt) hp hs⟩
  iterate 2
    · refine ⟨fun h => by simp at h, fun _ hp hs => ?_⟩
      refine (faultEvent_reported (s := s.loadRead) (i := .settingsCorrupt) hp hs).trans ?_
      simp only [Bool.false_eq_true, if_true, if_false, Nat.add_zero, Nat.zero_add, Nat.sub_self, once]
      rfl
  · exact ⟨fun _ => rfl, fun h => by simp at h⟩

end

/-! ## The line enabled (R2, R3) -/

section
variable (s : State)

/-- The line's law moves no fault record. -/
theorem lineLaw_recs : s.lineLaw.fs.recs = s.fs.recs := by
  rcases lineLaw_cases s with ⟨-, -, e⟩ | ⟨-, -, e⟩ | ⟨-, -, e⟩ | ⟨-, e⟩ | ⟨-, e⟩ <;> rw [e]
  · rw [(only_enterQuiet s).fs (by decide)]
  · exact (leaveService_fs s _ _).1
  · rw [(only_setLink s _).fs (by decide)]

theorem setLink_mask (l : LinkState) (h : s.tt.maskInForce = s.settings.line.requestedMask) :
    (s.setLink l).tt.maskInForce = s.settings.line.requestedMask := by
  rw [setLink_tt]
  split
  · rfl
  · exact h

/-- A mask in force that is the requested mask stays so. -/
theorem lineLaw_mask (h : s.tt.maskInForce = s.settings.line.requestedMask) :
    s.lineLaw.tt.maskInForce = s.settings.line.requestedMask := by
  rcases lineLaw_cases s with ⟨-, -, e⟩ | ⟨-, -, e⟩ | ⟨-, -, e⟩ | ⟨-, e⟩ | ⟨-, e⟩ <;> rw [e]
  · exact h
  · exact setLink_mask s _ h
  · exact h
  · exact (leaveService_tt s _ _).2.2.2
  · exact setLink_mask s _ h

/-! ## What the line's law leaves of the ports' hold sets -/

/-- Every port's hold set is what it was. -/
def State.SameHolds (s t : State) : Prop := ∀ p, (t.port p).hold = (s.port p).hold

variable {s} {t u : State}

theorem State.SameHolds.trans (h : s.SameHolds t) (k : t.SameHolds u) : s.SameHolds u := fun p => (k p).trans (h p)

theorem State.SameHolds.of_ports (h : t.ports = s.ports) : s.SameHolds t := fun p => by rw [State.port, h]; rfl

theorem sameHolds_modPort (p : Port) {f : PP → PP} (h : (f (s.port p)).hold = (s.port p).hold) :
    s.SameHolds (s.modPort p f) := fun q => by
  cases p <;> cases q <;> first | exact h | rfl

theorem sameHolds_ringOff (p : Port) : s.SameHolds (s.ringOff p) :=
  sameHolds_modPort p (by dsimp only; split <;> rfl)

theorem sameHolds_updCall (p : Port) (f : CallRec → CallRec) : s.SameHolds (s.updCall p f) := by
  have raised : s.SameHolds ((s.modCallRaw p f).raiseIf (decide ((s.call p).shown ≠ (f (s.call p)).shown)) (.call p)) :=
    .of_ports (by simp)
  unfold State.updCall
  dsimp only
  split
  · exact raised
  · exact raised.trans (sameHolds_modPort p rfl)

theorem sameHolds_linkGone (c : RelCause) (p : Port) : s.SameHolds (s.linkGone c p) := by
  unfold State.linkGone
  dsimp only
  split
  iterate 5
    · split
      · exact (sameHolds_ringOff p).trans (sameHolds_updCall p _)
      · exact (sameHolds_ringOff p).trans (sameHolds_updCall p _)
  · exact .of_ports rfl

theorem sameHolds_leaveService (l : LinkState) (c : RelCause) : s.SameHolds (s.leaveService l c) := by
  have before : (s.leaveTables l).flush.ports = s.ports :=
    ((only_flush _).ports (by decide)).trans ((only_leaveTables s l).ports (by decide))
  rw [leaveService_eq]
  generalize (s.leaveTables l).flush = t at before
  have gone : ∀ p, (((t.linkGone c .a).linkGone c .b).call p).lineCall = false := by
    rintro (_ | _)
    · rw [show Port.a = Port.b.other from rfl, linkGone_call_other]
      exact linkGone_lineCall t c .a
    · exact linkGone_lineCall _ c .b
  exact (State.SameHolds.of_ports before).trans ((sameHolds_linkGone c .a).trans ((sameHolds_linkGone c .b).trans
    (.of_ports ((widthChanged_idle s.agreedWidth gone).1.ports (by decide)))))

theorem sameHolds_lineLaw : s.SameHolds s.lineLaw := by
  rcases lineLaw_cases s with ⟨-, -, e⟩ | ⟨-, -, e⟩ | ⟨-, -, e⟩ | ⟨-, e⟩ | ⟨-, e⟩ <;> rw [e]
  · exact .of_ports rfl
  · exact .of_ports ((only_enterQuiet s).ports (by decide))
  · exact .of_ports rfl
  · exact sameHolds_leaveService _ _
  · exact .of_ports ((only_setLink s _).ports (by decide))

/-- What taking a member from the line hold set leaves of the ports, the records and the mask in force. -/
theorem lineHoldRemove_leaves (m : LineMember) : s.SameHolds (s.lineHoldRemove m)
    ∧ (s.lineHoldRemove m).fs.recs = s.fs.recs
    ∧ (s.tt.maskInForce = s.settings.line.requestedMask →
      (s.lineHoldRemove m).tt.maskInForce = s.settings.line.requestedMask) := by
  unfold State.lineHoldRemove
  split
  · exact ⟨State.SameHolds.trans (.of_ports rfl) sameHolds_lineLaw, lineLaw_recs _, fun h => lineLaw_mask _ h⟩
  · exact ⟨.of_ports rfl, rfl, id⟩

end

/-! ## The ports enabled (R78, R79) -/

section
variable (t : State) (v : Settings) (p : Port)

theorem only_portFreed : Only [.ports] t (t.portFreed p) :=
  .ite (fun _ => .ite (fun _ => .refl _ t) fun _ => only_modPort t p _) fun _ =>
    .ite (fun _ => .refl _ t) fun _ => only_modPort t p _

theorem only_enablePort : Only [.ports, .plk] t (t.enablePort v p) :=
  .ite (fun _ => .ite (fun _ => .seq (l := [.ports, .plk]) (.seq (only_modPort t p _) (only_raise _ _))
    (only_portFreed _ p)) fun _ => .refl _ t) fun _ => .refl _ t

theorem sameHolds_portFreed : t.SameHolds (t.portFreed p) := by
  unfold State.portFreed
  dsimp only
  split
  · split
    · exact .of_ports rfl
    · exact sameHolds_modPort p rfl
  · split
    · exact .of_ports rfl
    · exact sameHolds_modPort p rfl

theorem portHoldRemove_hold (m : PortMember) : ((t.portHoldRemove p m).port p).hold = (t.port p).hold.put m false
    ∧ ((t.portHoldRemove p m).port p.other).hold = (t.port p.other).hold := by
  unfold State.portHoldRemove
  split
  · have freed := sameHolds_portFreed ((t.modPort p fun x => { x with hold := x.hold.put m false }).raise (.hook p)) p
    exact ⟨(freed p).trans (congrArg PP.hold (perPort_get_set _ _ _)),
      (freed p.other).trans (congrArg PP.hold (perPort_get_set_other _ _ _))⟩
  · rename_i h
    refine ⟨?_, rfl⟩
    cases m <;> simp [PortHold.has] at h <;> simp [PortHold.put, ← h]

/-- DISABLED leaves a port that is enabled, and stands as it was otherwise. -/
theorem enablePort_disabled : ((t.enablePort v p).port p).hold.disabled
      = ((t.port p).hold.disabled && !(v.ports.get p).enable)
    ∧ ((t.enablePort v p).port p.other).hold.disabled = (t.port p.other).hold.disabled := by
  obtain ⟨own, other⟩ := portHoldRemove_hold t p .disabled
  unfold State.enablePort
  cases (v.ports.get p).enable
  · simp
  · simp [own, other, PortHold.put]

end

/-! ## The obligation -/

section
variable (s : State)

theorem only_loadLine : Only (.mu :: serviceBlocks) s.loadRead s.loadLine :=
  .seq (l := [.fs, .plk, .tt, .mu]) (m := serviceBlocks)
    (.seq (l := [.fs, .plk, .tt]) (.seq (only_loadReported s) (only_setMaskInForce _ _)) (only_modMu _ _))
    (.ite (fun _ => only_lineHoldRemove _ _) fun _ => .refl _ _)

theorem only_loadEnd : Only [.ports, .plk] s.loadLine s.loadEnd :=
  .trans (only_enablePort s.loadLine s.loadedValues .a) (only_enablePort _ _ .b)

/-- Mode, custody and the request queue are what they were. -/
theorem loadEnd_keeps : s.loadEnd.sup.mode = s.sup.mode ∧ s.loadEnd.cc.custody = s.cc.custody
    ∧ s.loadEnd.plk.requests = s.plk.requests := by
  have reported : Calm allSides s.loadRead s.loadReported :=
    calm_ite _ (fun _ => calm_ite _ (fun _ => .refl _ _) fun _ => calm_faultEvent _ (.refl _ _)) fun _ =>
      calm_faultEvent _ (calm_ite _ (fun _ => .refl _ _) fun _ => calm_faultEvent _ (.refl _ _))
  have line : Calm allSides s.loadInForce s.loadLine :=
    calm_ite _ (fun _ => calm_lineHoldRemove _ (.refl _ _)) fun _ => .refl _ _
  have port {t : State} (p : Port) (h : Calm allSides s.loadInForce t) :
      Calm allSides s.loadInForce (t.enablePort s.loadedValues p) :=
    calm_ite _ (fun _ => calm_portHoldRemove _ _ h) fun _ => h
  have enabled : Calm allSides s.loadInForce s.loadEnd := port .b (port .a line)
  exact ⟨enabled.mode.trans reported.mode, enabled.custody.trans reported.custody,
    enabled.requests.trans reported.requests⟩

/-- The line engine at the load's end: DISABLED leaves where link enable says so, and an idle line then starts (R2,
R3). -/
theorem loadEnd_le : s.loadEnd.le.hold.disabled = (s.le.hold.disabled && !s.loadedValues.line.linkEnable)
    ∧ (s.loadedValues.line.linkEnable = true → s.loadEnd.le.hold.isEmpty = true → s.le.hold.disabled = true →
      s.le.link.driverOn = false → s.loadEnd.le.link = .quiet ∧ s.loadEnd.le.phaseTimer = some 200) := by
  have before : s.loadInForce.le = s.le := (only_loadReported s).le (by decide)
  rw [(only_loadEnd s).le (by decide), State.loadLine]
  cases s.loadedValues.line.linkEnable
  · simp [before]
  · by_cases hd : s.le.hold.disabled = true
    · have has : s.loadInForce.le.hold.has .disabled = true := by rw [before]; exact hd
      obtain ⟨⟨left, -⟩, -, -, quiet⟩ := lineHoldRemove_le s.loadInForce .disabled has
      have off : (s.loadInForce.lineHoldRemove .disabled).le.hold.disabled = false := left (by decide)
      exact ⟨by simp [hd, off], fun _ he _ hoff => quiet he (by rw [before]; exact hoff)⟩
    · have same : s.loadInForce.lineHoldRemove .disabled = s.loadInForce := if_neg (by rw [before]; exact hd)
      simp [same, before, hd]

/-- The mask in force and the record of SETTINGS_CORRUPT are as the load set them. -/
theorem loadEnd_kept : s.loadEnd.tt.maskInForce = s.loadedValues.line.requestedMask
    ∧ s.loadEnd.fs.recs = s.loadReported.fs.recs := by
  have values : s.loadInForce.settings = s.loadedValues := (only_loadReported s).settings
  rw [(only_loadEnd s).tt (by decide), (only_loadEnd s).fs (by decide)]
  obtain ⟨-, recs, mask⟩ := lineHoldRemove_leaves (s := s.loadInForce) .disabled
  rw [values] at mask
  unfold State.loadLine
  split
  · exact ⟨mask rfl, recs⟩
  · exact ⟨rfl, rfl⟩

/-- DISABLED leaves the ports the settings enable. -/
theorem loadEnd_ports (p : Port) :
    (s.loadEnd.port p).hold.disabled = ((s.port p).hold.disabled && !(s.loadedValues.ports.get p).enable) := by
  have before : s.SameHolds s.loadLine := by
    have inForce : s.SameHolds s.loadInForce := .of_ports ((only_loadReported s).ports (by decide))
    unfold State.loadLine
    split
    · exact inForce.trans (lineHoldRemove_leaves .disabled).1
    · exact inForce
  obtain ⟨ownA, otherA⟩ := enablePort_disabled s.loadLine s.loadedValues .a
  obtain ⟨ownB, otherB⟩ := enablePort_disabled (s.loadLine.enablePort s.loadedValues .a) s.loadedValues .b
  rw [loadEnd_eq, ← before p]
  cases p
  · exact otherB.trans ownA
  · exact ownB.trans (congrArg (· && !(s.loadedValues.ports.get .b).enable) otherA)

end

theorem settingsLoadEnd_runs {s : State} (hd : s.dormant = false) (hl : s.sts.loading = true) :
    exec .settingsLoadEnd s = .next s.loadEnd.settle :=
  congrArg _ ((live_awake s _ hd).trans (congrArg _ (if_pos hl)))

/-- Settles O10: the stores as read, then the reports (`loadReported_record`), the line (`loadEnd_le`) and the ports
(`loadEnd_ports`). -/
theorem settingsLoadEnds : Obligations.SettingsLoadEnds := by
  refine ⟨fun s hd hl => ?_, fun s hd hl => congrArg _ ((live_awake s _ hd).trans (congrArg _ (if_neg (by simp [hl]))))⟩
  have whole : Only (.ports :: .mu :: serviceBlocks) s.loadRead s.loadEnd :=
    .seq (only_loadLine s) (only_loadEnd s)
  have settings : s.loadEnd.settings = s.loadedValues := whole.settings
  have result : s.loadEnd.sts.loadResult = if s.sts.loaded.isSome then .stored else .defaults := by rw [whole.sts]; rfl
  have region : s.loadEnd.sts.region = s.sts.loadedRegion.getD Reset.region
      ∧ s.loadEnd.sts.regionOk = s.sts.loadedRegion.isSome := by rw [whole.sts]; exact ⟨rfl, rfl⟩
  obtain ⟨mask, recs⟩ := loadEnd_kept s
  obtain ⟨mode, custody, requests⟩ := loadEnd_keeps s
  obtain ⟨disabled, quiet⟩ := loadEnd_le s
  obtain ⟨events, counted⟩ : ∃ n, n = (if s.sts.loaded.isSome then 0 else 1) + (if s.sts.loadedRegion.isSome then 0 else 1) :=
    ⟨_, rfl⟩
  obtain ⟨silent, told⟩ := loadReported_record s counted
  refine ⟨events, s.loadEnd, settingsLoadEnd_runs hd hl, fun r hr hw hc => ?_, fun hn => ?_, fun r hr hb => ?_,
    fun g hg hw hc => ?_, fun g hg hb => ?_, fun hn => ?_, by rw [whole.sts]; rfl, by rw [whole.sts]; rfl,
    by rw [whole.sts]; rfl, ?_, fun he => ?_, fun he hp hs => ?_, ?_, by rw [settings]; exact disabled,
    fun p => by rw [settings]; exact loadEnd_ports s p, by rw [settings]; exact quiet, by rw [settings]; exact mask,
    whole.uptime, mode, custody, requests, whole.pending⟩
  · have loaded := loaded_valid hr hw hc
    rw [settings, result, State.loadedValues, loaded]
    exact ⟨rfl, rfl⟩
  · rw [settings, result, State.loadedValues, loaded_absent hn]
    exact ⟨rfl, rfl⟩
  · rw [settings, result, State.loadedValues, loaded_invalid hr hb]
    exact ⟨rfl, rfl⟩
  · rw [region.1, region.2, loadedRegion_valid hg hw hc]
    exact ⟨rfl, rfl⟩
  · rw [region.1, region.2, loadedRegion_invalid hg hb]
    exact ⟨rfl, rfl⟩
  · rw [region.1, region.2, loadedRegion_absent hn]
    exact ⟨rfl, rfl⟩
  · rw [result, region.2, counted]
    cases s.sts.loaded <;> rfl
  · rw [recs]
    exact silent he
  · rw [recs]
    exact told he (settings ▸ hp) hs
  · rw [(only_loadEnd s).mu (by decide), settings]
    have line : s.loadLine.mu = s.loadInForce.mu := by
      unfold State.loadLine
      split
      · exact (only_lineHoldRemove _ _).mu (by decide)
      · rfl
    have reported : s.loadReported.mu = s.mu := (only_loadReported s).mu (by decide)
    rw [line, State.loadInForce, State.modMu_mu, (only_setMaskInForce _ _).mu (by decide), reported]

end Sys2Proof.Machine
end

section
/-!
PROOFS. The bit loading in the statement's words (R27 to R29), and the donor and the receiver of a swap (R32).
-/

namespace Sys2Proof.Machine

-- One proof at a time: the text is compiled as one, and each proof that waits for the others holds a thread.
set_option Elab.async false

/-! ## The computed table (R27 to R29) -/

theorem toneBits_eq (m : Int) (x : Nat) (masked : Bool) : toneBits m x masked =
    if masked = true ∨ ((x : Int) - 38 - m) / 12 < 2 then 0 else min 12 (((x : Int) - 38 - m) / 12).toNat := by
  have none : (masked || decide (((x : Int) - 38 - m) / 12 < 2)) = true ↔ masked = true ∨ ((x : Int) - 38 - m) / 12 < 2 := by
    simp
  unfold toneBits
  dsimp only [Config.gap]
  by_cases h : masked = true ∨ ((x : Int) - 38 - m) / 12 < 2
  · rw [if_pos (none.mpr h), if_pos h]
  · rw [if_neg (none.not.mpr h), if_neg h]
    split <;> omega

/-- The loaded tones that stand before one, by the statement's condition. -/
theorem bitsBefore_eq (bits : List Nat) (i b : Nat) : bitsBefore bits i b =
    (bits.zipIdx.filter fun y => decide (y.1 ≠ 0 ∧ (b < y.1 ∨ (y.1 = b ∧ y.2 < i)))).map (·.1) := by
  have same : (fun y : Nat × Nat => decide (y.1 ≠ 0) && (decide (b < y.1) || (y.1 == b && decide (y.2 < i)))) =
      fun y => decide (y.1 ≠ 0 ∧ (b < y.1 ∨ (y.1 = b ∧ y.2 < i))) := by
    funext y
    simp [Bool.decide_and, Bool.decide_or, beq_eq_decide]
  rw [bitsBefore, ← same]

theorem need_eq (s : State) : s.need =
    max 16 ((8 * (40 * s.cc.nReported + 64) + (39 - s.agreedWidth) - 1) / (39 - s.agreedWidth)) := rfl

/-- The budget as a count of tones (R28, R29, R32). -/
theorem budgetCount_eq (s : State) : s.budgetCount .full = 224 ∧ s.budgetCount .trim = 160
    ∧ s.budgetCount .lifeline = loadedTones (s.computeDown s.settings.line.requestedMask .lifeline) := ⟨rfl, rfl, rfl⟩

/-- A computed table is read from these parts of the state alone. -/
theorem computeDown_of_parts {s t : State} (hset : t.settings = s.settings) (hred : t.le.reduction = s.le.reduction)
    (hn : t.cc.nReported = s.cc.nReported) (hft : t.ft = s.ft) (hs : t.tt.down.map (·.s) = s.tt.down.map (·.s))
    (mask : List Bool) (p : Profile) : t.computeDown mask p = s.computeDown mask p := by
  unfold State.computeDown State.loadDown State.budget State.need State.agreedWidth State.margin State.marginDb
  rw [hset, hred, hn, hft, hs]

/-! ## The first of the best of a list -/

section
variable {α : Type} (better : α → α → Bool)

/-- The better of two, the first where neither is. -/
def betterOf (best : Option α) (x : α) : Option α := some (best.elim x fun b => if better x b then x else b)

/-- The first member that no other is better than. -/
def firstBest (l : List α) : Option α := l.foldl (betterOf better) none

theorem foldl_betterOf_mem (l : List α) (b : Option α) {x : α} (h : l.foldl (betterOf better) b = some x) :
    x ∈ l ∨ b = some x := by
  induction l generalizing b with
  | nil => exact .inr h
  | cons y l ih =>
    rcases ih _ h with hx | hx
    · exact .inl (List.mem_cons_of_mem _ hx)
    · cases b with
      | none => cases hx; exact .inl List.mem_cons_self
      | some c =>
        rw [betterOf, Option.elim] at hx
        split at hx
        · cases hx; exact .inl List.mem_cons_self
        · exact .inr hx

/-- A member that is better than those before it and than which none after it is better. -/
theorem firstBest_eq {before : α → α → Prop} {l : List α} {a : α} (order : l.Pairwise before) (ha : a ∈ l)
    (first : ∀ x ∈ l, before x a → better a x = true) (best : ∀ x ∈ l, better x a = false) : firstBest better l = some a := by
  obtain ⟨l₁, l₂, rfl⟩ := List.append_of_mem ha
  have earlier : ∀ x ∈ l₁, better a x = true := fun x hx =>
    first x (List.mem_append_left _ hx) ((List.pairwise_append.mp order).2.2 x hx a List.mem_cons_self)
  have later : ∀ l : List α, (∀ x ∈ l, better x a = false) → l.foldl (betterOf better) (some a) = some a := by
    intro l
    induction l with
    | nil => exact fun _ => rfl
    | cons x l ih =>
      intro h
      rw [List.foldl_cons, betterOf, Option.elim, if_neg (by simp [h x List.mem_cons_self])]
      exact ih fun y hy => h y (List.mem_cons_of_mem _ hy)
  have taken : betterOf better (l₁.foldl (betterOf better) none) a = some a := by
    cases e : l₁.foldl (betterOf better) none with
    | none => rfl
    | some x =>
      have hx : x ∈ l₁ := (foldl_betterOf_mem better l₁ none e).resolve_right (by simp)
      rw [betterOf, Option.elim, if_pos (earlier x hx)]
  rw [firstBest, List.foldl_append, List.foldl_cons, taken]
  exact later l₂ fun x hx => best x (List.mem_append_right _ (List.mem_cons_of_mem _ hx))

/-- Where the better has the smaller key, no member has a smaller key than the one chosen. -/
theorem firstBest_least (key : α → Int) {l : List α} {a : α}
    (h : firstBest (fun x y => decide (key x < key y)) l = some a) : ∀ x ∈ l, key a ≤ key x := by
  have run : ∀ (l : List α) (b : α), l.foldl (betterOf fun x y => decide (key x < key y)) (some b) = some a →
      key a ≤ key b ∧ ∀ x ∈ l, key a ≤ key x := by
    intro l
    induction l with
    | nil => rintro b ⟨⟩; exact ⟨le_refl _, by simp⟩
    | cons y l ih =>
      intro b hb
      rw [List.foldl_cons, betterOf, Option.elim] at hb
      by_cases hlt : key y < key b
      · rw [if_pos (by simpa using hlt)] at hb
        obtain ⟨hy, hl⟩ := ih y hb
        exact ⟨by omega, fun x hx => (List.mem_cons.mp hx).elim (fun e => e ▸ hy) (hl x)⟩
      · rw [if_neg (by simpa using hlt)] at hb
        obtain ⟨hy, hl⟩ := ih b hb
        refine ⟨hy, fun x hx => (List.mem_cons.mp hx).elim (fun e => ?_) (hl x)⟩
        rw [e]
        omega
  cases l with
  | nil => simp
  | cons y l =>
    obtain ⟨hy, hl⟩ := run l y h
    exact fun x hx => (List.mem_cons.mp hx).elim (fun e => e ▸ hy) (hl x)

end

/-! ## Donor and receiver (R32) -/

/-- m = s - G - 12b of a tone, loaded or not (R23). -/
def ToneRec.qdb (t : ToneRec) : Int := (t.s : Int) - 38 - 12 * t.b

theorem margin_eq (t : ToneRec) : t.margin = if t.b = 0 then none else some t.qdb := rfl

section
variable {l : List ToneRec}

theorem mem_loadedList {x : Nat × Int × Nat} :
    x ∈ loadedList l ↔ ∃ t, l[x.1]? = some t ∧ t.b ≠ 0 ∧ x.2 = (t.qdb, t.b) := by
  obtain ⟨i, m, b⟩ := x
  simp only [loadedList, List.mem_filterMap, Prod.exists, List.mem_zipIdx_iff_getElem?, margin_eq]
  constructor
  · rintro ⟨t, j, ht, hx⟩
    split at hx
    · simp at hx
    · simp only [Option.map_some, Option.some.injEq, Prod.mk.injEq] at hx
      obtain ⟨rfl, rfl, rfl⟩ := hx
      exact ⟨t, ht, ‹_›, rfl⟩
  · rintro ⟨t, ht, hb, hx⟩
    cases hx
    exact ⟨t, i, ht, by rw [if_neg hb]; rfl⟩

theorem loadedList_sorted : (loadedList l).Pairwise fun x y => x.1 < y.1 := by
  have places : (l.zipIdx).Pairwise fun x y => x.2 < y.2 := by
    rw [← List.pairwise_map (f := Prod.snd) (R := (· < ·)), List.zipIdx_map_snd]
    exact List.pairwise_lt_range'
  refine places.filterMap _ fun x y hxy a ha b hb => ?_
  simp only [Option.map_eq_some_iff] at ha hb
  obtain ⟨-, -, rfl⟩ := ha
  obtain ⟨-, -, rfl⟩ := hb
  exact hxy

theorem donor_firstBest : donor l = firstBest (fun x y => decide (x.2.1 < y.2.1)) (loadedList l) := by
  have same : (betterOf fun x y : Nat × Int × Nat => decide (x.2.1 < y.2.1)) = fun best x =>
      match best with
      | none => some x
      | some b => if x.2.1 < b.2.1 then some x else some b := by
    funext best x
    cases best with
    | none => rfl
    | some b => by_cases h : x.2.1 < b.2.1 <;> simp [betterOf, h]
  rw [firstBest, same]
  rfl

/-- The loaded tones that may take a bit (R32). -/
def takers (m : Int) (l : List ToneRec) : List (Nat × Int × Nat) :=
  (loadedList l).filter fun x => decide (m + 12 ≤ x.2.1) && decide (x.2.2 < 12)

theorem receiver_firstBest (m : Int) : receiver m l = firstBest (fun x y => decide (y.2.1 < x.2.1)) (takers m l) := by
  have same : (betterOf fun x y : Nat × Int × Nat => decide (y.2.1 < x.2.1)) = fun best x =>
      match best with
      | none => some x
      | some b => if b.2.1 < x.2.1 then some x else some b := by
    funext best x
    cases best with
    | none => rfl
    | some b => by_cases h : b.2.1 < x.2.1 <;> simp [betterOf, h]
  rw [firstBest, same]
  rfl

/-- The donor is the loaded tone of the lowest margin, the first of equals. -/
theorem donor_eq {i : Nat} {t : ToneRec} (hi : l[i]? = some t) (hb : t.b ≠ 0)
    (least : ∀ (k : Nat) (y : ToneRec), l[k]? = some y → y.b ≠ 0 → t.qdb ≤ y.qdb ∧ (k < i → t.qdb < y.qdb)) :
    donor l = some (i, t.qdb, t.b) := by
  rw [donor_firstBest]
  refine firstBest_eq _ loadedList_sorted (mem_loadedList.mpr ⟨t, hi, hb, rfl⟩) (fun x hx hlt => ?_) fun x hx => ?_
  all_goals
    obtain ⟨y, hy, hyb, e⟩ := mem_loadedList.mp hx
    rw [e]
  · exact decide_eq_true ((least x.1 y hy hyb).2 hlt)
  · exact decide_eq_false (Int.not_lt.mpr (least x.1 y hy hyb).1)

/-- No loaded tone has a lower margin than the donor. -/
theorem donor_least {d : Nat × Int × Nat} (h : donor l = some d) {t : ToneRec} (ht : t ∈ l) (hb : t.b ≠ 0) :
    d.2.1 ≤ t.qdb := by
  rw [donor_firstBest] at h
  obtain ⟨i, hi⟩ := List.mem_iff_getElem?.mp ht
  exact firstBest_least (fun x : Nat × Int × Nat => x.2.1) h (i, t.qdb, t.b) (mem_loadedList.mpr ⟨t, hi, hb, rfl⟩)

/-- The receiver is the loaded tone of the highest margin of those that may take a bit, the first of equals. -/
theorem receiver_eq {m : Int} {j : Nat} {t : ToneRec} (hj : l[j]? = some t) (hb : t.b ≠ 0) (hmax : t.b < 12)
    (hm : m + 12 ≤ t.qdb) (most : ∀ (k : Nat) (y : ToneRec), l[k]? = some y → y.b ≠ 0 → y.b < 12 → m + 12 ≤ y.qdb →
      y.qdb ≤ t.qdb ∧ (k < j → y.qdb < t.qdb)) : receiver m l = some (j, t.qdb, t.b) := by
  have taker {x : Nat × Int × Nat} (hx : x ∈ takers m l) :
      ∃ y, l[x.1]? = some y ∧ y.b ≠ 0 ∧ y.b < 12 ∧ m + 12 ≤ y.qdb ∧ x.2 = (y.qdb, y.b) := by
    obtain ⟨hx, hc⟩ := List.mem_filter.mp hx
    obtain ⟨y, hy, hyb, e⟩ := mem_loadedList.mp hx
    rw [e] at hc
    simp only [Bool.and_eq_true, decide_eq_true_eq] at hc
    exact ⟨y, hy, hyb, hc.2, hc.1, e⟩
  rw [receiver_firstBest]
  refine firstBest_eq _ (loadedList_sorted.filter _)
    (List.mem_filter.mpr ⟨mem_loadedList.mpr ⟨t, hj, hb, rfl⟩, by simp [hm, hmax]⟩) (fun x hx hlt => ?_) fun x hx => ?_
  all_goals
    obtain ⟨y, hy, hyb, hyc, hym, e⟩ := taker hx
    rw [e]
  · exact decide_eq_true ((most x.1 y hy hyb hyc hym).2 hlt)
  · exact decide_eq_false (Int.not_lt.mpr (most x.1 y hy hyb hyc hym).1)

/-- No tone may take a bit. -/
theorem receiver_none {m : Int} (h : ∀ t ∈ l, t.b ≠ 0 → t.qdb < m + 12 ∨ 12 ≤ t.b) : receiver m l = none := by
  have none : takers m l = [] := by
    refine List.filter_eq_nil_iff.mpr fun x hx => ?_
    obtain ⟨y, hy, hyb, e⟩ := mem_loadedList.mp hx
    rw [e]
    rcases h y (List.mem_of_getElem? hy) hyb with h | h <;> simp only [Bool.and_eq_true, decide_eq_true_eq] <;> omega
  rw [receiver_firstBest, none]
  rfl

end

end Sys2Proof.Machine
end

section
/-!
PROOFS. EVALUATION (R31, R32): the candidate table and the counts, the action chosen, and what it leaves of the line, of
the tables and of the outbound queue.
-/

namespace Sys2Proof.Machine

-- One proof at a time: the text is compiled as one, and each proof that waits for the others holds a thread.
set_option Elab.async false

/-! ## The stages of an evaluation (R31) -/

section
variable (s : State)

/-- The bits of the candidate table. -/
def State.evalBits : List Nat := s.computeDown s.settings.line.requestedMask s.effProfile

/-- The candidate table computed. -/
def State.candidates : State := s.modTt fun t => { t with cand := setBits t.down s.evalBits }

/-- Then the low counts and the upshift count. -/
def State.evalCounted : State :=
  s.candidates.modTt fun t => { t with
    lowCounts := List.zipWith (lowCount s.margin) t.down t.lowCounts
    upshift := if s.settings.line.upshiftEnable && decide (11 * total t.down ≤ 10 * s.evalBits.sum) then satInc 60 t.upshift
      else 0 }

/-- The action of each choice (R32). -/
def State.actOn (bits : List Nat) : Choice → State
  | .rate .upshift => (s.rateOut .upshift bits).modTt fun t => { t with upshift := 0 }
  | .rate r => s.rateOut r bits
  | .swap d r => s.proposeSwap d r
  | .hold | .none => s

variable {s}

theorem evaluate_busy (h : s.tt.inFlight ≠ .none ∨ s.tt.waitingRate ≠ none) : s.evaluate = s.candidates := by
  unfold State.evaluate
  refine if_pos ?_
  rcases h with h | h
  · simp [h]
  · simp [Option.isSome_iff_ne_none, h]

theorem evaluate_idle (hf : s.tt.inFlight = .none) (hw : s.tt.waitingRate = none) :
    s.evaluate = s.evalCounted.actOn s.evalBits s.evalCounted.choose := by
  have idle : s.evaluate = match s.evalCounted.choose with
      | .rate .upshift => (s.evalCounted.rateOut .upshift s.evalBits).modTt fun t => { t with upshift := 0 }
      | .rate r => s.evalCounted.rateOut r s.evalBits
      | .swap d r => s.evalCounted.proposeSwap d r
      | .hold | .none => s.evalCounted := if_neg (by simp [hf, hw])
  rw [idle]
  generalize s.evalCounted.choose = x
  cases x with
  | rate r => cases r <;> rfl
  | _ => rfl

/-! ## What is chosen (R32) -/

/-- A loaded tone is masked. -/
def State.masksLoaded (s : State) : Prop := ∃ (i : Nat) (t : ToneRec), s.tt.down[i]? = some t ∧ t.b ≠ 0
  ∧ s.settings.line.requestedMask[i]? = some true

/-- More tones are loaded than the budget allows. -/
def State.overBudget (s : State) : Prop := s.budgetCount s.effProfile < loadedTones (s.tt.down.map (·.b))

theorem masksLoaded_iff : (List.zipWith (fun (t : ToneRec) k => k && decide (t.b ≠ 0)) s.tt.down
    s.settings.line.requestedMask).any id = true ↔ s.masksLoaded := by
  simp only [List.any_eq_true, id, exists_eq_right, List.mem_iff_getElem?, List.getElem?_zipWith_eq_some,
    Bool.and_eq_true, decide_eq_true_eq]
  constructor
  · rintro ⟨i, t, k, ht, hk, rfl, hb⟩
    exact ⟨i, t, ht, hb, hk⟩
  · rintro ⟨i, t, ht, hb, hk⟩
    exact ⟨i, t, true, ht, hk, rfl, hb⟩

theorem choose_masked (h : s.masksLoaded) : s.choose = .rate .mask := if_pos (masksLoaded_iff.mpr h)

section
variable (hm : ¬ s.masksLoaded)
include hm

theorem choose_over (h : s.overBudget) : s.choose = .rate .profile :=
  (if_neg (masksLoaded_iff.not.mpr hm)).trans (if_pos h)

variable (ho : ¬ s.overBudget)
include ho

theorem choose_low (h : 4 ∈ s.tt.lowCounts) : s.choose = s.lowTone :=
  (if_neg (masksLoaded_iff.not.mpr hm)).trans ((if_neg ho).trans (if_pos (by simpa using h)))

theorem choose_calm (h : 4 ∉ s.tt.lowCounts) : s.choose = if 60 ≤ s.tt.upshift then .rate .upshift else .none :=
  (if_neg (masksLoaded_iff.not.mpr hm)).trans ((if_neg ho).trans (if_neg (by simpa using h)))

end

/-- A low tone leads to a DOWNSHIFT where no tone may take a bit, where a margin is far too low, and where the donor has
but two bits. -/
theorem lowTone_downshift (h : (∀ t ∈ s.tt.down, t.b ≠ 0 → t.qdb < s.margin + 12 ∨ 12 ≤ t.b)
    ∨ (∃ t ∈ s.tt.down, t.b ≠ 0 ∧ t.qdb < s.margin - 24)
    ∨ (∃ (i : Nat) (t : ToneRec), s.tt.down[i]? = some t ∧ t.b = 2 ∧ ∀ (k : Nat) (y : ToneRec), s.tt.down[k]? = some y →
        y.b ≠ 0 → t.qdb ≤ y.qdb ∧ (k < i → t.qdb < y.qdb))) : s.lowTone = .rate .downshift := by
  unfold State.lowTone
  rcases h with h | ⟨t, ht, hb, hlow⟩ | ⟨i, t, hi, hb, least⟩
  · rw [receiver_none h]
    cases donor s.tt.down <;> rfl
  · cases hd : donor s.tt.down with
    | none => rfl
    | some d =>
      have := donor_least hd ht hb
      cases receiver s.margin s.tt.down with
      | none => rfl
      | some r => exact if_pos (by simp; omega)
  · rw [donor_eq hi (by omega) least]
    cases receiver s.margin s.tt.down with
    | none => rfl
    | some r => exact if_pos (by simp [hb])

/-- Otherwise it leads to a SWAP of donor and receiver, not too soon after the last. -/
theorem lowTone_swap {i j : Nat} {d r : ToneRec} (hd : donor s.tt.down = some (i, d.qdb, d.b))
    (hr : receiver s.margin s.tt.down = some (j, r.qdb, r.b)) (hb : 2 < d.b) (hm : s.margin - 24 ≤ d.qdb) :
    ((∀ e, s.tt.lastSwap = some e → (s.le.sf - e).toNat < 4 → s.lowTone = .hold)
    ∧ ((∀ e, s.tt.lastSwap = some e → 4 ≤ (s.le.sf - e).toNat) → s.lowTone = .swap (i + 32) (j + 32))) := by
  have stays : ¬ ((decide (d.b = 2) || decide (d.qdb < s.margin - 24)) = true) := by
    simp only [Bool.or_eq_true, decide_eq_true_eq]
    omega
  unfold State.lowTone
  rw [hd, hr]
  dsimp only
  rw [if_neg stays]
  refine ⟨fun e he hlt => if_pos (by simpa [he] using hlt), fun late => if_neg ?_⟩
  cases he : s.tt.lastSwap with
  | none => simp
  | some e => simpa using late e he

end

/-- The reason of the RATE chosen (R32). -/
theorem choose_rate {s : State} {x : RateReason} (h : (x = .mask ∧ s.masksLoaded)
    ∨ (x = .profile ∧ ¬ s.masksLoaded ∧ s.overBudget)
    ∨ (x = .upshift ∧ ¬ s.masksLoaded ∧ ¬ s.overBudget ∧ 4 ∉ s.tt.lowCounts ∧ 60 ≤ s.tt.upshift)
    ∨ (x = .downshift ∧ ¬ s.masksLoaded ∧ ¬ s.overBudget ∧ 4 ∈ s.tt.lowCounts ∧ s.lowTone = .rate .downshift)) :
    s.choose = .rate x := by
  rcases h with ⟨rfl, hm⟩ | ⟨rfl, hm, ho⟩ | ⟨rfl, hm, ho, hc, hu⟩ | ⟨rfl, hm, ho, hc, hd⟩
  · exact choose_masked hm
  · exact choose_over hm ho
  · rw [choose_calm hm ho hc, if_pos hu]
  · rw [choose_low hm ho hc, hd]

/-! ## A proposal sent out -/

/-- Something has gone out at most: the change in flight, the upshift count and the last result of the tables may differ,
and the sends of the outbound queue. -/
structure SentOut (s t : State) : Prop where
  only : Only [.tt, .ss] s t
  tables : t.tt = { s.tt with inFlight := t.tt.inFlight, upshift := t.tt.upshift, lastResult := t.tt.lastResult }
  queue : ∃ l, t.ss.outQueue = s.ss.outQueue ++ l ∧ ∀ m ∈ l, ∃ n, m.who = .send n
  counts : t.ss.counts = s.ss.counts

/-- The link has been lost: nothing waits to be sent, and the candidates and the low counts stand. -/
structure LostOut (s t : State) : Prop where
  link : t.le.link ≠ .inService
  evalDue : t.le.evalDue = false
  queue : t.ss.outQueue = []
  cand : t.tt.cand = s.tt.cand
  lowCounts : t.tt.lowCounts = s.tt.lowCounts

section
variable {s t : State}

theorem SentOut.refl (s : State) : SentOut s s := ⟨.refl _ s, rfl, ⟨[], (List.append_nil _).symm, by simp⟩, rfl⟩

/-- An update of the tables that changes no more than these fields. -/
theorem SentOut.modTt (h : SentOut s t) (f : Tables → Tables)
    (hf : f t.tt = { t.tt with inFlight := (f t.tt).inFlight, upshift := (f t.tt).upshift
                               lastResult := (f t.tt).lastResult }) : SentOut s (t.modTt f) := by
  refine ⟨.seq h.only (only_modTt t f), ?_, h.queue, h.counts⟩
  rw [State.modTt_tt, hf, h.tables]

/-- A request for a change adds to the change in flight at most its number, and to the queue at most its send. -/
theorem requestTx_change (t : State) {k : TxKind} (hk : k = .rate ∨ k = .swap) (body : List Byte) :
    (∃ d, (t.requestTx k none body).tt = { t.tt with inFlight := d })
    ∧ (∃ l, (t.requestTx k none body).ss.outQueue = t.ss.outQueue ++ l ∧ ∀ m ∈ l, ∃ n, m.who = .send n)
    ∧ (t.requestTx k none body).ss.counts = t.ss.counts := by
  have granted (r : TxReq) (hr : r.kind = .rate ∨ r.kind = .swap) : (∃ d, (t.grant r).tt = { t.tt with inFlight := d })
      ∧ (∃ l, (t.grant r).ss.outQueue = t.ss.outQueue ++ l ∧ ∀ m ∈ l, ∃ n, m.who = .send n)
      ∧ (t.grant r).ss.counts = t.ss.counts := by
    unfold State.grant State.granted
    rcases hr with hr | hr <;> rw [hr] <;> exact ⟨⟨_, rfl⟩, ⟨[_], rfl, by simp⟩, rfl⟩
  unfold State.requestTx
  dsimp only
  split
  · exact granted _ hk
  · exact ⟨⟨t.tt.inFlight, rfl⟩, ⟨[], (List.append_nil _).symm, by simp⟩, rfl⟩

theorem SentOut.requestTx (h : SentOut s t) {k : TxKind} (hk : k = .rate ∨ k = .swap) (body : List Byte) :
    SentOut s (t.requestTx k none body) := by
  have only : Only [.tt, .ss] t (t.requestTx k none body) :=
    (only_requestTx t k none body 0).within (by rcases hk with rfl | rfl <;> decide)
  obtain ⟨l, hl, sends⟩ := h.queue
  obtain ⟨⟨d, tables⟩, ⟨l', hl', sends'⟩, counts⟩ := requestTx_change t hk body
  refine ⟨h.only.trans only, ?_, ⟨l ++ l', by rw [hl', hl, List.append_assoc], fun m hm => ?_⟩, counts.trans h.counts⟩
  · rw [tables, h.tables]
  · exact (List.mem_append.mp hm).elim (sends m) (sends' m)

theorem sentOut_proposeSwap (s : State) (d r : Nat) : SentOut s (s.proposeSwap d r) :=
  ((SentOut.refl s).modTt _ rfl).requestTx (.inr rfl) _

theorem leaveService_counts (s : State) (l : LinkState) (c : RelCause) :
    (s.leaveService l c).tt.cand = s.tt.cand ∧ (s.leaveService l c).tt.lowCounts = s.tt.lowCounts := by
  have after := ((leaveService_after_flush s l c).1.tt (by decide)).trans ((only_flush (s.leaveTables l)).tt (by decide))
  have head : (s.leaveHead l).tt = (s.armedRaw.setLink l).tt := rfl
  have armed : s.armedRaw.tt = s.tt := (only_armedRaw s).tt (by decide)
  rw [after, State.leaveTables, (only_ftUpd _ _).tt (by decide)]
  simp only [State.setMaskInForce, State.modTt_tt, head, setLink_tt, armed]
  split <;> exact ⟨rfl, rfl⟩

/-- A loss leaves nothing to send, and of the tables the candidates and the low counts. -/
theorem lostOut_loss (s : State) (c : LossCause) (h : s.le.link = .inService) : LostOut s (s.loss c) := by
  have e : s.loss c = (s.lossLeft c).afterLoss (Policy.waits (s.faultSetting .linkLoss).policy) := loss_eq s c h
  obtain ⟨hold, hv⟩ := lossLeft_le (s := s) c
  obtain ⟨⟨link, timer, backoff, step, exchange, hle⟩, -⟩ :=
    afterLoss_le (s.lossLeft c) (Policy.waits (s.faultSetting .linkLoss).policy)
  obtain ⟨htt, -⟩ := afterLoss_tables (s.lossLeft c) (Policy.waits (s.faultSetting .linkLoss).policy)
    (by rw [hv]; exact (lossTarget_ne _ _).1)
  obtain ⟨-, left, -⟩ := loss_line (s := s) c h
  obtain ⟨-, -, -, -, -, -, -, queue, -⟩ := loss_flushes (s := s) c h
  obtain ⟨cand, low⟩ := leaveService_counts (s.lossRecorded c)
    (lossTarget (s.lossRecorded c).le.hold (Policy.waits (s.faultSetting .linkLoss).policy)) .linkLost
  have before : (s.lossRecorded c).tt = s.tt := (only_lossRecorded s c).tt (by decide)
  rw [before] at cand low
  refine ⟨left, ?_, queue, ?_, ?_⟩
  · rw [e, hle, hv]; rfl
  · rw [e, htt, State.lossLeft, cand]
  · rw [e, htt, State.lossLeft, low]

/-- A RATE is sent, or held back by the floor with no profile pending (R34). -/
theorem sentOut_rateOut (s : State) (r : RateReason) {bits : List Nat} (h : 30 ≤ bits.sum ∨ s.le.pending = none) :
    SentOut s (s.rateOut r bits) := by
  by_cases hb : 30 ≤ bits.sum
  · obtain ⟨body, e⟩ := rateOut_eq s r hb
    rw [e]
    exact ((SentOut.refl s).modTt _ rfl).requestTx (.inl rfl) body
  · rw [rateOut_floor s r (Nat.lt_of_not_le hb) (h.resolve_left hb)]
    exact (SentOut.refl s).modTt _ rfl

/-- With a profile pending the floor loses the link (R18). -/
theorem lostOut_rateOut (s : State) (hl : s.le.link = .inService) (r : RateReason) {bits : List Nat}
    (hb : bits.sum < 30) (hp : s.le.pending ≠ none) : LostOut s (s.rateOut r bits) := by
  have lost : s.rateOut r bits = (s.modTt fun x => { x with lastResult := .floor }).loss .protocol := by
    rw [State.rateOut, if_pos (show bits.sum < Config.floorBits from hb)]
    exact if_pos (by simpa [Option.isSome_iff_ne_none] using hp)
  rw [lost]
  obtain ⟨link, due, queue, cand, low⟩ := lostOut_loss (s.modTt fun x => { x with lastResult := .floor }) .protocol hl
  exact ⟨link, due, queue, cand, low⟩

/-- What the chosen action sends, where no floor loses the link. -/
theorem sentOut_actOn (s : State) {bits : List Nat} (h : 30 ≤ bits.sum ∨ s.le.pending = none) (x : Choice) :
    SentOut s (s.actOn bits x) := by
  cases x with
  | rate r =>
    cases r with
    | upshift => exact (sentOut_rateOut s .upshift h).modTt (fun t => { t with upshift := 0 }) rfl
    | _ => exact sentOut_rateOut s _ h
  | swap d r => exact sentOut_proposeSwap s d r
  | hold => exact .refl s
  | none => exact .refl s

/-- What the chosen action leaves. -/
theorem actOn_outcome (s : State) (hl : s.le.link = .inService) (bits : List Nat) (x : Choice) :
    SentOut s (s.actOn bits x) ∨ LostOut s (s.actOn bits x) := by
  by_cases h : 30 ≤ bits.sum ∨ s.le.pending = none
  · exact .inl (sentOut_actOn s h x)
  · obtain ⟨hb, hp⟩ := not_or.mp h
    cases x with
    | rate r =>
      have lost := lostOut_rateOut s hl r (Nat.lt_of_not_le hb) hp
      cases r with
      | upshift => exact .inr ⟨lost.link, lost.evalDue, lost.queue, lost.cand, lost.lowCounts⟩
      | _ => exact .inr lost
    | swap d r => exact .inl (sentOut_proposeSwap s d r)
    | hold => exact .inl (.refl s)
    | none => exact .inl (.refl s)

end

/-! ## The tables after an action -/

section
variable (s : State)

/-- A RATE chosen, with no profile pending: sent, or held back by the floor; an UPSHIFT starts its count anew (R32,
R34). -/
theorem actOn_rate (hp : s.le.pending = none) (x : RateReason) (bits : List Nat) :
    (30 ≤ bits.sum → ∃ n, (s.actOn bits (.rate x)).tt = { s.tt with
      inFlight := .rate ⟨bits, s.settings.line.requestedMask, Profile.level s.le.inForce, x⟩ n none
      upshift := if x = .upshift then 0 else s.tt.upshift })
    ∧ (bits.sum < 30 → (s.actOn bits (.rate x)).tt = { s.tt with
      lastResult := .floor, upshift := if x = .upshift then 0 else s.tt.upshift }) := by
  have after : (s.actOn bits (.rate x)).tt =
      { (s.rateOut x bits).tt with upshift := if x = .upshift then 0 else (s.rateOut x bits).tt.upshift } := by
    cases x <;> rfl
  rw [after]
  refine ⟨fun hb => ?_, fun hb => ?_⟩
  · obtain ⟨⟨n, hn⟩, -⟩ := rateOut_sent s x hb
    rw [hn, rateLevel_inForce s hp]
    exact ⟨n, rfl⟩
  · rw [rateOut_floor s x hb hp]
    rfl

theorem proposeSwap_tt (d r : Nat) : ∃ n, (s.proposeSwap d r).tt = { s.tt with inFlight := .swap d r n none } := by
  unfold State.proposeSwap State.requestTx
  dsimp only
  split
  · exact ⟨_, rfl⟩
  · exact ⟨none, rfl⟩

end

end Sys2Proof.Machine
end

section
/-!
PROOFS. The periodic beacon of an evaluation (R69, R162): the record it names, its body, and the queue it joins.
-/

namespace Sys2Proof.Machine

-- One proof at a time: the text is compiled as one, and each proof that waits for the others holds a thread.
set_option Elab.async false

/-! ## The record named (R161, R162) -/

/-- When a record was first seen; one never seen comes after all others. -/
def FaultRec.seen (r : FaultRec) : Nat := (r.firstSeen.map BitVec.toNat).getD (2 ^ 32)

/-- `i` is named before `j`: by level, by the time first seen, by place in the table. -/
def State.leads (s : State) (i j : FaultId) : Prop :=
  (s.faultSetting j).level < (s.faultSetting i).level ∨ ((s.faultSetting j).level = (s.faultSetting i).level
    ∧ ((s.faultRec i).seen < (s.faultRec j).seen
      ∨ ((s.faultRec i).seen = (s.faultRec j).seen ∧ i.ctorIdx < j.ctorIdx)))

section
variable {s : State}

theorem outranks_iff (i j : FaultId) : s.outranks i j = true ↔ (s.faultSetting j).level < (s.faultSetting i).level
    ∨ ((s.faultSetting i).level = (s.faultSetting j).level ∧ (s.faultRec i).seen < (s.faultRec j).seen) := by
  simp [State.outranks, FaultRec.seen]

theorem highest_mem {l : List FaultId} {k : FaultId} (h : s.highest l = some k) : k ∈ l := by
  induction l generalizing k with
  | nil => cases h
  | cons i l ih =>
    unfold State.highest at h
    split at h
    · cases h
      exact List.mem_cons_self
    · rename_i j hj
      split at h
      · cases h
        exact List.mem_cons_of_mem _ (ih hj)
      · cases h
        exact List.mem_cons_self

/-- The one that leads all others is the highest of a list in the table's order. -/
theorem highest_eq {l : List FaultId} (order : l.Pairwise fun i j => i.ctorIdx < j.ctorIdx) {i : FaultId} (hi : i ∈ l)
    (leads : ∀ j ∈ l, j ≠ i → s.leads i j) : s.highest l = some i := by
  induction l with
  | nil => cases hi
  | cons j l ih =>
    obtain ⟨after, order⟩ := List.pairwise_cons.mp order
    unfold State.highest
    by_cases hij : i = j
    · subst hij
      cases hk : s.highest l with
      | none => rfl
      | some k =>
        have hkl : k ∈ l := highest_mem hk
        have hne : k ≠ i := by
          rintro rfl
          exact absurd (after _ hkl) (lt_irrefl _)
        refine if_neg ?_
        rw [outranks_iff]
        rcases leads k (List.mem_cons_of_mem _ hkl) hne with h | ⟨h, h' | ⟨h', -⟩⟩ <;> omega
    · have hil : i ∈ l := (List.mem_cons.mp hi).resolve_left hij
      rw [ih order hil fun k hk => leads k (List.mem_cons_of_mem _ hk)]
      refine if_pos ?_
      rw [outranks_iff]
      have := after i hil
      rcases leads j List.mem_cons_self (Ne.symm hij) with h | ⟨h, h' | ⟨-, h'⟩⟩ <;> omega

theorem allFaults_sorted : allFaults.Pairwise fun i j => i.ctorIdx < j.ctorIdx := by decide

theorem highest_eligible {i : FaultId} (hi : s.eligible i = true)
    (leads : ∀ j, s.eligible j = true → j ≠ i → s.leads i j) : s.highest (allFaults.filter s.eligible) = some i :=
  highest_eq (allFaults_sorted.filter _) (List.mem_filter.mpr ⟨mem_allFaults i, hi⟩)
    fun j hj hne => leads j (List.mem_filter.mp hj).2 hne

/-! ## The beacon (R162) -/

theorem beaconBody_active (i : FaultId) : s.beaconBody false i =
    [0] ++ wFault i ++ w8 (s.faultSetting i).level ++ w8 (s.faultRec i).state.ctorIdx
      ++ wBV ((s.faultRec i).firstSeen.getD 0) ++ w8 (s.faultRec i).count
      ++ w8 (allFaults.filter fun j => s.eligible j && j != i).length ++ i16 (s.sup.battV.getD Config.unstatedAverage) := by
  have others : (fun j => j != i && s.eligible j) = fun j => s.eligible j && j != i := by
    funext j
    exact Bool.and_comm _ _
  unfold State.beaconBody
  rw [others]
  rfl

theorem placeUnanswered_full (who : Sender) (msg : List Byte)
    (full : 24 ≤ (s.ss.outQueue.filter fun m => !m.isSend).length) : (s.placeUnanswered who msg).1 =
      s.modCounts fun c => { c with unansweredDropped := inc32 c.unansweredDropped } := by
  have isFull : s.ss.answersFull = true := decide_eq_true full
  unfold State.placeUnanswered
  rw [if_pos (by simp [isFull])]

theorem placeUnanswered_room (who : Sender) (msg : List Byte) (hl : s.le.link = .inService) (room : s.hasRoom) :
    (s.placeUnanswered who msg).1 = s.modSs fun x => x.enqueue who msg := by
  have notFull : s.ss.answersFull = false := by
    have : ¬ Config.answerPlaces ≤ (s.ss.outQueue.filter fun m => !m.isSend).length := Nat.not_le.mpr room
    simpa [SS.answersFull] using this
  unfold State.placeUnanswered
  rw [if_neg (by simp [State.inService, hl, notFull])]

theorem periodicBeacon_out (h : s.le.link ≠ .inService) : s.periodicBeacon = s :=
  if_neg (by simpa [State.inService] using h)

theorem periodicBeacon_none (h : s.highest (allFaults.filter s.eligible) = none) : s.periodicBeacon = s := by
  unfold State.periodicBeacon
  rw [h]
  exact ite_self s

theorem periodicBeacon_some {i : FaultId} (hl : s.le.link = .inService)
    (h : s.highest (allFaults.filter s.eligible) = some i) :
    s.periodicBeacon = (s.placeUnanswered .beacon (message codeBeacon 0 (s.beaconBody false i))).1 := by
  unfold State.periodicBeacon
  rw [if_pos (by simp [State.inService, hl]), h]

theorem only_periodicBeacon (s : State) : Only [.ss] s s.periodicBeacon := by
  unfold State.periodicBeacon
  split
  · split
    · exact .refl _ s
    · exact only_placeUnanswered s _ _
  · exact .refl _ s

end

/-! ## The queue after an evaluation -/

/-- An evaluation has left the link in service, with the records, the averages and the settings as they were, and has
sent at most its own message. -/
structure Served (s v : State) : Prop where
  link : v.le.link = .inService
  fs : v.fs = s.fs
  sup : v.sup = s.sup
  settings : v.settings = s.settings
  queue : ∃ l, v.ss.outQueue = s.ss.outQueue ++ l ∧ ∀ m ∈ l, ∃ n, m.who = .send n
  counts : v.ss.counts = s.ss.counts

namespace Served

section
variable {s v : State} (h : Served s v)
include h

theorem faultRec (i : FaultId) : v.faultRec i = s.faultRec i := by rw [State.faultRec, h.fs]; rfl

theorem faultSetting (i : FaultId) : v.faultSetting i = s.faultSetting i := by rw [State.faultSetting, h.settings]; rfl

theorem eligible (i : FaultId) : v.eligible i = s.eligible i := by
  rw [eligible_eq, eligible_eq, h.faultRec, h.faultSetting, h.settings]

theorem leads {i j : FaultId} (first : s.leads i j) : v.leads i j := by
  simpa only [State.leads, h.faultRec, h.faultSetting] using first

/-- The answers and unanswered messages that wait are the same. -/
theorem unanswered : (v.ss.outQueue.filter fun m => !m.isSend) = s.ss.outQueue.filter fun m => !m.isSend := by
  obtain ⟨l, hq, sends⟩ := h.queue
  have none : (l.filter fun m => !m.isSend) = [] := List.filter_eq_nil_iff.mpr fun m hm => by
    obtain ⟨n, hn⟩ := sends m hm
    simp [OutMsg.isSend, hn]
  rw [hq, List.filter_append, none, List.append_nil]

theorem beacons : (v.ss.outQueue.filter fun m => m.who == .beacon) = s.ss.outQueue.filter fun m => m.who == .beacon := by
  obtain ⟨l, hq, sends⟩ := h.queue
  have none : (l.filter fun m => m.who == .beacon) = [] := List.filter_eq_nil_iff.mpr fun m hm => by
    obtain ⟨n, hn⟩ := sends m hm
    simp [hn]
  rw [hq, List.filter_append, none, List.append_nil]

/-- The highest eligible record is the one that leads in the state before. -/
theorem highest {i : FaultId} (hi : s.eligible i = true) (first : ∀ j, s.eligible j = true → j ≠ i → s.leads i j) :
    v.highest (allFaults.filter v.eligible) = some i :=
  highest_eligible (by rw [h.eligible, hi]) fun j hj hne => h.leads (first j (by rw [← h.eligible, hj]) hne)

/-- With 24 answers and unanswered messages waiting no beacon joins the queue (R69). -/
theorem full_queue (full : 24 ≤ (s.ss.outQueue.filter fun m => !m.isSend).length) :
    v.periodicBeacon.ss.outQueue = v.ss.outQueue := by
  cases hk : v.highest (allFaults.filter v.eligible) with
  | none => rw [periodicBeacon_none hk]
  | some i =>
    rw [periodicBeacon_some h.link hk, placeUnanswered_full _ _ (by rw [h.unanswered]; exact full)]
    rfl

theorem full_dropped (full : 24 ≤ (s.ss.outQueue.filter fun m => !m.isSend).length) {i : FaultId}
    (hi : s.eligible i = true) (first : ∀ j, s.eligible j = true → j ≠ i → s.leads i j) :
    v.periodicBeacon.ss.counts.unansweredDropped = inc32 s.ss.counts.unansweredDropped := by
  rw [periodicBeacon_some h.link (h.highest hi first), placeUnanswered_full _ _ (by rw [h.unanswered]; exact full),
    ← h.counts]
  rfl

/-- With no record eligible there is no beacon. -/
theorem no_beacon (none : ∀ i, s.eligible i = false) : v.periodicBeacon = v :=
  periodicBeacon_none (by
    rw [List.filter_eq_nil_iff.mpr fun i _ => by simp [h.eligible, none i]]
    rfl)

/-- The beacon of the record that leads, with room, is the last of the queue. -/
theorem placed (room : (s.ss.outQueue.filter fun m => !m.isSend).length < 24) {i : FaultId}
    (hi : s.eligible i = true) (first : ∀ j, s.eligible j = true → j ≠ i → s.leads i j) :
    v.periodicBeacon.ss = v.ss.enqueue .beacon (message codeBeacon 0 (s.beaconBody false i)) := by
  have body : v.beaconBody false i = s.beaconBody false i := by
    have same : v.eligible = s.eligible := funext h.eligible
    unfold State.beaconBody
    rw [h.faultRec, h.faultSetting, h.sup, same]
  rw [periodicBeacon_some h.link (h.highest hi first), placeUnanswered_room _ _ h.link (by
    rw [State.hasRoom, h.unanswered]
    exact room), body]
  rfl

end

end Served

end Sys2Proof.Machine
end

section
/-!
PROOFS. EVALUATION as a command (R31, R162): the state after it, link in service or lost, and the beacon.
-/

namespace Sys2Proof.Machine

-- One proof at a time: the text is compiled as one, and each proof that waits for the others holds a thread.
set_option Elab.async false

section
variable {s : State}

/-- The due mark gone (log 8). -/
def State.evalStarted (s : State) : State := s.modLe fun x => { x with evalDue := false }

theorem evaluation_runs (hd : s.dormant = false) (hl : s.le.link = .inService) (he : s.le.evalDue = true) :
    exec .evaluation s = .next s.evalStarted.evaluate.periodicBeacon.settle :=
  congrArg _ ((live_awake s _ hd).trans (congrArg _ (if_pos (by simp [State.inService, hl, he]))))

theorem evaluation_idle (hd : s.dormant = false) (h : s.le.link ≠ .inService ∨ s.le.evalDue = false) :
    exec .evaluation s = .next s.settle :=
  congrArg _ ((live_awake s _ hd).trans (congrArg _ (if_neg (by
    rcases h with h | h <;> simp [State.inService, h]))))

theorem evalCounted_tt (s : State) : s.evalCounted.tt = { s.tt with
    cand := setBits s.tt.down s.evalBits
    lowCounts := List.zipWith (lowCount s.margin) s.tt.down s.tt.lowCounts
    upshift := if s.settings.line.upshiftEnable && decide (11 * total s.tt.down ≤ 10 * s.evalBits.sum) then
      satInc 60 s.tt.upshift else 0 } := rfl

/-- With nothing but the tables changed since, what has been sent has been sent by the evaluation. -/
theorem SentOut.served {w v : State} (h : SentOut w v) (hl : s.le.link = .inService) (hw : w = { s with
    le := { s.le with evalDue := false }, tt := w.tt }) : Served s v := by
  have le : v.le = w.le := h.only.le (by decide)
  have fs : v.fs = w.fs := h.only.fs (by decide)
  have sup : v.sup = w.sup := h.only.sup (by decide)
  have settings : v.settings = w.settings := h.only.settings
  obtain ⟨l, queue⟩ := h.queue
  have counts := h.counts
  rw [hw] at le fs sup settings queue counts
  exact ⟨by rw [le]; exact hl, fs, sup, settings, ⟨l, queue⟩, counts⟩

/-- What an evaluation leaves, in service or not. -/
theorem evaluate_outcome (hl : s.le.link = .inService) :
    (Served s s.evalStarted.evaluate ∨ (s.evalStarted.evaluate.le.link ≠ .inService ∧ s.evalStarted.evaluate.ss.outQueue = []))
    ∧ s.evalStarted.evaluate.le.evalDue = false ∧ s.evalStarted.evaluate.tt.cand = setBits s.tt.down s.evalBits
    ∧ (s.tt.inFlight = .none → s.tt.waitingRate = none →
        s.evalStarted.evaluate.tt.lowCounts = List.zipWith (lowCount s.margin) s.tt.down s.tt.lowCounts
        ∧ (s.evalStarted.evaluate.le.link = .inService →
          s.evalStarted.evaluate.tt.down = s.tt.down ∧ s.evalStarted.evaluate.tt.up = s.tt.up)) := by
  by_cases idle : s.tt.inFlight = .none ∧ s.tt.waitingRate = none
  · have e := evaluate_idle (s := s.evalStarted) idle.1 idle.2
    rcases actOn_outcome s.evalStarted.evalCounted hl s.evalStarted.evalBits s.evalStarted.evalCounted.choose with sent | lost
    · rw [← e] at sent
      have le : s.evalStarted.evaluate.le = s.evalStarted.evalCounted.le := sent.only.le (by decide)
      have tables := sent.tables
      rw [evalCounted_tt] at tables
      exact ⟨.inl (sent.served hl rfl), by rw [le]; rfl, by rw [tables]; rfl,
        fun _ _ => ⟨by rw [tables]; rfl, fun _ => ⟨by rw [tables]; rfl, by rw [tables]; rfl⟩⟩⟩
    · rw [← e] at lost
      exact ⟨.inr ⟨lost.link, lost.queue⟩, lost.evalDue, lost.cand, fun _ _ => ⟨lost.lowCounts, fun h => absurd h lost.link⟩⟩
  · have busy : s.tt.inFlight ≠ .none ∨ s.tt.waitingRate ≠ none := Decidable.not_and_iff_not_or_not.mp idle
    rw [evaluate_busy (s := s.evalStarted) busy]
    exact ⟨.inl ((SentOut.refl s.evalStarted.candidates).served hl rfl), rfl, rfl, fun hf hw => absurd ⟨hf, hw⟩ idle⟩

theorem calm_evaluation (s : State) : Calm allSides s s.evalStarted.evaluate.periodicBeacon :=
  calm_periodicBeacon (calm_evaluate (calm_modLe _ (.refl _ _) rfl rfl))

/-- What the evaluation and its beacon leave in the outbound queue, while the link stays in service (R69, R162). -/
theorem Served.beacon {v : State} (h : Served s v) :
    ((∀ i, s.eligible i = false) ∨ 24 ≤ (s.ss.outQueue.filter fun m => !m.isSend).length →
      (v.periodicBeacon.ss.outQueue.filter fun m => m.who == .beacon) = s.ss.outQueue.filter fun m => m.who == .beacon)
    ∧ (∀ i, s.eligible i = true → (∀ j, s.eligible j = true → j ≠ i → s.leads i j) →
      ((s.ss.outQueue.filter fun m => !m.isSend).length < 24 → ∃ k,
        v.periodicBeacon.ss.outQueue.getLast? = some { who := .beacon, cells := cellsOf k (message 0x38 0 (
            [0] ++ wFault i ++ w8 (s.faultSetting i).level ++ w8 (s.faultRec i).state.ctorIdx
            ++ wBV ((s.faultRec i).firstSeen.getD 0) ++ w8 (s.faultRec i).count
            ++ w8 (allFaults.filter fun j => s.eligible j && j != i).length
            ++ i16 (s.sup.battV.getD Config.unstatedAverage))), started := false }
        ∧ (v.periodicBeacon.ss.outQueue.dropLast.filter fun m => m.who == .beacon)
          = (s.ss.outQueue.filter fun m => m.who == .beacon)
        ∧ v.periodicBeacon.ss.mgmtSeq = (k + 1) % 256)
      ∧ (24 ≤ (s.ss.outQueue.filter fun m => !m.isSend).length →
        v.periodicBeacon.ss.counts.unansweredDropped = inc32 s.ss.counts.unansweredDropped)) := by
  refine ⟨?_, fun i hi first => ⟨fun room => ⟨v.ss.mgmtSeq, ?_⟩, fun full => h.full_dropped full hi first⟩⟩
  · rintro (none | full)
    · rw [h.no_beacon none, h.beacons]
    · rw [h.full_queue full, h.beacons]
  · have queue : v.periodicBeacon.ss.outQueue = v.ss.outQueue ++ [{
        who := .beacon, cells := cellsOf v.ss.mgmtSeq (message codeBeacon 0 (s.beaconBody false i)), started := false }] := by
      rw [h.placed room hi first]
      rfl
    rw [queue, List.getLast?_concat, List.dropLast_concat, h.beacons, beaconBody_active, h.placed room hi first]
    exact ⟨rfl, rfl, rfl⟩

/-- Where the link left service the queue holds no beacon. -/
theorem lost_beacon {v : State} (out : v.le.link ≠ .inService) (hq : v.ss.outQueue = []) :
    ∀ m ∈ v.periodicBeacon.ss.outQueue, m.who ≠ .beacon := by
  rw [periodicBeacon_out out, hq]
  simp

end

end Sys2Proof.Machine
end

section
/-!
PROOFS. The calls reported (R101) through a capacity evaluation, and the RATE that waited behind a swap (R34).
-/

namespace Sys2Proof.Machine

-- One proof at a time: the text is compiled as one, and each proof that waits for the others holds a thread.
set_option Elab.async false

/-! ## The calls reported stay through a capacity evaluation (R102) -/

section
variable {s t : State}

theorem Only.nReported {l : List Block} (h : Only l s t) (hl : Block.cc ∉ l := by decide) :
    t.cc.nReported = s.cc.nReported := by rw [h.cc hl]

end

section
variable (s : State) (p : Port)

theorem nReported_updCall (f : CallRec → CallRec) : (s.updCall p f).cc.nReported = s.cc.nReported := by
  rw [updCall_cc]
  rfl

theorem nReported_callTx (k : TxKind) (body : List Byte) (mark : CallTxs → CallTxs) (hk : k.quiet = true) :
    (s.callTx p k body mark).cc.nReported = s.cc.nReported :=
  (only_requestTx_quiet (s.modCallRaw p fun r => { r with txs := mark r.txs }) k _ _ _ hk).nReported

theorem nReported_releaseCall (c : RelCause) : (s.releaseCall p c).cc.nReported = s.cc.nReported :=
  (nReported_callTx _ p .release _ _ rfl).trans
    ((nReported_updCall _ p _).trans (only_ringOff s p).nReported)

theorem nReported_downgradeCall : (s.downgradeCall p).cc.nReported = s.cc.nReported :=
  (nReported_callTx _ p .coding _ _ rfl).trans (nReported_updCall s p _)

theorem nReported_applyPlan (plan : Plan) : (s.applyPlan p plan).cc.nReported = s.cc.nReported := by
  cases plan with
  | reject => exact nReported_releaseCall s p _
  | silent => exact nReported_updCall s p _
  | ring c =>
    dsimp only [State.applyPlan]
    split
    · exact (only_ringPort _ p c).nReported.trans (nReported_updCall s p _)
    · exact nReported_updCall s p _

theorem nReported_ringDecision : (s.ringDecision p).cc.nReported = s.cc.nReported := by
  unfold State.ringDecision
  split
  · exact nReported_applyPlan s p _
  · exact nReported_updCall s p _

theorem nReported_admitWaiting : (s.admitWaiting p).cc.nReported = s.cc.nReported := by
  unfold State.admitWaiting
  dsimp only
  split
  · exact (nReported_callTx _ p .seize _ _ rfl).trans (nReported_updCall _ p _)
  · refine (nReported_ringDecision _ p).trans ?_
    split
    · exact (only_answer _ _ _ _ _).nReported.trans (nReported_updCall _ p _)
    · exact nReported_updCall _ p _
  · rfl

theorem nReported_retest : (s.retest p).cc.nReported = s.cc.nReported := by
  have tested (room : Bool) : (if room then s.admitWaiting p else s).cc.nReported = s.cc.nReported := by
    cases room
    · rfl
    · exact nReported_admitWaiting s p
  unfold State.retest
  dsimp only
  split
  · exact tested _
  · rfl

theorem nReported_downgradeOver (k : Nat) : (State.downgradeOver k s).cc.nReported = s.cc.nReported := by
  induction k generalizing s with
  | zero => rfl
  | succ k ih =>
    unfold State.downgradeOver
    split
    · rfl
    · split
      · exact (ih _).trans (nReported_downgradeCall s _)
      · rfl

theorem nReported_releaseOver (k : Nat) : (State.releaseOver k s).cc.nReported = s.cc.nReported := by
  induction k generalizing s with
  | zero => rfl
  | succ k ih =>
    unfold State.releaseOver
    split
    · rfl
    · split
      · exact (ih _).trans ((only_faultEvent _ _).nReported.trans (nReported_releaseCall s _ _))
      · rfl

theorem nReported_retestWaiting : s.retestWaiting.cc.nReported = s.cc.nReported := by
  unfold State.retestWaiting
  split <;> exact (nReported_retest _ _).trans (nReported_retest s _)

/-- The downgrades LIFELINE asks for first (R102). -/
theorem nReported_downgradeAll : ([Port.a, .b].foldl (fun s p =>
    if (s.call p).downgradable then s.downgradeCall p else s) s).cc.nReported = s.cc.nReported := by
  have one (t : State) (p : Port) :
      (if (t.call p).downgradable then t.downgradeCall p else t).cc.nReported = t.cc.nReported := by
    split
    · exact nReported_downgradeCall t p
    · rfl
  exact (one _ .b).trans (one s .a)

theorem nReported_handPMin : s.handPMin.cc.nReported = s.cc.nReported := by
  unfold State.handPMin State.evaluateCapacity
  simp only [nReported_retestWaiting, State.modCc_cc, nReported_releaseOver, nReported_downgradeOver]
  split
  · exact nReported_downgradeAll _
  · rfl

end

/-! ## The RATE that waited (R34) -/

section
variable {s t : State}

theorem map_s_swapBits (d r : Nat) (l : List ToneRec) : (swapBits d r l).map (·.s) = l.map (·.s) := by
  have place (x : ToneRec × Nat) : (if x.2 + Config.firstDown = d then { x.1 with b := x.1.b - 1 }
      else if x.2 + Config.firstDown = r then { x.1 with b := x.1.b + 1 } else x.1 : ToneRec).s = x.1.s := by
    split
    · rfl
    · split <;> rfl
  calc (swapBits d r l).map (·.s) = (l.zipIdx.map Prod.fst).map (·.s) := by
        simp only [swapBits, List.map_map, List.map_inj_left, Function.comp_apply]
        exact fun x _ => place x
    _ = l.map (·.s) := by rw [List.zipIdx_map_fst]

/-- What a computed RATE is read from stays. -/
structure RateParts (s t : State) : Prop where
  le : t.le = s.le
  settings : t.settings = s.settings
  sup : t.sup = s.sup
  nReported : t.cc.nReported = s.cc.nReported
  ft : t.ft = s.ft
  tones : t.tt.down.map (·.s) = s.tt.down.map (·.s)

theorem RateParts.effProfile (h : RateParts s t) : t.effProfile = s.effProfile := by
  unfold State.effProfile
  rw [h.sup, h.le]

theorem RateParts.rateBits (h : RateParts s t) (hp : s.le.pending = none) :
    t.rateBits = s.computeDown s.settings.line.requestedMask s.effProfile := by
  have profile : t.rateProfile = s.effProfile := by
    rw [State.rateProfile, h.le, hp, ← h.effProfile]
    rfl
  rw [State.rateBits, profile, h.settings]
  exact computeDown_of_parts h.settings (by rw [h.le]) h.nReported h.ft h.tones _ _

/-- The change ends, and the RATE that waited is sent, or held back by the floor (R34). -/
theorem changeEnded_waiting (h : RateParts s t) (hp : s.le.pending = none) {x : RateReason}
    (hw : t.tt.waitingRate = some x) {bits : List Nat}
    (hb : bits = s.computeDown s.settings.line.requestedMask s.effProfile) (y : ChangeResult) :
    (t.changeEnded y).tt.waitingRate = none ∧ (t.changeEnded y).le = s.le
    ∧ (30 ≤ bits.sum → (t.changeEnded y).tt.lastResult = y ∧ ∃ k, (t.changeEnded y).tt.inFlight
        = .rate ⟨bits, s.settings.line.requestedMask, Profile.level s.le.inForce, x⟩ k none)
    ∧ (bits.sum < 30 → (t.changeEnded y).tt.inFlight = .none ∧ (t.changeEnded y).tt.lastResult = .floor) := by
  have ended : t.changeEnded y =
      (t.modTt fun x => { x with inFlight := .none, lastResult := y, waitingRate := none }).rateOut x bits := by
    have parts : RateParts s (t.modTt fun x => { x with inFlight := .none, lastResult := y, waitingRate := none }) :=
      ⟨h.le, h.settings, h.sup, h.nReported, h.ft, h.tones⟩
    rw [hb, ← parts.rateBits hp]
    unfold State.changeEnded
    rw [hw]
  generalize hz : (t.modTt fun x => { x with inFlight := .none, lastResult := y, waitingRate := none }) = z at ended
  have zle : z.le = s.le := by rw [← hz]; exact h.le
  have zp : z.le.pending = none := by rw [zle, hp]
  have ztt : z.tt = { t.tt with inFlight := .none, lastResult := y, waitingRate := none } := by rw [← hz]; rfl
  have zset : z.settings = s.settings := by rw [← hz]; exact h.settings
  have sent := sentOut_rateOut z x (bits := bits) (.inr zp)
  rw [ended]
  refine ⟨?_, (sent.only.le (by decide)).trans zle, fun hge => ?_, fun hlt => ?_⟩
  · rw [sent.tables, ztt]
  · obtain ⟨⟨n, hn⟩, -⟩ := rateOut_sent z x hge
    rw [hn, ztt, rateLevel_inForce z zp, zle, zset]
    exact ⟨rfl, n, rfl⟩
  · rw [rateOut_floor z x hlt zp, State.modTt_tt, ztt]
    exact ⟨rfl, rfl⟩

theorem rateParts_swapMade (s : State) (d r : Nat) : RateParts s (s.swapMade d r).handPMin := by
  have only := only_handPMin (s.swapMade d r)
  refine ⟨only.le (by decide), only.settings, only.sup (by decide), nReported_handPMin _, only.ft (by decide), ?_⟩
  rw [only.tt (by decide)]
  exact map_s_swapBits d r _

/-- A swap that a NAK ends: the donor's low count starts anew (R33). -/
theorem swapEnded_nak {d r n : Nat} (hf : t.tt.inFlight = .swap d r (some n) none) : t.swapEnded n .nak =
    (t.modTt fun x => { x with
      lowCounts := x.lowCounts.zipIdx.map fun (c, i) => if i + Config.firstDown = d then 0 else c }).changeEnded .refused := by
  unfold State.swapEnded
  rw [hf]
  exact if_neg (by simp)

end

end Sys2Proof.Machine
end

section
/-!
PROOFS. EVALUATION computes the candidate table, takes the action it calls for and places the beacon (R27 to R34, R162).
-/

namespace Sys2Proof.Machine

-- One proof at a time: the text is compiled as one, and each proof that waits for the others holds a thread.
set_option Elab.async false

/-! ## The computed table in the statement's words (R27 to R29) -/

/-- The bits of R27, before a budget. -/
theorem toneBits_list {snr : List Nat} {mask : List Bool} {m : Int} {r27 : List Nat}
    (h : r27 = List.zipWith (fun (x : Nat) k => if k = true ∨ ((x : Int) - 38 - m) / 12 < 2 then 0
      else min 12 (((x : Int) - 38 - m) / 12).toNat) snr mask) : List.zipWith (toneBits m) snr mask = r27 := by
  rw [h]
  congr 1
  funext x k
  exact toneBits_eq m x k

/-- The loading by a profile's budget: the tones that stand before one, as their count or as their bits' sum. -/
theorem loadDown_eq (s : State) {snr r27 : List Nat} {mask : List Bool} {p : Profile}
    {before : Nat → Nat → List Nat} (hr : List.zipWith (toneBits s.margin) snr mask = r27)
    (hb : ∀ i b, before i b = bitsBefore r27 i b) :
    s.loadDown snr mask p = (r27.zipIdx.map fun y =>
      if (match p with
          | .full => decide ((before y.2 y.1).length < 224)
          | .trim => decide ((before y.2 y.1).length < 160)
          | .lifeline => decide ((before y.2 y.1).sum < s.need)) = true then y.1 else 0) := by
  obtain rfl : before = bitsBefore r27 := by
    funext i b
    exact hb i b
  rw [← hr]
  cases p <;> rfl

/-! ## The counts and the choice in the statement's words (R31, R32) -/

theorem lowCount_eq (m : Int) (t : ToneRec) (c : Nat) : lowCount m t c =
    if t.b = 0 then 0 else if t.qdb < m - 12 then min 4 (c + 1) else 0 := by
  unfold lowCount
  rw [margin_eq]
  by_cases hb : t.b = 0
  · rw [if_pos hb, if_pos hb]
  · rw [if_neg hb, if_neg hb]

theorem overBudget_iff (s : State) {bits : List Nat}
    (hb : bits = s.computeDown s.settings.line.requestedMask s.effProfile) : s.overBudget ↔
      (match s.effProfile with
        | .full => 224
        | .trim => 160
        | .lifeline => (bits.filter fun b => b ≠ 0).length)
      < ((s.tt.down.map (·.b)).filter fun b => b ≠ 0).length := by
  obtain ⟨full, trim, lifeline⟩ := budgetCount_eq s
  unfold State.overBudget
  cases hp : s.effProfile with
  | full => rw [full]; rfl
  | trim => rw [trim]; rfl
  | lifeline =>
    rw [hp] at hb
    rw [lifeline, ← hb]
    rfl

/-- The tables once the counts have been taken. -/
theorem evalCounted_tables {s : State} {bits low : List Nat} {up : Nat} (hbits : bits = s.evalBits)
    (hlow : low = List.zipWith (fun (t : ToneRec) c =>
      if t.b = 0 then 0 else if t.qdb < s.margin - 12 then min 4 (c + 1) else 0) s.tt.down s.tt.lowCounts)
    (hup : up = (if s.settings.line.upshiftEnable = true ∧ 11 * (s.tt.down.map (·.b)).sum ≤ 10 * bits.sum
      then min 60 (s.tt.upshift + 1) else 0)) :
    s.evalStarted.evalCounted.tt = { s.tt with
      cand := List.zipWith (fun r b => { r with b := b }) s.tt.down bits, lowCounts := low, upshift := up } := by
  have counts : lowCount s.margin = fun (t : ToneRec) c =>
      if t.b = 0 then 0 else if t.qdb < s.margin - 12 then min 4 (c + 1) else 0 := by
    funext t c
    exact lowCount_eq s.margin t c
  have grows : (s.settings.line.upshiftEnable && decide (11 * total s.tt.down ≤ 10 * s.evalBits.sum)) = true ↔
      s.settings.line.upshiftEnable = true ∧ 11 * (s.tt.down.map (·.b)).sum ≤ 10 * bits.sum := by
    rw [hbits, Bool.and_eq_true, decide_eq_true_eq]
    rfl
  rw [hlow, hup, ← counts, ← if_congr grows rfl rfl, hbits]
  rfl

/-! ## The action chosen (R32) -/

/-- With nothing in flight or waiting and no profile pending, an evaluation takes the action chosen. -/
theorem evaluation_acts {s : State} (hd : s.dormant = false) (hl : s.le.link = .inService) (he : s.le.evalDue = true)
    (hf : s.tt.inFlight = .none) (hw : s.tt.waitingRate = none) (hp : s.le.pending = none) :
    ∃ u : State, exec .evaluation s = .next u.settle ∧ u.le = { s.le with evalDue := false }
      ∧ u.tt = (s.evalStarted.evalCounted.actOn s.evalBits s.evalStarted.evalCounted.choose).tt := by
  refine ⟨_, evaluation_runs hd hl he, ?_⟩
  have beacon := only_periodicBeacon s.evalStarted.evaluate
  rw [beacon.le (by decide), beacon.tt (by decide), evaluate_idle (s := s.evalStarted) hf hw]
  exact ⟨(sentOut_actOn s.evalStarted.evalCounted (.inr hp) _).only.le (by decide), rfl⟩

/-! ## The RATE that waited behind a swap (R34) -/

/-- A swap that is applied, and one that a NAK ends, send the RATE that waits. -/
theorem swap_ended {s : State} (hd : s.dormant = false) (hl : s.le.link = .inService) {x : RateReason}
    (hw : s.tt.waitingRate = some x) {d r n : Nat} {c : Instr} {y : ChangeResult}
    (hc : (c = .swapApply ∧ y = .applied ∧ s.tt.inFlight = .swap d r (some n) (some s.le.sf))
        ∨ (∃ cause, c = .nak (BitVec.ofNat 8 n) 1 [cause] ∧ y = .refused ∧ n < 16
            ∧ s.tt.inFlight = .swap d r (some n) none
            ∧ (s.ss.txs.find? fun t => t.number == n).map (·.req.kind) = some .swap ∧ s.ss.waiting = [])) :
    ∃ t, exec c s = .next (t.changeEnded y).settle ∧ RateParts s t ∧ t.tt.waitingRate = some x := by
  rcases hc with ⟨rfl, rfl, hf⟩ | ⟨cause, rfl, rfl, hn, hf, ht, hwait⟩
  · refine ⟨_, swapApply_runs hd hl hf, rateParts_swapMade s d r, ?_⟩
    rw [(only_handPMin _).tt (by decide)]
    exact hw
  · obtain ⟨t, found, kind⟩ := Option.map_eq_some_iff.mp ht
    have number : (BitVec.ofNat 8 n).toNat = n := by
      rw [BitVec.toNat_ofNat, Nat.mod_eq_of_lt (by omega)]
    have run := nak_acked hd hl (by rw [number]; exact found) hwait cause
    rw [number, (txEnded_line _ _).1 kind, swapEnded_nak (t := s.acked n) (d := d) (r := r) hf] at run
    exact ⟨_, run, ⟨rfl, rfl, rfl, rfl, rfl, rfl⟩, hw⟩

/-- Settles O41: the evaluation as its stages, its outbound queue, and the table it computes, each by its lemmas. -/
theorem evaluationComputes : Obligations.EvaluationComputes := by
  unfold Obligations.EvaluationComputes
  refine ⟨?_, fun s => evaluation_idle, fun s i => eligible_eq i, ?_, ?_, ?_⟩
  · intro s seen hd hl he hseen
    obtain rfl : seen = FaultRec.seen := funext hseen
    obtain ⟨left, due, cand, counted⟩ := evaluate_outcome hl
    have calm := calm_evaluation s
    have beacon := only_periodicBeacon s.evalStarted.evaluate
    have le := beacon.le (by decide)
    have tt := beacon.tt (by decide)
    refine ⟨_, evaluation_runs hd hl he, ?_⟩
    rw [le, tt]
    refine ⟨due, cand, ?_, fun hf hw => (counted hf hw).1, fun hf hw => (counted hf hw).2, fun hin => ?_, fun out => ?_,
      calm.settings, calm.sts, calm.uptime, calm.mode, calm.custody, calm.accounts, calm.requests⟩
    · intro busy
      rw [evaluate_busy (s := s.evalStarted) busy]
      exact ⟨rfl, rfl⟩
    · exact (left.resolve_right fun lost => lost.1 hin).beacon
    · exact lost_beacon out (left.resolve_left fun served => out served.link).2
  · rintro snr r27 mask p m before s rfl hr hb
    exact ⟨loadDown_eq s (toneBits_list hr) fun i b => (hb i b).trans (bitsBefore_eq r27 i b).symm, rfl, need_eq s⟩
  · intro s bits low up tt m margin masked excess hd hl he hf hw hp hm hmargin hbits hlow hup htt hmasked hexcess
    obtain rfl : margin = ToneRec.qdb := funext hmargin
    obtain rfl : m = s.margin := hm
    obtain ⟨u, run, le, act⟩ := evaluation_acts hd hl he hf hw hp
    have tables : s.evalStarted.evalCounted.tt = tt := (evalCounted_tables hbits hlow hup).trans htt.symm
    have lowed : s.evalStarted.evalCounted.tt.lowCounts = low := congrArg Tables.lowCounts (tables.trans htt)
    have upped : s.evalStarted.evalCounted.tt.upshift = up := congrArg Tables.upshift (tables.trans htt)
    have mask : s.evalStarted.evalCounted.masksLoaded ↔ masked := hmasked.symm
    have exceeds : s.evalStarted.evalCounted.overBudget ↔ excess := by
      rw [hexcess]
      exact overBudget_iff s.evalStarted.evalCounted hbits
    obtain rfl : bits = s.evalBits := hbits
    refine ⟨u, run, le, fun x hx => ?_, ?_, ?_⟩
    · have chosen : s.evalStarted.evalCounted.choose = .rate x := choose_rate (by
        rw [mask, exceeds, lowed, upped]
        refine hx.imp id (Or.imp id (Or.imp id ?_))
        rintro ⟨hx, hm, ho, hc, h⟩
        exact ⟨hx, hm, ho, hc, lowTone_downshift h⟩)
      rw [act, chosen, ← upped, ← tables]
      exact actOn_rate s.evalStarted.evalCounted hp x s.evalBits
    · intro i j d r hmk hex hlw hi hdb hdm least hj hrb hr12 hrm most
      have chosen := choose_low (mask.not.mpr hmk) (exceeds.not.mpr hex) (by rw [lowed]; exact hlw)
      obtain ⟨held, swaps⟩ := lowTone_swap (s := s.evalStarted.evalCounted)
        (donor_eq hi (by omega) least) (receiver_eq hj hrb hr12 hrm most) hdb hdm
      refine ⟨fun e hlast soon => ?_, fun late => ?_⟩
      · rw [act, chosen, held e hlast soon]
        exact tables
      · rw [act, chosen, swaps late, ← tables]
        exact proposeSwap_tt _ _ _
    · intro hmk hex hlw hu
      have chosen := choose_calm (mask.not.mpr hmk) (exceeds.not.mpr hex) (by rw [lowed]; exact hlw)
      rw [upped, if_neg (by omega)] at chosen
      rw [act, chosen]
      exact tables
  · intro d r n x bits s hd hl hw hp hbits c y hc
    obtain ⟨t, run, parts, waits⟩ := swap_ended hd hl hw hc
    exact ⟨_, run, changeEnded_waiting parts hp waits hbits y⟩

end Sys2Proof.Machine
end

section
/-!
PROOFS. What a request's arguments read as (R168, R172), and the requests answered by one reply formed at once (R171).
-/

namespace Sys2Proof.Machine

-- One proof at a time: the text is compiled as one, and each proof that waits for the others holds a thread.
set_option Elab.async false

/-! ## Arguments of a request (R168) -/

section
variable {α β : Type}

theorem enumOf_known {vals : List α} {n : Nat} {a : α} (h : vals[n]? = some a) : enumOf vals n = .known a := by
  simp [enumOf, h]

theorem enumOf_outside {vals : List α} {n : Nat} (h : vals.length ≤ n) : enumOf vals n = .outside n := by
  simp [enumOf, List.getElem?_eq_none h]

theorem rReq_present {f : Reader α} {l r : List Byte} {a : α} (h : f l = some (a, r)) :
    rReq f (1 :: l) = some (a, r) := by
  simp [rReq, rArg, h]

theorem readAll_rPair {f : Reader α} {g : Reader β} {l r : List Byte} {a : α} {b : β} (hf : f l = some (a, r))
    (hg : g r = some (b, [])) : readAll (rPair f g) l = some (a, b) := by
  simp [readAll, rPair, hf, hg]

theorem readAll_rReq_rEnum (vals : List α) (b : Byte) :
    readAll (rReq (rEnum vals)) [1, b] = some (enumOf vals b.toNat) := rfl

theorem rPort_wPort (p : Port) (l : List Byte) : rPort (wPort p ++ l) = some (.known p, l) := by
  cases p <;> rfl

/-- A byte that is the code of neither port. -/
theorem rPort_outside {b : Byte} (ha : b ≠ 1) (hb : b ≠ 2) (l : List Byte) :
    rPort (b :: l) = some (.outside b.toNat, l) := by
  have one : b.toNat ≠ 1 := fun e => ha (BitVec.eq_of_toNat_eq e)
  have two : b.toNat ≠ 2 := fun e => hb (BitVec.eq_of_toNat_eq e)
  unfold rPort
  simp only [rByte, Option.map_some]

/-- An optional CLEAR that is another value. -/
theorem rArg_clear_outside {b : Byte} (h : b ≠ 0) :
    rArg (rEnum [()]) [1, b] = some (some (.outside b.toNat), []) := by
  have pos : [()].length ≤ b.toNat := Nat.pos_of_ne_zero fun e => h (BitVec.eq_of_toNat_eq e)
  have read : rArg (rEnum [()]) [1, b] = some (some (enumOf [()] b.toNat), []) := rfl
  rw [read, enumOf_outside pos]

theorem readAll_clear_outside {b : Byte} (h : b ≠ 0) :
    readAll (rArg (rEnum [()])) [1, b] = some (some (.outside b.toNat)) := by
  rw [readAll, rArg_clear_outside h]

end

/-! ## A request that is executed at once (R171) -/

section
variable {α : Type} [DecidableEq α] {s : State} {code : Nat} {c : Byte} {rest : List Byte} {f : Reader α} {a : α}
  {run : State → State}

/-- A request whose body reads as the command's arguments runs. -/
theorem request_runs {u : State} (h : s.asks (c :: rest)) (hr : readAll f rest = some a) (hrun : run s = u)
    (hc : c.toNat = code := by rfl) :
    (.next (s.live fun s => s.request code f a run) : Host.Outcome State Fault Refusal) = .next u.settle := by
  rw [live_request run h hc hr, hrun]

/-- One answered from a state that holds the same requests. -/
theorem request_answered {t : State} {result : Code} {fields : List Byte} (h : s.asks (c :: rest))
    (hr : readAll f rest = some a) (hrun : run s = t.reply ⟨result, fields⟩)
    (ht : t.plk.requests = s.plk.requests := by rfl) (hc : c.toNat = code := by rfl) :
    (.next (s.live fun s => s.request code f a run) : Host.Outcome State Fault Refusal) =
      .next (t.replied c result fields).settle :=
  request_runs h hr (hrun.trans (reply_eq ((asked_congr ht).trans h.2) _)) hc

end

end Sys2Proof.Machine
end

section
/-!
PROOFS. GATE_STATUS (R54), SCHEDULE_STATUS (R76) and PORT_STATUS (R95): the reply before the clearing, the clearing, and
the fields.
-/

namespace Sys2Proof.Machine

-- One proof at a time: the text is compiled as one, and each proof that waits for the others holds a thread.
set_option Elab.async false

/-! ## The three requests by their argument CLEAR -/

section
variable (s : State)

theorem gateStatus_absent : s.gateStatus none = s.reply (.ok s.gateStatusFields) := rfl

theorem gateStatus_clear : s.gateStatus (some (.known ())) =
    (s.reply (.ok s.gateStatusFields)).modFt fun x => { x with stats := ⟨0, 0, 0, 0, 0⟩ } := rfl

theorem gateStatus_outside (c : Nat) : s.gateStatus (some (.outside c)) = s.reply (.no .badArgument) := rfl

theorem scheduleStatus_absent : s.scheduleStatus none = s.reply (.ok s.scheduleStatusFields) := rfl

theorem scheduleStatus_clear : s.scheduleStatus (some (.known ())) =
    (s.reply (.ok s.scheduleStatusFields)).modSs fun x => { x with counts := Reset.ssCounts } := rfl

theorem scheduleStatus_outside (c : Nat) : s.scheduleStatus (some (.outside c)) = s.reply (.no .badArgument) := rfl

theorem portStatus_absent (p : Port) : s.portStatus (.known p) none = s.reply (.ok (s.portStatusFields p)) := rfl

theorem portStatus_clear (p : Port) : s.portStatus (.known p) (some (.known ())) =
    (s.reply (.ok (s.portStatusFields p))).modPort p fun x => { x with counts := ⟨0, 0, 0, 0, 0, 0, 0, 0⟩ } := rfl

theorem portStatus_outside (p : Enum Port) (c : Nat) :
    s.portStatus p (some (.outside c)) = s.reply (.no .badArgument) := by
  cases p <;> rfl

theorem portStatus_noPort (n : Nat) (c : Option (Enum Unit)) :
    s.portStatus (.outside n) c = s.reply (.no .badArgument) := rfl

/-! ## The fields in the statement's words (R168) -/

/-- The tracker state as R40 numbers it: AGREED comes before the tracking status (3.1). -/
theorem tracker_idx : s.tracker.ctorIdx =
    if (∃ a, s.ft.agreement = some a ∧ a.active = true) then 2 else if s.ft.tracking = .locked then 1 else 0 := by
  have agreed : (s.ft.agreement.map (·.active)).getD false = true ↔
      ∃ a, s.ft.agreement = some a ∧ a.active = true := by
    cases s.ft.agreement <;> simp
  unfold State.tracker
  by_cases h : (s.ft.agreement.map (·.active)).getD false = true
  · rw [if_pos h, if_pos (agreed.mp h)]
    rfl
  · rw [if_neg h, if_neg (agreed.not.mp h)]
    cases s.ft.tracking <;> rfl

theorem driverOn_eq (l : LinkState) : l.driverOn = (l != .idle && l != .testHold) := by
  cases l <;> rfl

theorem wFirst_eq (b : Bool) : wFirst b = wIdx (if b then 0 else 1) := by
  cases b <;> rfl

end

/-- The counts of R76 in their order. -/
theorem ssCounts_bytes (c : SsCounts) : c.bytes =
    [c.accepted, c.noRoom, c.empty, c.mgmtCells, c.dataCells, c.idleCells, c.slotsOmitted, c.checkFails,
      c.formatFaults, c.orphans, c.cellsSequence, c.delivered, c.unitsCheck, c.unitsSequence, c.unitsLong, c.unitsRoom,
      c.unitsPower, c.unitsLink, c.messages, c.malformed, c.unknownType, c.repeats, c.answersDropped,
      c.unansweredDropped, c.unmatched, c.failed].flatMap w32 := by
  unfold SsCounts.bytes
  simp only [List.flatMap_cons, List.flatMap_nil, List.append_nil, List.append_assoc]

/-- The counts of R95 in their order. -/
theorem portCounts_bytes (c : PortCounts) : c.bytes =
    [c.offHooks, c.pulseDigits, c.toneDigits, c.trainsDiscarded, c.glitches, c.ringTrips, c.overcurrents,
      c.ringOverloads].flatMap w32 := by
  unfold PortCounts.bytes
  simp only [List.flatMap_cons, List.flatMap_nil, List.append_nil, List.append_assoc]

/-- The seven request types of the far end follow the fields before them, in the order of R67. -/
theorem append_repeats (l : List Byte) (r : Repeats) :
    l ++ r.alert.bytes ++ r.clear.bytes ++ r.answered.bytes ++ r.upTable.bytes ++ r.retrain.bytes ++ r.testReq.bytes
      ++ r.beaconClear.bytes =
    l ++ [r.alert, r.clear, r.answered, r.upTable, r.retrain, r.testReq, r.beaconClear].flatMap Repeat.bytes := by
  simp only [List.flatMap_cons, List.flatMap_nil, List.append_nil, List.append_assoc]

theorem tx_bytes (t : Tx) : t.bytes =
    wIdx t.req.kind.ctorIdx ++ (match t.req.port with | none => [0] | some .a => [1] | some .b => [2])
      ++ w8 t.number ++ w8 t.sends ++ wOpt w8 t.timeLeft := by
  unfold Tx.bytes
  match t.req.port with
  | none => rfl
  | some .a => rfl
  | some .b => rfl

/-! ## The obligation -/

/-- Settles O21: each request by its argument CLEAR; the fields are those of the model once the numbers of 3.1 and R168
stand as `tracker_idx`, `driverOn_eq`, `wFirst_eq` and `tx_bytes` give them. -/
theorem statusReadsClear : Obligations.StatusReadsClear := by
  intro s
  refine ⟨fun h => request_answered h rfl (gateStatus_absent s), fun h => request_runs h rfl ?_,
    fun b hb h => request_answered h (readAll_clear_outside hb) (gateStatus_outside s _),
    fun h => request_answered h rfl (scheduleStatus_absent s), fun h => request_runs h rfl ?_,
    fun b hb h => request_answered h (readAll_clear_outside hb) (scheduleStatus_outside s _),
    fun p h => request_answered h (readAll_rPair (rReq_present (rPort_wPort p _)) rfl) (portStatus_absent s p),
    fun p h => request_runs h (readAll_rPair (rReq_present (rPort_wPort p _)) rfl) ?_,
    fun p b hb h => request_answered h (readAll_rPair (rReq_present (rPort_wPort p _)) (rArg_clear_outside hb))
      (portStatus_outside s _ _),
    fun b ha hb h => request_answered h (readAll_rPair (rReq_present (rPort_outside ha hb _)) rfl)
      (portStatus_noPort s _ _), ?_, ?_, ?_⟩
  · rw [gateStatus_clear, reply_eq h.2]
    rfl
  · rw [scheduleStatus_clear, reply_eq h.2]
    rfl
  · rw [portStatus_clear, reply_eq h.2]
    rfl
  · unfold State.gateStatusFields
    simp only [tracker_idx, driverOn_eq, wFirst_eq]
    rfl
  · unfold State.scheduleStatusFields
    simp only [append_repeats, ssCounts_bytes, funext tx_bytes]
    rfl
  · rintro p x g c rfl rfl rfl
    refine ⟨?_, rfl⟩
    unfold State.portStatusFields
    simp only [portCounts_bytes]
    rfl

end Sys2Proof.Machine
end

section
/-!
PROOFS. GATE_CONFIGURE (R53), SUPPLY_CONFIGURE (R140), MEASURE_CONFIGURE (R127) and SNAPSHOT (R124): the group as
applied, and the refusals.
-/

namespace Sys2Proof.Machine

-- One proof at a time: the text is compiled as one, and each proof that waits for the others holds a thread.
set_option Elab.async false

variable (s : State)

/-! ## GATE_CONFIGURE (R53) -/

/-- What GATE_CONFIGURE asks of the group. -/
def configuredGate (x : GateSettings) (h w i : Option Nat) (a : Option Bool) : GateSettings :=
  { hitThreshold := takeNat 6 24 x.hitThreshold h, windowWidth := takeNat 2 8 x.windowWidth w
    impulseThreshold := takeNat 1 100 x.impulseThreshold i, agreementEnable := a.getD x.agreementEnable }

theorem gateConfigure_known (h w i : Option Nat) (a : Option Bool) {g : GateSettings}
    (hg : g = configuredGate s.settings.gate h w i a) :
    s.gateConfigure h w i (a.map .known) = (s.modSettings fun y => { y with gate := g }).reply
      (.ok (w8 g.hitThreshold ++ w8 g.windowWidth ++ w8 g.impulseThreshold ++ wBool g.agreementEnable)) := by
  unfold State.gateConfigure
  dsimp only
  rw [takeEnum_known, hg]
  rfl

theorem gateConfigure_outside (h w i : Option Nat) (c : Nat) :
    s.gateConfigure h w i (some (.outside c)) = s.reply (.no .badArgument) := rfl

/-! ## SUPPLY_CONFIGURE (R140) -/

theorem supplyConfigure_eq (t c r : Option Nat) {g : SupplySettings} (hg : g = takeSupply s.settings.supply t c r) :
    s.supplyConfigure t c r = (s.modSettings fun y => { y with supply := g }).reply
      (.ok (w16 g.reserveThreshold ++ w16 g.cutoff ++ w8 g.renLimit)) := by
  rw [hg]
  rfl

/-! ## The enables of MEASURE_CONFIGURE (R127) -/

/-- The enables a list asks for; the supervision channels stay enabled. -/
def listedEnables (l : List Bool) : PerChan Bool :=
  PerChan.mapAll (fun c i => Chan.supervision c || (l[i]?).getD false) ⟨0, 1, 2, 3, 4, 5, 6, 7, 8, 9, 10, 11⟩

theorem listedEnables_get (l : List Bool) (c : Chan) :
    (listedEnables l).get c = (Chan.supervision c || (l[c.ctorIdx]?).getD false) := by
  have place : (⟨0, 1, 2, 3, 4, 5, 6, 7, 8, 9, 10, 11⟩ : PerChan Nat).get c = c.ctorIdx := by cases c <;> rfl
  rw [listedEnables, perChan_get_mapAll, place]

variable (old : PerChan Bool)

theorem takeEnables_length {l : List (Enum Bool)} (h : l.length ≠ 12) : takeEnables old (some l) = none := if_neg h

/-- The values a list of enables names, in their order. -/
theorem filterMap_known {f : Enum Bool → Option Bool} (hf : ∀ b, f (.known b) = some b) (l : List Bool) :
    (l.map Enum.known).filterMap f = l := by
  rw [List.filterMap_map, show f ∘ Enum.known = some from funext hf, List.filterMap_some]

theorem takeEnables_known {l : List Bool} (h : l.length = 12) :
    takeEnables old (some (l.map .known)) = some (listedEnables l) := by
  unfold takeEnables
  dsimp only
  rw [if_pos (by rw [List.length_map, h]), filterMap_known (fun _ => rfl), if_pos h]
  rfl

theorem takeEnables_outside {l : List (Enum Bool)} {c : Nat} (h : .outside c ∈ l) :
    takeEnables old (some l) = none := by
  by_cases hl : l.length = 12
  · unfold takeEnables
    dsimp only
    rw [if_pos hl, if_neg]
    intro all
    rw [← hl, List.filterMap_length_eq_length] at all
    simpa using all _ h
  · exact takeEnables_length old hl

/-! ## MEASURE_CONFIGURE (R127) -/

theorem enables_fit {es : Option (List (Enum Bool))} (h : ∀ l, es = some l → l.length ≤ 12) :
    ¬12 < (es.map List.length).getD 0 := by
  cases es with
  | none => exact Nat.not_lt_zero _
  | some l => exact Nat.not_lt.mpr (h l rfl)

section
variable {s} {r : Option (Enum SweepRate)} {es : Option (List (Enum Bool))} {k : Option (Enum SnapKind)}

theorem measureConfigure_busy (hp : s.mu.pending ≠ none) (hl : ∀ l, es = some l → l.length ≤ 12) :
    s.measureConfigure r es k = s.reply (.no .busy) := by
  unfold State.measureConfigure
  dsimp only
  rw [if_neg (enables_fit hl), if_pos (Option.isSome_iff_ne_none.mpr hp)]

theorem measureConfigure_refused (hp : s.mu.pending = none) (h : takeEnum s.settings.measure.rate r = none
    ∨ takeEnum s.settings.measure.kind k = none ∨ takeEnables s.settings.measure.enables es = none) :
    s.measureConfigure r es k = s.reply (.no .badArgument) := by
  unfold State.measureConfigure
  dsimp only
  split
  · rfl
  · rw [hp, if_neg (by simp)]
    split
    · rename_i hr he hk
      simp [hr, he, hk] at h
    · rfl

end

theorem measureConfigure_known {r : Option SweepRate} {es : Option (List (Enum Bool))} {k : Option SnapKind}
    {e : PerChan Bool} (hp : s.mu.pending = none) (hl : ∀ l, es = some l → l.length = 12)
    (he : takeEnables s.settings.measure.enables es = some e) {g : MeasureSettings}
    (hg : g = ⟨r.getD s.settings.measure.rate, e, k.getD s.settings.measure.kind⟩) :
    s.measureConfigure (r.map .known) es (k.map .known) =
      (s.modSettings fun y => { y with measure := g }).reply (.ok (measureBytes g)) := by
  unfold State.measureConfigure
  dsimp only
  rw [if_neg (enables_fit fun l e => (hl l e).le), hp, if_neg (by simp), takeEnum_known, takeEnum_known, he, hg]

/-- The enables MEASURE_CONFIGURE applies: those of the group, or the list's. -/
theorem takeEnables_applies {es : Option (List Bool)} (hl : ∀ l, es = some l → l.length = 12) :
    ∃ e, takeEnables old (es.map (·.map .known)) = some e ∧ (es = none → e = old)
      ∧ ∀ l, es = some l → ∀ c : Chan, e.get c = (Chan.supervision c || (l[c.ctorIdx]?).getD false) := by
  cases es with
  | none => exact ⟨old, rfl, fun _ => rfl, by simp⟩
  | some l =>
    refine ⟨listedEnables l, takeEnables_known old (hl l rfl), by simp, ?_⟩
    rintro _ ⟨⟩ c
    exact listedEnables_get l c

/-! ## SNAPSHOT (R124) -/

theorem snapshotRequest_busy (hp : s.mu.pending ≠ none) (k : SnapKind) :
    s.snapshotRequest (.known k) = s.reply (.no .busy) := if_pos (Option.isSome_iff_ne_none.mpr hp)

theorem snapshotRequest_pending (hp : s.mu.pending = none) (k : SnapKind) : s.snapshotRequest (.known k) =
    (s.modMu fun x => { x with pending := some { cause := .requested, kind := k } }).reply
      (.ok (w16 ((s.mu.snapNumber + 1) % 65536))) := if_neg (by simp [hp])

theorem snapshotRequest_outside (c : Nat) : s.snapshotRequest (.outside c) = s.reply (.no .badArgument) := rfl

theorem readAll_snapKind {b : Byte} {k : SnapKind} (h : b.toNat = k.ctorIdx) :
    readAll (rReq (rEnum snapKinds)) [1, b] = some (.known k) := by
  have place : snapKinds[k.ctorIdx]? = some k := by cases k <;> rfl
  rw [readAll_rReq_rEnum, enumOf_known (h ▸ place)]

theorem readAll_snapKind_outside {b : Byte} (h : 2 ≤ b.toNat) :
    readAll (rReq (rEnum snapKinds)) [1, b] = some (.outside b.toNat) := by
  rw [readAll_rReq_rEnum, enumOf_outside h]

/-! ## The obligation -/

/-- Settles O24: each group as applied by its own lemma, and the refusals by theirs. -/
theorem unitConfiguresSet : Obligations.UnitConfiguresSet := by
  refine ⟨⟨fun h w i a rest s ask hr => ?_,
      fun h w i c rest s ask hr => request_answered ask hr (gateConfigure_outside s h w i c),
      fun t c r rest s ask hr => ?_, fun r k es rest s ask hr => ⟨fun hp hl => ?_, fun hp hl => ?_, fun hp hl => ?_⟩⟩,
    fun r es k rest s ask hr => ⟨fun hp hl => request_answered ask hr (measureConfigure_busy hp hl), fun hp ho => ?_⟩,
    fun b s ask => ⟨fun k hk => ?_, fun hb => ?_⟩⟩
  · exact ⟨configuredGate s.settings.gate h w i a, rfl, rfl, rfl, rfl,
      request_answered ask hr (gateConfigure_known s h w i a rfl)⟩
  · exact ⟨takeSupply s.settings.supply t c r, rfl, rfl, rfl,
      request_answered ask hr (supplyConfigure_eq s t c r rfl)⟩
  · refine request_answered ask hr (measureConfigure_busy (Option.isSome_iff_ne_none.mp hp) ?_)
    simpa using hl
  · obtain ⟨l, rfl, hl⟩ := hl
    exact request_answered ask hr (measureConfigure_refused hp (.inr (.inr (takeEnables_length _ (by simpa using hl)))))
  · obtain ⟨e, he, kept, listed⟩ := takeEnables_applies s.settings.measure.enables hl
    exact ⟨⟨r.getD s.settings.measure.rate, e, k.getD s.settings.measure.kind⟩, rfl, rfl, kept, listed,
      request_answered ask hr (measureConfigure_known s hp (by simpa using hl) he rfl)⟩
  · refine request_answered ask hr (measureConfigure_refused hp ?_)
    rcases ho with ⟨c, rfl⟩ | ⟨c, rfl⟩ | ⟨l, c, rfl, hc⟩
    · exact .inl rfl
    · exact .inr (.inl rfl)
    · exact .inr (.inr (takeEnables_outside _ hc))
  · have read := readAll_snapKind hk
    exact ⟨fun hp => request_answered ask read (snapshotRequest_busy s hp k),
      fun hp => request_answered ask read (snapshotRequest_pending s hp k)⟩
  · exact request_answered ask (readAll_snapKind_outside hb) (snapshotRequest_outside s _)

end Sys2Proof.Machine
end

section
/-!
PROOFS. WINDOW_MISSED (R44) and IMPULSE_SECOND_CLOSE (R52): what a miss does to the tracking, and what the close of a
counting second does to the runs and to the record of IMPULSE_NOISE.
-/

namespace Sys2Proof.Machine

-- One proof at a time: the text is compiled as one, and each proof that waits for the others holds a thread.
set_option Elab.async false

/-! ## A missed window (R44) -/

section
variable {x : FT} (p : Nat) (n : Sym)

theorem miss_moves (h : x.misses < 2) : x.miss p n = { x with
    window := none, next := some (n + BitVec.ofNat 32 p), misses := x.misses + 1
    stats := { x.stats with missed := inc32 x.stats.missed } } := if_neg (Nat.not_le.mpr h)

theorem miss_loses (h : 2 ≤ x.misses) : x.miss p n = { x with
    window := none, tracking := .searching, arrivals := [], period := none, next := none, misses := 0
    stats := { x.stats with missed := inc32 x.stats.missed } } := if_pos h

end

section
variable {s : State} {w : Window} {p : Nat} {n : Sym} (hd : s.dormant = false) (ht : s.ft.tracking = .locked)
  (hw : s.ft.window = some w) (hp : s.ft.period = some p) (hn : s.ft.next = some n)
include hd ht hw hp hn

/-- WINDOW_MISSED by the window that runs. -/
theorem windowMissed_runs : exec .windowMissed s = .next (State.settle
    (if s.le.link.driverOn && !w.caught && decide ((w.width : Int) ≤ dist s.le.sym w.start) then
      s.ftUpd fun x => x.miss p n else s)) := by
  refine congrArg Host.Outcome.next ((live_awake _ _ hd).trans ?_)
  rw [ht, hw, hp, hn]

theorem windowMissed_misses (hon : s.le.link.driverOn = true) (hc : w.caught = false)
    (passed : (w.width : Int) ≤ dist s.le.sym w.start) :
    exec .windowMissed s = .next (s.ftUpd fun x => x.miss p n).settle := by
  rw [windowMissed_runs hd ht hw hp hn, if_pos (by simp [hon, hc, passed])]

theorem windowMissed_idle (h : w.caught = true ∨ dist s.le.sym w.start < (w.width : Int)) :
    exec .windowMissed s = .next s.settle := by
  rw [windowMissed_runs hd ht hw hp hn, if_neg]
  rcases h with hc | early
  · simp [hc]
  · simp [early]

end

/-! ## The close of a counting second (R52) -/

/-- Absent, the condition comes once ten seconds in a row have reached the threshold. -/
theorem impulseNow_absent {x : FT} (h : x.impulse = false) : x.impulseNow = true ↔ 10 ≤ x.highRun := by
  rw [FT.impulseNow, h, if_neg Bool.false_ne_true, decide_eq_true_iff]

/-- Present, it stays until sixty in a row have not. -/
theorem impulseNow_present {x : FT} (h : x.impulse = true) : x.impulseNow = true ↔ x.lowRun < 60 := by
  rw [FT.impulseNow, if_pos h, decide_eq_true_iff]

/-- The runs and the peak once the second has closed. -/
def State.secondClosed (s : State) : State := s.modFt fun x => x.closeSecond s.settings.gate.impulseThreshold

/-- Then the condition by the runs, and the report of a change. -/
def State.secondReported (s : State) : State :=
  let t := s.secondClosed
  if t.ft.impulseNow = t.ft.impulse then t
  else (t.ftUpd fun x => { x with impulse := t.ft.impulseNow }).faultCondition .impulseNoise t.ft.impulseNow none

section
variable {s : State}

theorem impulseSecondClose_runs (hd : s.dormant = false) (hon : s.le.link.driverOn = true) :
    exec .impulseSecondClose s = .next s.secondReported.settle :=
  congrArg Host.Outcome.next ((live_awake _ _ hd).trans (congrArg _ (if_pos hon)))

theorem impulseSecondClose_idle (hd : s.dormant = false) (hoff : s.le.link.driverOn = false) :
    exec .impulseSecondClose s = .next s.settle :=
  congrArg Host.Outcome.next ((live_awake _ _ hd).trans (congrArg _ (if_neg (by simp [hoff]))))

theorem secondReported_same (h : s.secondClosed.ft.impulseNow = s.ft.impulse) : s.secondReported = s.secondClosed :=
  if_pos h

theorem secondReported_changed (h : s.secondClosed.ft.impulseNow ≠ s.ft.impulse) : s.secondReported =
    (s.secondClosed.ftUpd fun x => { x with impulse := s.secondClosed.ft.impulseNow }).faultCondition .impulseNoise
      s.secondClosed.ft.impulseNow none := if_neg h

variable (s)

theorem only_secondReported : Only [.ft, .fs, .plk] s s.secondReported :=
  .ite (fun _ => (only_modFt s _).within) fun _ =>
    .seq (m := [.fs, .plk]) (l := [.ft, .plk]) (.seq (only_modFt s _) (only_ftUpd _ _))
      (only_faultConditionCore _ _ _ _)

theorem secondReported_ft : s.secondReported.ft =
    { s.secondClosed.ft with impulse := s.secondClosed.ft.impulseNow } := by
  by_cases h : s.secondClosed.ft.impulseNow = s.ft.impulse
  · rw [secondReported_same h, h]
    rfl
  · rw [secondReported_changed h, State.faultCondition, (only_faultConditionCore _ _ _ _).ft (by decide), ftUpd_ft]

theorem secondReported_impulse : s.secondReported.ft.impulse = s.secondClosed.ft.impulseNow := by
  rw [secondReported_ft]

/-- The record takes a change of the condition, and nothing else reaches the fault supervisor (R155). -/
theorem secondReported_fs :
    (s.secondReported.ft.impulse ≠ s.ft.impulse →
      s.secondReported.fs.recs.impulseNoise.condition = s.secondReported.ft.impulse)
    ∧ (s.secondReported.ft.impulse = s.ft.impulse → s.secondReported.fs = s.fs) := by
  rw [secondReported_impulse]
  refine ⟨fun h => ?_, fun h => ?_⟩
  · rw [secondReported_changed h]
    exact faultConditionCore_condition _ .impulseNoise none _
  · rw [secondReported_same h]
    rfl

end

/-! ## The obligation -/

/-- Settles O38: a window missed by `windowMissed_misses`, a second closed by what `State.secondReported` leaves. -/
theorem trackerEventsCount : Obligations.TrackerEventsCount := by
  refine ⟨fun w p n s hd hon ht hw hp hn => ⟨fun hc passed => ?_, windowMissed_idle hd ht hw hp hn⟩,
    fun s hd => ⟨impulseSecondClose_idle hd, fun hon => ?_⟩⟩
  · have only := only_ftUpd s fun x => x.miss p n
    refine ⟨_, windowMissed_misses hd ht hw hp hn hon hc passed, fun two => ?_, fun third => ?_, only.le (by decide),
      only.tt (by decide), only.ss (by decide), only.ports (by decide), only.cc (by decide), only.mu (by decide),
      only.sup (by decide), only.tu (by decide), only.fs (by decide), only.sts, only.settings⟩
    · rw [ftUpd_ft, miss_moves p n two]
    · rw [ftUpd_ft, miss_loses p n third]
  · have only := only_secondReported s
    obtain ⟨changed, same⟩ := secondReported_fs s
    refine ⟨_, s.secondReported, rfl, impulseSecondClose_runs hd hon, ?_, fun absent => ?_, fun present => ?_, changed,
      same, only.le (by decide), only.tt (by decide), only.ss (by decide), only.ports (by decide), only.cc (by decide),
      only.mu (by decide), only.sup (by decide), only.tu (by decide), only.sts, only.settings⟩
    · rw [secondReported_impulse, secondReported_ft]
      rfl
    · rw [secondReported_ft]
      exact impulseNow_absent absent
    · rw [secondReported_ft]
      exact impulseNow_present present

end Sys2Proof.Machine
end

section
/-!
PROOFS. SCHEDULE_CONFIGURE (R75), and the frames the host sends while the receiver hunts: a REQUEST (R171) and a DATA_UP
with its cells and the flow state (R60 to R62).
-/

namespace Sys2Proof.Machine

-- One proof at a time: the text is compiled as one, and each proof that waits for the others holds a thread.
set_option Elab.async false

/-! ## SCHEDULE_CONFIGURE (R75) -/

theorem readAll_ratio {b : Byte} {r : ServiceRatio} (h : b.toNat = r.ctorIdx) :
    readAll (rReq (rEnum serviceRatios)) [1, b] = some (.known r) := by
  have place : serviceRatios[r.ctorIdx]? = some r := by cases r <;> rfl
  rw [readAll_rReq_rEnum, enumOf_known (h ▸ place)]

theorem readAll_ratio_outside {b : Byte} (h : 4 ≤ b.toNat) :
    readAll (rReq (rEnum serviceRatios)) [1, b] = some (.outside b.toNat) := by
  rw [readAll_rReq_rEnum, enumOf_outside h]

/-- With both queues waiting, a p that has come to N gives the position to management, whichever position it is (R58). -/
theorem cellTurn_mgmt_of_le (first : Bool) {p n : Nat} (h : n ≤ p) : cellTurn first true true p n = (.mgmt, 0) := by
  cases first
  · exact if_pos h
  · rfl

/-- Settles O23: the ratio as read from its wire code, and the arbiter's turn by `cellTurn_mgmt_of_le`. -/
theorem scheduleConfigureSets : Obligations.ScheduleConfigureSets := by
  refine fun b s ask => ⟨fun r hr => ⟨request_answered ask (readAll_ratio hr) rfl, fun hp first => ?_⟩,
    fun hb => request_answered ask (readAll_ratio_outside hb) rfl⟩
  exact cellTurn_mgmt_of_le first (Nat.le_min.mpr ⟨hp.le, le_rfl⟩)

/-! ## The flow state (R62) -/

section
variable {s : State}

/-- The free cells, read from the cells that wait. -/
theorem free_lt_iff (x : SS) : x.free < 32 ↔ 96 < x.upQueue.length := by
  unfold SS.free Config.upQueueCells
  omega

theorem le_free_iff (x : SS) : 96 ≤ x.free ↔ x.upQueue.length ≤ 32 := by
  unfold SS.free Config.upQueueCells
  omega

theorem flowLaw_stops (hx : s.ss.xon = true) (h : 96 < s.ss.upQueue.length) :
    s.flowLaw = State.raise { s with ss := { s.ss with xon := false } } .flow :=
  if_pos (by simp [hx, free_lt_iff, h])

theorem flowLaw_resumes (hx : s.ss.xon = false) (h : s.ss.upQueue.length ≤ 32) :
    s.flowLaw = State.raise { s with ss := { s.ss with xon := true } } .flow := by
  unfold State.flowLaw
  rw [if_neg (by simp [hx]), if_pos (by simp [hx, le_free_iff, h])]
  rfl

theorem flowLaw_keeps (h : (s.ss.xon = true ∧ s.ss.upQueue.length ≤ 96) ∨ (s.ss.xon = false ∧ 32 < s.ss.upQueue.length)) :
    s.flowLaw = s := by
  unfold State.flowLaw
  rcases h with ⟨hx, h⟩ | ⟨hx, h⟩ <;> simp [hx, free_lt_iff, le_free_iff, h]

/-! ## A data unit (R61) -/

theorem takeData_empty : s.takeData [] = { s with ss := { s.ss with
    counts := { s.ss.counts with empty := inc32 s.ss.counts.empty } } } := rfl

/-- The unit's cells at the end of the queue, the unit counted. -/
def State.queued (s : State) (body : List Byte) : State :=
  { s with ss := { s.ss with
      upQueue := s.ss.upQueue ++ cellsOf s.ss.dataSeq body
      dataSeq := (s.ss.dataSeq + 1) % 256
      counts := { s.ss.counts with accepted := inc32 s.ss.counts.accepted } } }

/-- A unit whose cells the queue holds joins it whole, and the flow state follows. -/
theorem takeData_room {body : List Byte} (hb : body ≠ []) (h : (body.length + 59) / 60 ≤ s.ss.free) :
    s.takeData body = (s.queued body).flowLaw := by
  unfold State.takeData
  rw [if_neg (by simpa using hb), if_pos (by simpa [ceilDiv] using h)]
  rfl

theorem takeData_noRoom {body : List Byte} (hb : body ≠ []) (h : s.ss.free < (body.length + 59) / 60) :
    s.takeData body = { s with ss := { s.ss with
      counts := { s.ss.counts with noRoom := inc32 s.ss.counts.noRoom } } } := by
  unfold State.takeData
  rw [if_neg (by simpa using hb), if_neg (by simpa [ceilDiv] using h)]
  rfl

/-! ## Frames taken whole (R171, log 18) -/

variable (awake : s.dormant = false) (ho : s.plk.isOpen = true) (hr : s.plk.rx = .hunt) (tag : Byte) {body : List Byte}
  (hl : body.length ≤ 1600)

include ho hr hl in
theorem hostFrame_whole (kind : FrameKind) (take : State → State) : s.hostFrame kind tag body take = take s :=
  if_pos (by simp [ho, hr, hl])

include awake ho hr hl

theorem requestFrame_taken : exec (.requestFrame tag body) s = .next (s.takeRequest tag body).settle :=
  congrArg _ ((live_awake s _ awake).trans (congrArg _ (hostFrame_whole ho hr tag hl _ _)))

theorem dataUp_taken : exec (.dataUp tag body) s = .next (s.takeData body).settle :=
  congrArg _ ((live_awake s _ awake).trans (congrArg _ (hostFrame_whole ho hr tag hl _ _)))

end

/-- A request joins the queue of four, is answered BUSY from a list of four, or is discarded (R171). -/
theorem takeRequest_cases (s : State) (tag : Byte) (body : List Byte) :
    (s.plk.requests.length < 4 → s.takeRequest tag body = { s with plk := { s.plk with
        requests := s.plk.requests ++ [{ tag := tag, body := body, executing := false, reply := none }] } })
    ∧ (4 ≤ s.plk.requests.length → s.plk.busy.length < 4 → s.takeRequest tag body = { s with plk := { s.plk with
        busy := s.plk.busy ++ [{ tag := tag, reply := { order := s.plk.nextOrder, body := [body.head?.getD 0, 0x01] } }]
        nextOrder := s.plk.nextOrder + 1 } })
    ∧ (4 ≤ s.plk.requests.length → 4 ≤ s.plk.busy.length → s.takeRequest tag body = State.raise
        { s with plk := { s.plk with
          lastError := some .discarded
          errors := { s.plk.errors with discarded := inc32 s.plk.errors.discarded } } } .frameError) := by
  unfold State.takeRequest
  refine ⟨fun h => if_pos h, fun h hb => ?_, fun h hb => ?_⟩
  · rw [if_neg (by omega), if_pos hb]
    rfl
  · rw [if_neg (by omega), if_neg (by omega)]
    rfl

/-- Settles O11: a frame taken whole is its `takeRequest` or its `takeData`, and the flow state follows by `flowLaw`. -/
theorem framesAreTaken : Obligations.FramesAreTaken := by
  refine ⟨fun tag body s awake ho hr hl => ?_, fun tag body s awake ho hr hl => ?_⟩
  · rw [requestFrame_taken awake ho hr tag hl]
    obtain ⟨joins, busy, discarded⟩ := takeRequest_cases s tag body
    exact ⟨fun h => by rw [joins h], fun h hb => by rw [busy h hb], fun h hb => by rw [discarded h hb]⟩
  · rw [dataUp_taken awake ho hr tag hl]
    refine ⟨fun hb => ?_, fun hb room hq => ⟨s.queued body, rfl, ?_⟩, fun hb full hq => ?_⟩
    · rw [hb, takeData_empty]
    · have fits : (body.length + 59) / 60 ≤ s.ss.free := by
        unfold SS.free Config.upQueueCells
        omega
      rw [takeData_room hb fits]
      exact ⟨fun hx h => by rw [flowLaw_stops (s := s.queued body) hx h],
        fun hx h => by rw [flowLaw_keeps (s := s.queued body) (.inl ⟨hx, h⟩)],
        fun hx h => by rw [flowLaw_keeps (s := s.queued body) (.inr ⟨hx, h⟩)]⟩
    · have short : s.ss.free < (body.length + 59) / 60 := by
        unfold SS.free Config.upQueueCells
        omega
      rw [takeData_noRoom hb short]

end Sys2Proof.Machine
end

section
/-!
PROOFS. A cell's 64 bytes (R59) and the cutting of units into cells (R60).
-/

namespace Sys2Proof.Machine

-- One proof at a time: the text is compiled as one, and each proof that waits for the others holds a thread.
set_option Elab.async false

/-! ## A cell read from its bytes (R59) -/

/-- The fields of a cell from its first three bytes and the bytes that follow. -/
theorem readCell_cons {head seq used : Nat} (hh : head < 256) (hs : seq < 256) (hu : used < 256) (rest : List Byte) :
    readCell (BitVec.ofNat 8 head :: BitVec.ofNat 8 seq :: BitVec.ofNat 8 used :: rest) =
      (head / 64, { start := decide (32 ≤ head % 64), fin := decide (16 ≤ head % 32), index := head % 16, seq := seq
                    data := rest.take used }) := by
  simp [readCell, Nat.mod_eq_of_lt hh, Nat.mod_eq_of_lt hs, Nat.mod_eq_of_lt hu]

/-- The head byte holds kind, flags and index apart. -/
theorem cellHead_fields (mgmt : Bool) {c : Cell} (h : c.index < 16) :
    cellHead mgmt c < 256 ∧ cellHead mgmt c / 64 = (if mgmt then 2 else 1)
    ∧ decide (32 ≤ cellHead mgmt c % 64) = c.start ∧ decide (16 ≤ cellHead mgmt c % 32) = c.fin
    ∧ cellHead mgmt c % 16 = c.index := by
  unfold cellHead
  cases mgmt <;> cases c.start <;> cases c.fin <;> simp <;> omega

/-- The used bytes are the data, whatever fills the rest of the payload. -/
theorem take_payload {l : List Byte} (h : l.length ≤ 60) (tail : List Byte) :
    (((l ++ List.replicate 60 0).take 60) ++ tail).take l.length = l := by
  rw [List.take_append_of_le_length (by simp; omega), List.take_take, Nat.min_eq_left h, List.take_left]

/-- A cell of at most 60 bytes, of a sound unit or not, survives its bytes. -/
theorem readCell_written (mgmt : Bool) {c : Cell} (hi : c.index < 16) (hs : c.seq < 256) (hd : c.data.length ≤ 60) :
    readCell (cellBytes mgmt c) = (if mgmt then 2 else 1, c) := by
  obtain ⟨small, kind, start, fin, index⟩ := cellHead_fields mgmt hi
  rw [cellBytes_eq, cellBody, List.cons_append, List.cons_append, List.cons_append,
    readCell_cons small hs (by omega), take_payload hd, kind, start, fin, index]

/-! ## Units cut into cells (R60) -/

section
variable (seq : Nat) {fuel index : Nat} {l : List Byte}

/-- The last cell of a unit. -/
theorem cutCells_last (h : l.length ≤ 60) : cutCells seq (fuel + 1) index l =
    [{ start := index == 0, fin := true, index := index % 16, seq := seq, data := l }] := by
  simp [cutCells, List.drop_eq_nil_of_le h, List.take_of_length_le h]

/-- A full cell with more to come. -/
theorem cutCells_more (h : 60 < l.length) : cutCells seq (fuel + 1) index l =
    { start := index == 0, fin := false, index := index % 16, seq := seq, data := l.take 60 }
      :: cutCells seq fuel (index + 1) (l.drop 60) := by
  have more : (l.drop 60).isEmpty = false := by simpa using h
  simp [cutCells, more]

theorem cutCells_data (h : l.length < fuel) : (cutCells seq fuel index l).flatMap (·.data) = l := by
  induction fuel generalizing index l with
  | zero => omega
  | succ fuel ih =>
    by_cases short : l.length ≤ 60
    · rw [cutCells_last seq short]
      simp
    · rw [cutCells_more seq (by omega), List.flatMap_cons, ih (by simp; omega), List.take_append_drop]

theorem cutCells_length_eq (h : l.length < fuel) (hl : l ≠ []) :
    (cutCells seq fuel index l).length = (l.length + 59) / 60 := by
  induction fuel generalizing index l with
  | zero => omega
  | succ fuel ih =>
    have pos := List.length_pos_of_ne_nil hl
    by_cases short : l.length ≤ 60
    · rw [cutCells_last seq short, List.length_singleton]
      omega
    · have rest : (l.drop 60).length = l.length - 60 := List.length_drop
      rw [cutCells_more seq (by omega), List.length_cons,
        ih (by omega) (List.ne_nil_of_length_pos (by omega)), rest]
      omega

/-- The cell at each place: its order in the unit, and where START and END stand. -/
theorem cutCells_get (h : l.length < fuel) (hl : l ≠ []) {i : Nat} {c : Cell}
    (hc : (cutCells seq fuel index l)[i]? = some c) :
    c.seq = seq ∧ c.index = (index + i) % 16 ∧ c.start = (index + i == 0) ∧ c.fin = (i + 1 == (l.length + 59) / 60)
      ∧ (c.fin = false → c.data.length = 60) := by
  induction fuel generalizing index l i with
  | zero => omega
  | succ fuel ih =>
    have pos := List.length_pos_of_ne_nil hl
    by_cases short : l.length ≤ 60
    · rw [cutCells_last seq short] at hc
      obtain ⟨rfl, rfl⟩ : i = 0 ∧ c = _ := by simpa [List.getElem?_singleton, eq_comm] using hc
      have one : (l.length + 59) / 60 = 1 := by omega
      simp [one]
    · have rest : (l.drop 60).length = l.length - 60 := List.length_drop
      have count : (l.length + 59) / 60 = ((l.drop 60).length + 59) / 60 + 1 := by omega
      rw [cutCells_more seq (by omega)] at hc
      cases i with
      | zero =>
        obtain rfl : _ = c := by simpa using hc
        refine ⟨rfl, rfl, rfl, ?_, fun _ => ?_⟩
        · rw [count]
          simp
          omega
        · simp
          omega
      | succ i =>
        rw [count]
        have later := ih (l := l.drop 60) (by omega) (List.ne_nil_of_length_pos (by omega)) (by simpa using hc)
        rw [show index + (i + 1) = index + 1 + i by omega]
        simpa using later

end

/-- Settles O42: the bytes by `readCell_written`, the cells by their places (`cutCells_get`), and the sequences as each
queue's operation raises them. -/
theorem cellsRoundTrip : Obligations.CellsRoundTrip := by
  refine ⟨fun mgmt c hi hs hd => ⟨?_, readCell_written mgmt hi hs hd, ?_⟩, fun seq l hl => ⟨?_, ?_, fun i c hc => ?_,
    fun x who => ⟨rfl, rfl⟩, fun s room => ?_⟩⟩
  · rw [cellBytes_eq, List.length_append, cellBody_length]
    rfl
  · rw [cellBytes_eq]
    exact checked_append _ (cellBody_length mgmt c)
  · exact cutCells_data seq (Nat.lt_succ_self _)
  · exact cutCells_length_eq seq (Nat.lt_succ_self _) hl
  · simpa using cutCells_get seq (index := 0) (Nat.lt_succ_self _) hl hc
  · have kept (t : State) : t.flowLaw.ss.upQueue = t.ss.upQueue ∧ t.flowLaw.ss.dataSeq = t.ss.dataSeq := by
      unfold State.flowLaw
      split
      · exact ⟨rfl, rfl⟩
      · split <;> exact ⟨rfl, rfl⟩
    rw [takeData_room hl room]
    exact kept _

end Sys2Proof.Machine
end

section
/-!
PROOFS. An upstream superframe (R57, R58): the arbiter's cell positions, what the carriage of a message does at its
owner (R14, R71, R137, R145, R163), and the voice slots (R91, R99).
-/

namespace Sys2Proof.Machine

-- One proof at a time: the text is compiled as one, and each proof that waits for the others holds a thread.
set_option Elab.async false

/-! ## The arbiter's turn (R58) -/

section
variable {s : State} {first : Bool}

/-- The arbiter's decision for the next cell position, and p after it. -/
def State.turn (s : State) (first : Bool) : CellTurn × Nat :=
  cellTurn first (!s.ss.outQueue.isEmpty) (!s.ss.upQueue.isEmpty) s.ss.p (ServiceRatio.n s.settings.ratio)

theorem turn_idle (ho : s.ss.outQueue = []) (hu : s.ss.upQueue = []) : s.turn first = (.idle, s.ss.p) := by
  simp [State.turn, cellTurn, ho, hu]

theorem turn_data {c : Cell} {rest : List Cell} (hu : s.ss.upQueue = c :: rest)
    (h : s.ss.outQueue = [] ∨ (first = false ∧ s.ss.p < ServiceRatio.n s.settings.ratio)) :
    s.turn first = (.data, if s.ss.outQueue = [] then min (ServiceRatio.n s.settings.ratio) (s.ss.p + 1) else s.ss.p + 1) := by
  unfold State.turn
  rw [hu]
  cases ho : s.ss.outQueue with
  | nil => simp [cellTurn]
  | cons m more =>
    obtain ⟨hf, hp⟩ := h.resolve_left (by simp [ho])
    simp [cellTurn, hf, Nat.not_le.mpr hp]

theorem turn_mgmt {m : OutMsg} {rest : List OutMsg} (ho : s.ss.outQueue = m :: rest)
    (h : s.ss.upQueue = [] ∨ first = true ∨ ServiceRatio.n s.settings.ratio ≤ s.ss.p) : s.turn first = (.mgmt, 0) := by
  unfold State.turn
  rw [ho]
  cases hu : s.ss.upQueue with
  | nil => simp [cellTurn]
  | cons c more =>
    rcases h.resolve_left (by simp [hu]) with hf | hp
    · simp [cellTurn, hf]
    · simp [cellTurn, hp]

/-! ## One cell position (R58) -/

theorem cellPosition_mgmt {p : Nat} (h : s.turn first = (.mgmt, p)) :
    s.cellPosition first = State.placeMgmt { s with ss := { s.ss with p := p } } := by
  unfold State.turn at h
  unfold State.cellPosition
  rw [h]
  rfl

theorem cellPosition_data {p : Nat} (h : s.turn first = (.data, p)) :
    s.cellPosition first = State.placeData { s with ss := { s.ss with p := p } } := by
  unfold State.turn at h
  unfold State.cellPosition
  rw [h]
  rfl

theorem cellPosition_idle {p : Nat} (h : s.turn first = (.idle, p)) :
    s.cellPosition first = ({ s with ss := { s.ss with
      p := p, counts := { s.ss.counts with idleCells := inc32 s.ss.counts.idleCells } } }, idleCell) := by
  unfold State.turn at h
  unfold State.cellPosition
  rw [h]
  rfl

theorem placeData_cons {c : Cell} {rest : List Cell} (h : s.ss.upQueue = c :: rest) : s.placeData =
    ({ s with ss := { s.ss with
        upQueue := rest, counts := { s.ss.counts with dataCells := inc32 s.ss.counts.dataCells } } }, cellBytes false c) := by
  unfold State.placeData
  rw [h]
  rfl

/-- A message with cells to come stays at the head of the queue. -/
theorem placeMgmt_more {m : OutMsg} {rest : List OutMsg} {c d : Cell} {more : List Cell}
    (h : s.ss.outQueue = m :: rest) (hm : m.cells = c :: d :: more) : s.placeMgmt =
    ({ s with ss := { s.ss with
        outQueue := { m with cells := d :: more, started := true } :: rest
        counts := { s.ss.counts with mgmtCells := inc32 s.ss.counts.mgmtCells } } }, cellBytes true c) := by
  unfold State.placeMgmt
  rw [h]
  dsimp only
  rw [hm]
  rfl

/-- A message leaves with its last cell, and its carriage is reported. -/
theorem placeMgmt_last {m : OutMsg} {rest : List OutMsg} {c : Cell} (h : s.ss.outQueue = m :: rest) (hm : m.cells = [c]) :
    s.placeMgmt = (State.carried { s with ss := { s.ss with
        outQueue := rest, counts := { s.ss.counts with mgmtCells := inc32 s.ss.counts.mgmtCells } } } m.who,
      cellBytes true c) := by
  unfold State.placeMgmt
  rw [h]
  dsimp only
  rw [hm]
  rfl

theorem placeCells_out (h : s.le.link ≠ .inService) (k : Nat) : State.placeCells first k s = (s, []) := by
  cases k with
  | zero => rfl
  | succ k => exact if_pos (by simpa [State.inService] using h)

theorem placeCells_next (h : s.le.link = .inService) {k : Nat} {v w : State} {cell rest : List Byte}
    (hv : s.cellPosition first = (v, cell)) (hw : State.placeCells false k v = (w, rest)) :
    State.placeCells first (k + 1) s = (w, cell ++ rest) := by
  unfold State.placeCells
  rw [if_neg (by simp [State.inService, h]), hv]
  dsimp only
  rw [hw]

end

/-! ## The carriage of a message -/

section
variable {s : State}

/-- The 200 ms of a send's entry start, unless a later send of its number waits (R69, R71, log 46). -/
theorem carried_send (n : Nat) :
    ((∀ m ∈ s.ss.outQueue, m.who ≠ .send n) → s.carried (.send n) = { s with ss := { s.ss with
      txs := s.ss.txs.map fun x => if x.number = n then { x with timeLeft := some 200 } else x } })
    ∧ ((∃ m ∈ s.ss.outQueue, m.who = .send n) → s.carried (.send n) = s) := by
  refine ⟨fun h => ?_, fun h => if_pos (by simpa using h)⟩
  unfold State.carried
  dsimp only
  rw [if_neg (by simpa using h)]
  rfl

/-- The ACK of the RETRAIN whose loss is pending brings the loss (R14). -/
theorem carried_retrain {n : Byte} {f : FarEndLoss} (hf : s.le.farEnd = some f) (hn : f.number = n) :
    s.carried (.answer (some .retrain) n true) = s.loss .farEnd := if_pos (by simp [hf, hn])

theorem carried_retrain_other {n : Byte} (h : ∀ f, s.le.farEnd = some f → f.number ≠ n) :
    s.carried (.answer (some .retrain) n true) = s := by
  refine if_neg ?_
  cases hf : s.le.farEnd with
  | none => simp
  | some f => simpa using h f hf

theorem testing_some {c : CurrentTest} (h : s.tu.current = some c) (f : CurrentTest → Bool) : s.testing f = f c := by
  simp [State.testing, h]

theorem testing_none (h : s.tu.current = none) (f : CurrentTest → Bool) : s.testing f = false := by
  simp [State.testing, h]

/-- The ACK of the TEST_REQ whose test is ARMING ends the arming (R145). -/
theorem carried_testReq {n : Byte} {c : CurrentTest} (hc : s.tu.current = some c) (hp : c.phase = .arming)
    (hn : c.reqNumber = some n) : s.carried (.answer (some .testReq) n true) = s.armedRaw.lineLaw :=
  if_pos (by rw [testing_some hc]; simp [hp, hn])

theorem carried_testReq_other {n : Byte} (h : ∀ c, s.tu.current = some c → c.phase = .running ∨ c.reqNumber ≠ some n) :
    s.carried (.answer (some .testReq) n true) = s := by
  refine if_neg ?_
  cases hc : s.tu.current with
  | none => simp [testing_none hc]
  | some c =>
    rw [testing_some hc]
    rcases h c hc with hp | hn
    · simp [hp]
    · simp [hn]

/-- No other answer is asked after. -/
theorem carried_answer (t : Option FarType) (n : Byte) (positive : Bool)
    (h : positive = false ∨ (t ≠ some .retrain ∧ t ≠ some .testReq)) : s.carried (.answer t n positive) = s := by
  unfold State.carried
  split
  · cases ‹Sender.answer t n positive = _›
  · cases ‹Sender.answer t n positive = _›
    simp at h
  · cases ‹Sender.answer t n positive = _›
    simp at h
  · rfl
  all_goals cases ‹Sender.answer t n positive = _›

/-- What the carriage of an ENDED beacon clears, by the record's eligibility (R163, log 91). -/
theorem carried_ended (i : FaultId) :
    (s.fs.endVoid = true ∨ s.eligible i = true → s.carried (.ended i) = { s with fs := { s.fs with
      endReport := none, endVoid := false } })
    ∧ (s.fs.endVoid = false → s.eligible i = false → s.carried (.ended i) = { s with fs := { s.fs with
      recs := s.fs.recs.set i { s.faultRec i with owed := false }, endReport := none, endVoid := false } }) := by
  have carried : s.carried (.ended i) = s.endCarried i := rfl
  rw [carried, State.endCarried]
  refine ⟨fun h => ?_, fun hv he => ?_⟩
  · rw [if_pos (by simpa using h)]
    rfl
  · rw [if_neg (by simp [hv, he])]
    rfl

variable (awake : s.dormant = false)
include awake

theorem retrainTimeout_carried {n : Byte} {f : FarEndLoss} (hf : s.le.farEnd = some f) (hn : f.number = n)
    (hin : s.le.link = .inService) :
    exec .retrainTimeout s = .next (s.carried (.answer (some .retrain) n true)).settle := by
  refine congrArg _ ((live_awake s _ awake).trans (congrArg _ ?_))
  rw [carried_retrain hf hn, if_pos (by simp [State.inService, hin, hf])]

theorem armingTimeout_carried {n : Byte} {c : CurrentTest} (hc : s.tu.current = some c) (hp : c.phase = .arming)
    (hn : c.reqNumber = some n) (ha : c.arm ≠ none) :
    exec .armingTimeout s = .next (s.carried (.answer (some .testReq) n true)).settle := by
  refine congrArg _ ((live_awake s _ awake).trans (congrArg _ ?_))
  rw [carried_testReq hc hp hn, testing_some hc, if_pos (by simp [hp, Option.isSome_iff_ne_none, ha])]

end

/-! ## Voice slots (R57, R91, R99) -/

section
variable {s : State}

theorem carries_iff (r : CallRec) : r.carries = true ↔
    r.state = .dialling ∨ r.state = .connected ∨ (r.state = .alertingIn ∧ r.admission = none) := by
  simp [carries_eq_slot, CallRec.slot, or_assoc]

/-- A port's slot, while its call carries one (R99). -/
theorem slotOf_eq_some {p : Port} {x : Slot} : s.slotOf p = some x ↔
    x.port = p ∧ (s.call p).carries = true ∧ (s.call p).channel = some x.channel
      ∧ x.coding = (s.call p).coding.getD .reduced := by
  unfold State.slotOf
  dsimp only
  obtain ⟨channel, coding, port⟩ := x
  cases (s.call p).carries <;> cases (s.call p).channel <;> simp [eq_comm, and_comm, and_left_comm]

/-- The slots named are the ports' slots, at most one each, in rising channel id (R99). -/
theorem namedSlots_cases (s : State) :
    (∃ x y, s.slotOf .a = some x ∧ s.slotOf .b = some y
      ∧ (y.channel < x.channel ∧ s.namedSlots = [y, x] ∨ x.channel ≤ y.channel ∧ s.namedSlots = [x, y]))
    ∨ (∃ x, s.slotOf .a = some x ∧ s.slotOf .b = none ∧ s.namedSlots = [x])
    ∨ (∃ y, s.slotOf .a = none ∧ s.slotOf .b = some y ∧ s.namedSlots = [y])
    ∨ (s.slotOf .a = none ∧ s.slotOf .b = none ∧ s.namedSlots = []) := by
  unfold State.namedSlots
  cases ha : s.slotOf .a with
  | none => cases hb : s.slotOf .b <;> simp
  | some x =>
    cases hb : s.slotOf .b with
    | none => simp
    | some y =>
      by_cases h : y.channel < x.channel
      · simp [h]
      · simp [h, Nat.not_lt.mp h]

theorem mem_namedSlots (x : Slot) : x ∈ s.namedSlots ↔ s.slotOf .a = some x ∨ s.slotOf .b = some x := by
  rcases namedSlots_cases s with ⟨a, b, ha, hb, ⟨-, h⟩ | ⟨-, h⟩⟩ | ⟨a, ha, hb, h⟩ | ⟨b, ha, hb, h⟩ | ⟨ha, hb, h⟩ <;>
    simp [ha, hb, h, eq_comm, or_comm]

theorem mem_namedSlots_iff (x : Slot) : x ∈ s.namedSlots ↔ (s.call x.port).channel = some x.channel
    ∧ x.coding = (s.call x.port).coding.getD .reduced
    ∧ ((s.call x.port).state = .dialling ∨ (s.call x.port).state = .connected
      ∨ ((s.call x.port).state = .alertingIn ∧ (s.call x.port).admission = none)) := by
  have own : x ∈ s.namedSlots ↔ s.slotOf x.port = some x := by
    rw [mem_namedSlots]
    cases hp : x.port with
    | a => exact or_iff_left fun h => by simp [(slotOf_eq_some.mp h).1] at hp
    | b => exact or_iff_right fun h => by simp [(slotOf_eq_some.mp h).1] at hp
  rw [own, slotOf_eq_some, carries_iff]
  tauto

theorem namedSlots_length (s : State) : s.namedSlots.length ≤ 2 := by
  rcases namedSlots_cases s with ⟨a, b, -, -, ⟨-, h⟩ | ⟨-, h⟩⟩ | ⟨a, -, -, h⟩ | ⟨b, -, -, h⟩ | ⟨-, -, h⟩ <;> simp [h]

theorem namedSlots_pair {x y : Slot} (h : s.namedSlots = [x, y]) : x.channel ≤ y.channel ∧ x.port ≠ y.port := by
  rcases namedSlots_cases s with ⟨a, b, ha, hb, pair⟩ | ⟨a, -, -, h'⟩ | ⟨b, -, -, h'⟩ | ⟨-, -, h'⟩
  · have pa := (slotOf_eq_some.mp ha).1
    have pb := (slotOf_eq_some.mp hb).1
    rcases pair with ⟨less, h'⟩ | ⟨less, h'⟩ <;> rw [h] at h' <;> cases h'
    · exact ⟨less.le, by simp [pa, pb]⟩
    · exact ⟨less, by simp [pa, pb]⟩
  all_goals simp [h] at h'

theorem slotAudio_silent (a b : List Byte) {x : Slot} (h : (s.port x.port).audio ≠ .line) :
    s.slotAudio a b x = List.replicate (codingBytes x.coding) 0 := by
  unfold State.slotAudio
  dsimp only
  rw [if_neg h]
  simp [fitBytes]

theorem slotAudio_own (a b : List Byte) {x : Slot} (h : (s.port x.port).audio = .line) :
    s.slotAudio a b x = fitBytes (codingBytes x.coding) (PerPort.get ⟨a, b⟩ x.port) := by
  unfold State.slotAudio
  dsimp only
  rw [if_pos h]
  cases x.port <;> rfl

/-! ## The layout (R57) -/

theorem upstream_out (a b : List Byte) (awake : s.dormant = false) (h : s.le.link ≠ .inService) :
    exec (.upstreamSuperframe a b) s = .next s.settle :=
  congrArg _ ((live_awake s _ awake).trans (congrArg _ (if_neg (by simpa [State.inService] using h))))

theorem upstream_in (a b : List Byte) (awake : s.dormant = false) (h : s.le.link = .inService) :
    exec (.upstreamSuperframe a b) s = .next (s.layUp a b).settle :=
  congrArg _ ((live_awake s _ awake).trans (congrArg _ (if_pos (by simp [State.inService, h]))))

/-- The bytes of an upstream superframe's payload (R30). -/
def State.upBytes (s : State) : Nat := payloadBytes (total s.tt.up) s.emptied

/-- The voice bytes laid out first: the slots that fit (R57). -/
def State.upVoice (s : State) (a b : List Byte) : List Byte := (fitSlots s.upBytes s.namedSlots).flatMap (s.slotAudio a b)

/-- The omitted slots counted. -/
def State.omitted (s : State) : State := s.modCounts fun c =>
  { c with slotsOmitted := add32 c.slotsOmitted (s.namedSlots.length - (fitSlots s.upBytes s.namedSlots).length) }

/-- The cells placed after the voice, with the state they leave. -/
def State.upCells (s : State) (a b : List Byte) : State × List Byte :=
  State.placeCells true ((s.upBytes - (s.upVoice a b).length) / 64) s.omitted

/-- The superframe as laid out, before the flow state follows. -/
def State.laidOut (s : State) (a b : List Byte) : State :=
  let w := (s.upCells a b).1
  { w with ss := { w.ss with
      slots := if w.le.link = .inService then s.namedSlots else []
      lastUp := fitBytes s.upBytes (s.upVoice a b ++ (s.upCells a b).2) } }

theorem layUp_eq (a b : List Byte) : s.layUp a b = (s.laidOut a b).flowLaw := by
  unfold State.layUp State.laidOut
  simp only [State.inService, beq_iff_eq]
  rfl

end

/-- Settles O43: the layout by `layUp_eq` and the flow law, each cell position by the arbiter's turn, the carriage sender
by sender, and the slots by `namedSlots_cases`. -/
theorem upstreamIsLaidOut : Obligations.UpstreamIsLaidOut := by
  refine ⟨fun a b s awake => ⟨upstream_out a b awake, fun hin => ?_⟩,
    fun first k s => ⟨rfl, fun h => placeCells_out h k, fun h v w cell rest hv hw => placeCells_next h hv hw⟩,
    fun first n s hn => ?_, fun s => ?_, fun s => ⟨mem_namedSlots_iff, namedSlots_length s, fun x y h => namedSlots_pair h,
      fun a b x k hk => ?_⟩, fun n => ⟨rfl, fun x l k hk => ?_⟩⟩
  · rw [upstream_in a b awake hin, layUp_eq]
    refine ⟨s.upBytes, s.upVoice a b, s.omitted, (s.upCells a b).1, s.laidOut a b, rfl, rfl, rfl, rfl, rfl,
      fun hx h => ?_, fun hx h => ?_, fun hx h => ?_, fun hx h => ?_⟩
    · rw [flowLaw_stops hx h]
    · rw [flowLaw_resumes hx h]
    · rw [flowLaw_keeps (.inl ⟨hx, h⟩)]
    · rw [flowLaw_keeps (.inr ⟨hx, h⟩)]
  · obtain rfl : n = ServiceRatio.n s.settings.ratio := by
      rw [hn]
      cases s.settings.ratio <;> rfl
    refine ⟨fun ho hu => ?_, fun c rest hu h => ?_, fun m rest ho h => ⟨fun c d more hm => ?_, fun c hm => ?_⟩⟩
    · exact cellPosition_idle (turn_idle ho hu)
    · exact (cellPosition_data (turn_data hu h)).trans (placeData_cons hu)
    · exact (cellPosition_mgmt (turn_mgmt ho h)).trans (placeMgmt_more ho hm)
    · exact (cellPosition_mgmt (turn_mgmt ho h)).trans (placeMgmt_last ho hm)
  · exact ⟨fun n => (carried_send n).1, fun n => (carried_send n).2,
      fun n f hf hn awake hin => retrainTimeout_carried awake hf hn hin, fun n h => carried_retrain_other h,
      fun n c hc hp hn ha awake => armingTimeout_carried awake hc hp hn ha, fun n h => carried_testReq_other h,
      carried_answer, rfl, fun i => (carried_ended i).1, fun i => (carried_ended i).2, rfl⟩
  · obtain rfl : k = codingBytes x.coding := by
      rw [hk]
      cases x.coding <;> rfl
    refine ⟨slotAudio_silent a b, fun h => (slotAudio_own a b h).trans ?_⟩
    cases x.port <;> rfl
  · obtain rfl : k = codingBytes x.coding := by
      rw [hk]
      cases x.coding <;> rfl
    exact ⟨fun h => by rw [fitSlots_cons, if_pos h], fun h => by rw [fitSlots_cons, if_neg (by omega)]⟩

end Sys2Proof.Machine
end

section
/-!
PROOFS. Messages as they are judged (R68), the answers of transactions and their first timeouts (R71, R72), and the end
of a SEIZE (R104).
-/

namespace Sys2Proof.Machine

-- One proof at a time: the text is compiled as one, and each proof that waits for the others holds a thread.
set_option Elab.async false

/-! ## Malformed messages (R68) -/

section
variable {s : State} {m : Msg}

theorem receive_out (f : State → State) (h : s.le.link ≠ .inService) : s.receive m f = s :=
  if_pos (by simpa [State.inService] using h)

theorem receive_malformed (f : State → State) (hin : s.le.link = .inService) (hm : m.whole = false) :
    s.receive m f = { s with ss := { s.ss with counts := { s.ss.counts with
      messages := inc32 s.ss.counts.messages, malformed := inc32 s.ss.counts.malformed } } } := by
  unfold State.receive
  rw [if_neg (by simp [State.inService, hin])]
  dsimp only
  rw [if_neg (by simp [hm])]
  rfl

end

theorem answerTo_receives (s : State) (m : Msg) (f : State → Tx → State) : ∃ g, s.answerTo m f = s.receive m g := ⟨_, rfl⟩

theorem farRequest_receives {α : Type} (s : State) (t : FarType) (m : Msg) (layout : List Byte → Option α)
    (act : State → α → State) : ∃ g, s.farRequest t m layout act = s.receive m g := ⟨_, rfl⟩

theorem unknownMsg_receives (s : State) (m : Msg) : ∃ g, s.unknownMsg m = s.receive m g := ⟨_, rfl⟩

/-- A unit of any type passes the length check first. -/
theorem takeMessage_receives (s : State) (t n l : Byte) (body : List Byte) :
    ∃ f, s.takeMessage (t :: n :: l :: body) = s.receive ⟨n, l, body⟩ f := by
  unfold State.takeMessage
  dsimp only
  split
  · exact answerTo_receives s _ _
  · split
    · exact answerTo_receives s _ _
    · split
      iterate 7 exact farRequest_receives s _ _ _ _
      exact unknownMsg_receives s _

/-- So does the command of each type. -/
theorem message_received {c : Instr} {t n l : Byte} {body : List Byte} {s : State} (awake : s.dormant = false)
    (h : c = .ack n l body ∨ c = .nak n l body ∨ c = .upTable n l body ∨ c = .alert n l body ∨ c = .clear n l body
      ∨ c = .answered n l body ∨ c = .testReq n l body ∨ c = .beaconClear n l body ∨ c = .retrain n l body
      ∨ (c = .unknownTypeMessage t n l body ∧ knownType t = false)) :
    ∃ f, exec c s = .next (s.receive ⟨n, l, body⟩ f).settle := by
  have coded : ∃ code, exec c s = .next (s.takeMessage (code :: n :: l :: body)).settle := by
    have command (code : Byte) := takeMessage_command code n l body c s awake
    rcases h with h | h | h | h | h | h | h | h | h | ⟨h, hk⟩
    · exact ⟨_, command 0x7E (by simp [h])⟩
    · exact ⟨_, command 0x7F (by simp [h])⟩
    · exact ⟨_, command 0x60 (by simp [h])⟩
    · exact ⟨_, command 0x50 (by simp [h])⟩
    · exact ⟨_, command 0x51 (by simp [h])⟩
    · exact ⟨_, command 0x52 (by simp [h])⟩
    · exact ⟨_, command 0x70 (by simp [h])⟩
    · exact ⟨_, command 0x78 (by simp [h])⟩
    · exact ⟨_, command 0x61 (by simp [h])⟩
    · exact ⟨_, command t (by simp [h, hk])⟩
  obtain ⟨code, run⟩ := coded
  obtain ⟨f, taken⟩ := takeMessage_receives s code n l body
  exact ⟨f, by rw [run, taken]⟩

/-! ## Timeouts with a send left (R71) -/

theorem timeout_resends {n : Nat} {t : Tx} {s : State} (awake : s.dormant = false) (hin : s.le.link = .inService)
    (ht : (s.ss.txs.find? fun x => x.number == n) = some t) (hleft : t.timeLeft ≠ none) (hsends : t.sends < 3) :
    exec (.transactionTimeout n) s = .next (State.settle
      { s with ss := { s.ss with
          txs := s.ss.txs.map fun x => if x.number = n then { x with sends := x.sends + 1, timeLeft := none } else x
          outQueue := s.ss.outQueue ++
            [{ who := .send n, cells := cellsOf s.ss.mgmtSeq (message t.req.kind.code n t.req.body)
               started := false }]
          mgmtSeq := (s.ss.mgmtSeq + 1) % 256 } }) := by
  refine congrArg _ ((live_awake s _ awake).trans (congrArg _ ?_))
  rw [if_pos (by simp [State.inService, hin]), State.txTimeout, ht]
  dsimp only
  rw [if_neg (by simpa using hleft), if_pos hsends]
  rfl

/-! ## Answers that name no transaction (R72) -/

section
variable {n l : Byte} {body : List Byte} {s : State} (hin : s.le.link = .inService) (hb : body.length = l.toNat)
  (hl : l.toNat ≤ 117)
include hin hb hl

theorem answerTo_unmatched (f : State → Tx → State) (ht : ∀ t ∈ s.ss.txs, t.number ≠ n.toNat) :
    s.answerTo ⟨n, l, body⟩ f = { s with ss := { s.ss with counts := { s.ss.counts with
      messages := inc32 s.ss.counts.messages, unmatched := inc32 s.ss.counts.unmatched } } } := by
  have missed : (s.received.ss.txs.find? fun t => t.number == n.toNat) = none := by
    rw [List.find?_eq_none]
    exact fun t hmem => by simpa using ht t hmem
  rw [State.answerTo, receive_whole _ hin (by simp [Msg.whole, hb, hl]), missed]
  rfl

/-- A type the part does not take is answered NAK with cause UNKNOWN (R68). -/
theorem unknownMsg_answered (room : s.hasRoom) : s.unknownMsg ⟨n, l, body⟩ = { s with ss := { s.ss with
    outQueue := s.ss.outQueue ++
      [{ who := .answer none n false, cells := cellsOf s.ss.mgmtSeq [0x7F, n, 1, 1], started := false }]
    mgmtSeq := (s.ss.mgmtSeq + 1) % 256
    counts := { s.ss.counts with
      messages := inc32 s.ss.counts.messages, unknownType := inc32 s.ss.counts.unknownType } } } := by
  have cause : w8 NakCause.unknown.code = [1] := rfl
  rw [State.unknownMsg, receive_whole _ hin (by simp [Msg.whole, hb, hl]), State.plainNak,
    placeAnswer_placed (s := s.received) _ _ _ _ hin room, cause, message_eq]
  rfl

end

/-! ## The entry freed and the waiting requests granted (R70, R72) -/

/-- The state in which the owner of an answered transaction is told. -/
def State.answeredEntry (s : State) (n : Nat) : State := (s.received.freeEntry n).grantWaiting

section
variable {s : State} (n : Nat)

theorem endTx_received (t : Tx) (e : TxEnd) :
    s.received.endTx t e = (s.answeredEntry t.number).txEnded t.req t.number e := rfl

theorem only_answeredEntry : Only [.ss, .le, .tt, .tu, .plk] s (s.answeredEntry n) :=
  .seq (m := [.ss, .le, .tt, .tu, .plk]) (l := [.ss]) (.trans (only_modCounts s _) (only_freeEntry _ _))
    (only_grantWaiting _)

theorem answeredEntry_idle (h : s.ss.waiting = []) :
    (s.answeredEntry n).ss.txs = s.ss.txs.filter fun x => x.number != n := by
  rw [State.answeredEntry, grantWaiting_idle (s := s.received.freeEntry n) h]
  rfl

theorem effProfile_congr {t : State} (sup : t.sup = s.sup) (thermal : t.le.thermalTrim = s.le.thermalTrim) :
    t.effProfile = s.effProfile := by
  unfold State.effProfile
  rw [sup, thermal]

/-- A grant tells the line engine at most that its PROFILE is sent (R18). -/
theorem granted_thermal (s : State) (r : TxReq) (n : Nat) : (s.granted r n).le.thermalTrim = s.le.thermalTrim := by
  by_cases hk : r.kind = .profile
  · unfold State.granted
    rw [hk]
    dsimp only
    split <;> rfl
  · have elsewhere : Block.le ∉ r.kind.told := by
      revert hk
      cases r.kind <;> simp [TxKind.told]
    rw [(only_granted s r n).le elsewhere]

theorem grantList_thermal (rs : List TxReq) (s : State) : (grantList rs s).le.thermalTrim = s.le.thermalTrim := by
  induction rs generalizing s with
  | nil => rfl
  | cons r rs ih =>
    unfold grantList
    split
    · exact (ih _).trans (granted_thermal _ _ _)
    · rfl

theorem answeredEntry_effProfile : (s.answeredEntry n).effProfile = s.effProfile :=
  effProfile_congr ((only_answeredEntry n).sup (by decide)) (grantList_thermal _ _)

end

/-! ## A capacity evaluation with room (R102) -/

/-- A call that is past its admission stays as it is where the requirement fits outside LIFELINE. -/
theorem evaluateCapacity_keeps {s : State} (hl : s.effProfile ≠ .lifeline) (fits : s.fits s.voiceRequirement = true)
    (p : Port) (hp : (s.call p).admissible = false) : s.evaluateCapacity.call p = s.call p := by
  have asked (q : Port) : s.askedDown s q = false := by simp [askedDown_else hl, fits]
  have released : s.releasedForRoom s p = false := by
    simp [State.releasedForRoom, State.bytesAsked, asked, ← voiceRequirement_eq, fits]
  have admitted : s.admittedToRoom s p = false := by simp [admittedToRoom_eq, hp]
  rw [(evaluateCapacity_evaluated s).1.call p admitted, asked, released]
  rfl

/-! ## The end of a SEIZE (R104) -/

section
variable {s : State} {n : Byte} {t : Tx} {p : Port} (hk : t.req.kind = .seize) (hp : t.req.port = some p)
  (hs : t.req.tag = (s.call p).serial)

/-- The state with the SEIZE's mark gone from the call that asked. -/
def State.seizeTold (s : State) (t : Tx) (p : Port) : State := (s.answeredEntry t.number).unmarked p .seize

theorem only_seizeTold (s : State) (t : Tx) (p : Port) : Only [.ss, .le, .tt, .tu, .plk, .cc] s (s.seizeTold t p) :=
  .seq (only_answeredEntry _) (only_unmarked _)

theorem seizeTold_call (s : State) (t : Tx) (p : Port) :
    (s.seizeTold t p).call p = { s.call p with txs := { (s.call p).txs with seize := false } }
    ∧ (s.seizeTold t p).call p.other = s.call p.other := by
  have kept (q : Port) : (s.answeredEntry t.number).call q = s.call q := (only_answeredEntry _).call q
  rw [State.seizeTold, call_unmarked, call_unmarked_other, kept, kept]
  exact ⟨rfl, rfl⟩

include hk hp hs in
theorem endTx_seize (e : TxEnd) : s.received.endTx t e = (s.seizeTold t p).seizeEnded p e := by
  have own : t.req.tag = ((s.answeredEntry t.number).call p).serial := by
    rw [(only_answeredEntry _).call p]
    exact hs
  rw [endTx_received]
  exact (txEnded_own hp own).1 hk

variable (hst : (s.call p).state = .seizing)

include hst in
/-- A refused SEIZE blocks its call with cause REFUSED. -/
theorem seizeEnded_nak : (s.seizeTold t p).seizeEnded p .nak = (s.seizeTold t p).updCall p fun r =>
    { r with state := .blocked, cause := .refused, coding := none } := by
  have seizing : ((s.seizeTold t p).call p).state = .seizing := by
    rw [(seizeTold_call s t p).1]
    exact hst
  rw [seizeEnded_bad (.inl seizing) (.inl rfl), seizeRefused_seizing seizing]
  simp [seizeCause, seizing]

/-- The call given the channel and the coding granted. -/
def State.seized (s : State) (p : Port) (ch : Nat) (c : Coding) : State :=
  s.updCall p fun r => { r with state := .dialling, channel := some ch, coding := some c }

variable {ch : Nat} {c : Coding} (hch : ch < 4) (free : s.channelTaken p ch = false)
  (fit : (s.call p).coding = some c ∨ ((s.call p).coding = some .full ∧ c = .reduced))

include hst hch free fit in
/-- An accepted SEIZE with a free channel and a coding that fits. -/
theorem seizeEnded_ack : (s.seizeTold t p).seizeEnded p (.ack (.seize ch (.known c))) =
    ((s.seizeTold t p).seized p ch c).evaluateCapacity := by
  obtain ⟨own, other⟩ := seizeTold_call s t p
  have seizing : ((s.seizeTold t p).call p).state = .seizing := by
    rw [own]
    exact hst
  have fits : codingFits ((s.seizeTold t p).call p).coding (.known c) = some c := by
    rw [own]
    rcases fit with h | ⟨h, rfl⟩ <;> simp [codingFits, h]
  have taken : (s.seizeTold t p).channelTaken p ch = false := by
    unfold State.channelTaken at free ⊢
    rw [other]
    exact free
  have acked : (s.seizeTold t p).seizeEnded p (.ack (.seize ch (.known c))) =
      (s.seizeTold t p).seizeAcked p ch (.known c) := if_pos (by simp [seizing])
  rw [acked]
  unfold State.seizeAcked
  dsimp only
  rw [fits]
  dsimp only
  rw [if_pos (by simp [hch, taken]), if_pos seizing]
  rfl

variable (down : (s.call p).downgrade = none)

include hst fit down in
/-- The call counts no more in R than it did while SEIZING. -/
theorem seized_requirement :
    ((s.seizeTold t p).seized p ch c).voiceRequirement ≤ s.voiceRequirement := by
  obtain ⟨own, other⟩ := seizeTold_call s t p
  have bytes : (((s.seizeTold t p).seized p ch c).call p).bytesInR ≤ (s.call p).bytesInR := by
    rw [State.seized, call_updCall, own]
    rcases fit with h | ⟨h, rfl⟩ <;> simp [CallRec.bytesInR, CallRec.ownBytes, hst, h, down]
  have same : ((s.seizeTold t p).seized p ch c).call p.other = s.call p.other :=
    (call_updCall_other _ _ _).trans other
  rw [voiceRequirement_eq _ p, voiceRequirement_eq s p, same]
  omega

variable (hl : s.effProfile ≠ .lifeline) (room : s.passes s.voiceRequirement = true)

include hst fit down hl room in
theorem seized_call : ((s.seizeTold t p).seized p ch c).evaluateCapacity.call p = { s.call p with
    state := .dialling, channel := some ch, coding := some c, txs := { (s.call p).txs with seize := false } } := by
  have call : ((s.seizeTold t p).seized p ch c).call p = { s.call p with
      state := .dialling, channel := some ch, coding := some c, txs := { (s.call p).txs with seize := false } } := by
    rw [State.seized, call_updCall, (seizeTold_call s t p).1]
  have profile : ((s.seizeTold t p).seized p ch c).effProfile = s.effProfile := by
    have only : Only [.cc, .plk, .ports] (s.seizeTold t p) ((s.seizeTold t p).seized p ch c) := only_updCall _ p _
    have told : (s.seizeTold t p).effProfile = s.effProfile := answeredEntry_effProfile t.number
    exact (effProfile_congr (only.sup (by decide)) (congrArg _ (only.le (by decide)))).trans told
  have told : CcKept s (s.seizeTold t p) := .trans (.of_only (only_answeredEntry t.number)) ⟨rfl, rfl, rfl, rfl⟩
  have kept : CcKept s ((s.seizeTold t p).seized p ch c) := told.trans (ccKept_updCall _ p _)
  rw [evaluateCapacity_keeps (by rw [profile]; exact hl) ?_ p (by rw [call]; rfl), call]
  rw [kept.fits, ← Bool.not_eq_false]
  rw [passes_eq, ← Bool.not_eq_false] at room
  exact fun h => room (fits_mono h (seized_requirement hst fit down))

end

/-- The result fields of the ACK of a SEIZE (R104). -/
theorem ackFields_seize {ch cod : Byte} {c : Coding} (h : cod.toNat = c.ctorIdx) :
    ackFields .seize [ch, cod] = some (.seize ch.toNat (.known c)) := by
  have place : codings[c.ctorIdx]? = some c := by cases c <;> rfl
  have known : enumOf codings cod.toNat = .known c := enumOf_known (h ▸ place)
  have read : readAll (rPair (rNat 1) (rEnum codings)) [ch, cod] = some (ch.toNat, .known c) :=
    readAll_rPair (a := ch.toNat) (r := [cod]) (by simp [rNat]) (by rw [← known]; rfl)
  rw [ackFields, read]
  rfl

section
variable {n : Byte} {t : Tx} {p : Port} {s : State} (awake : s.dormant = false) (hin : s.le.link = .inService)
  (ht : (s.ss.txs.find? fun t => t.number == n.toNat) = some t) (hk : t.req.kind = .seize) (hp : t.req.port = some p)
  (hs : t.req.tag = (s.call p).serial) (hst : (s.call p).state = .seizing)
include awake hin ht hk hp hs hst

theorem seize_granted {ch cod : Byte} {c : Coding} (hch : ch.toNat < 4) (hcod : cod.toNat = c.ctorIdx)
    (free : s.channelTaken p ch.toNat = false) (down : (s.call p).downgrade = none)
    (fit : (s.call p).coding = some c ∨ ((s.call p).coding = some .full ∧ c = .reduced))
    (hl : s.effProfile ≠ .lifeline) (room : s.passes s.voiceRequirement = true) :
    ∃ u : State, exec (.ack n 2 [ch, cod]) s = .next u.settle
      ∧ (u.call p).state = .dialling ∧ (u.call p).channel = some ch.toNat ∧ (u.call p).coding = some c
      ∧ (u.call p).txs.seize = false
      ∧ u.settings = s.settings ∧ u.sts = s.sts ∧ u.uptime = s.uptime ∧ u.sup.mode = s.sup.mode
      ∧ u.mu.accounts = s.mu.accounts ∧ u.plk.requests = s.plk.requests := by
  let f : AckFields := .seize ch.toNat (.known c)
  have calm : Calm allSides s.received (s.received.endTx t (.ack f)) := calm_endTx t _ (.refl allSides _)
  have call : (s.received.endTx t (.ack f)).call p = { s.call p with
      state := .dialling, channel := some ch.toNat, coding := some c
      txs := { (s.call p).txs with seize := false } } := by
    rw [endTx_seize hk hp hs, seizeEnded_ack hst hch free fit, seized_call hst fit down hl room]
  refine ⟨_, ack_ends awake hin ht rfl (by decide) (by rw [hk]; exact ackFields_seize hcod), ?_⟩
  rw [call]
  exact ⟨rfl, rfl, rfl, rfl, calm.settings, calm.sts, calm.uptime, calm.mode, calm.accounts, calm.requests⟩

theorem seize_refused (cause : Byte) :
    ∃ u : State, exec (.nak n 1 [cause]) s = .next u.settle
      ∧ u.call p = { s.call p with
          state := .blocked, cause := .refused, coding := none
          txs := { (s.call p).txs with seize := false } }
      ∧ u.call p.other = s.call p.other
      ∧ (s.ss.waiting = [] → u.ss.txs = s.ss.txs.filter fun x => x.number != n.toNat)
      ∧ u.settings = s.settings ∧ u.sts = s.sts ∧ u.uptime = s.uptime ∧ u.sup = s.sup
      ∧ u.mu = s.mu ∧ u.plk.requests = s.plk.requests := by
  have calm : Calm allSides s.received (s.received.endTx t .nak) := calm_endTx t _ (.refl allSides _)
  have run := nak_ends awake hin ht cause
  rw [endTx_seize hk hp hs, seizeEnded_nak hst] at run calm
  have upd := only_updCall (s.seizeTold t p) p fun r => { r with state := .blocked, cause := .refused, coding := none }
  have told := only_seizeTold s t p
  obtain ⟨own, other⟩ := seizeTold_call s t p
  refine ⟨_, run, ?_, ?_, fun hw => ?_, calm.settings, calm.sts, calm.uptime, ?_, ?_, calm.requests⟩
  · rw [call_updCall, own]
  · rw [call_updCall_other, other]
  · rw [upd.ss (by decide), ← found_number ht]
    exact answeredEntry_idle t.number hw
  · rw [upd.sup (by decide), told.sup (by decide)]
  · rw [upd.mu (by decide), told.mu (by decide)]

end

/-- Settles O45: every message passes `receive` first; answers go to the entry their number names, and a SEIZE's end to
the call that asked. -/
theorem answersAreJudged : Obligations.AnswersAreJudged := by
  refine ⟨fun c t n l body s awake h => ?_, fun n t s awake hin ht hleft hsends =>
      timeout_resends awake hin ht hleft hsends, fun n l body s awake hin hb hl ht => ⟨_, rfl, ?_, ?_⟩,
    fun n t p s awake hin ht hk hp hs hst => ⟨fun ch cod c hch hcod free down fit hl room =>
      seize_granted awake hin ht hk hp hs hst hch hcod free down fit hl room, seize_refused awake hin ht hk hp hs hst⟩,
    fun t n l body s awake hin hk hb hl room => ?_⟩
  · obtain ⟨f, run⟩ := message_received awake h
    refine ⟨fun hout => by rw [run, receive_out f hout], fun hin bad => ?_⟩
    rw [run, receive_malformed f hin]
    rcases bad with bad | bad
    · simp [Msg.whole, bad]
    · simp [Msg.whole, Nat.not_le.mpr bad]
  · exact congrArg _ ((live_awake s _ awake).trans (congrArg _ (answerTo_unmatched hin hb hl _ ht)))
  · exact congrArg _ ((live_awake s _ awake).trans (congrArg _ (answerTo_unmatched hin hb hl _ ht)))
  · refine congrArg _ ((live_awake s _ awake).trans (congrArg _ ?_))
    rw [if_neg (by simp [hk])]
    exact unknownMsg_answered hin hb hl room

end Sys2Proof.Machine
end

section
/-!
PROOFS. A step without a command (log 2): what one millisecond does to the ports (R81, R91), the fault records, the
frame in progress (R169) and the uptime (R138).
-/

namespace Sys2Proof.Machine

-- One proof at a time: the text is compiled as one, and each proof that waits for the others holds a thread.
set_option Elab.async false

/-! ## The parts of a millisecond -/

section
variable (s : State)

theorem step_none (h : s.pending = []) : step s = .next s.tick := by
  unfold step
  rw [h]

/-- The uptime counts its milliseconds up to a second (R138). -/
theorem passUptime_eq : s.passUptime = { s with
    uptime := if 999 ≤ s.uptimeMs then s.uptime + 1 else s.uptime
    uptimeMs := if 999 ≤ s.uptimeMs then 0 else s.uptimeMs + 1 } := by
  unfold State.passUptime
  split <;> rfl

theorem tick_awake (hd : s.dormant = false) (hr : s.resetLow = false) : s.tick = { s.passUptime with
    le := s.le.passMs, ft := s.ft.passMs, ss := s.ss.passMs
    ports := ⟨s.ports.a.passTimers, s.ports.b.passTimers⟩
    cc := s.cc.passMs, sup := s.sup.passMs, tu := s.tu.passMs, fs := s.fs.passMs
    plk := s.plk.passMs (Config.selectClocks (1000 * s.uptime.toNat + s.uptimeMs)) } := by
  simp [State.tick, hd, hr]

end

theorem isTalk_iff (f : Feed) : f.isTalk = true ↔ f = .active ∨ f = .reversed := by
  cases f <;> simp [Feed.isTalk]

/-- Every fault record's retry timer passes (R155). -/
theorem passMs_faultRec (x : FS) (i : FaultId) : x.passMs.recs.get i = (x.recs.get i).passMs := by
  cases i <;> rfl

/-- The place in the tone's on and off times moves only while the tone plays (R91). -/
theorem toneNext_eq (x : PP) : x.toneNext =
    if x.audio = .none ∧ (x.feed = .active ∨ x.feed = .reversed) ∧ x.tone ≠ .none then
      (x.toneMs + 1) % (match x.tone with
        | .none | .noService => 1
        | .congestion => 400
        | .busy => 800
        | .ringback => 5000)
    else x.toneMs := by
  have plays : x.playsTone = true ↔ x.audio = .none ∧ (x.feed = .active ∨ x.feed = .reversed) ∧ x.tone ≠ .none := by
    simp only [PP.playsTone, Bool.and_eq_true, beq_iff_eq, bne_iff_ne, isTalk_iff, and_assoc]
  have times : x.tone.times.1 + x.tone.times.2 = (match x.tone with
        | .none | .noService => 1
        | .congestion => 400
        | .busy => 800
        | .ringback => 5000) := by
    cases x.tone <;> rfl
  rw [PP.toneNext, times]
  exact if_congr plays rfl rfl

/-! ## What a handset hears (R91) -/

theorem heard_idle {x : PP} (ha : x.feed ≠ .active) (hr : x.feed ≠ .reversed) : x.heard = .silence := by
  have idle : x.feed.isTalk = false := Bool.eq_false_iff.mpr fun h => ((isTalk_iff _).mp h).elim ha hr
  simp [PP.heard, idle]

/-- The local tone in its on time (R91). -/
theorem heard_tone {x : PP} (h : x.feed = .active ∨ x.feed = .reversed) (ha : x.audio = .none) :
    x.heard = if x.toneMs < x.tone.times.1 then .hz450 else .silence := by
  simp [PP.heard, (isTalk_iff _).mpr h, ha]

/-- Settles O6: the millisecond block by block (`tick_awake`), the handset by its audio source, and the byte sent
next. -/
theorem idleMillisecond : Obligations.IdleMillisecond := by
  refine ⟨fun s hd hr hp => ?_, fun x => ⟨heard_idle, fun h => ⟨fun ha => ?_, fun ha => ?_, fun ha => ?_⟩⟩, fun k =>
    ⟨fun h => ?_, fun f b hf hb => ?_⟩⟩
  · refine ⟨⟨s.ports.a.passTimers, s.ports.b.passTimers⟩, s.fs.passMs.recs,
      (s.plk.passMs (Config.selectClocks (1000 * s.uptime.toNat + s.uptimeMs))).frame, s.passUptime.uptime,
      s.passUptime.uptimeMs, ?_, passMs_faultRec s.fs, ?_, fun h => ?_, fun f h => ?_, fun h => ?_, fun h => ?_⟩
    · rw [step_none s hp, tick_awake s hd hr, passUptime_eq]
      rfl
    · rintro p x rfl
      refine Eq.trans ?_ (congrArg (fun n => { (s.port p).passTimers with toneMs := n }) (toneNext_eq (s.port p)))
      cases p <;> rfl
    · simp [PLK.passMs, h]
    · simp [PLK.passMs, h, wholeBytes]
    · rw [passUptime_eq]
      exact ⟨if_neg (by omega), if_neg (by omega)⟩
    · rw [passUptime_eq]
      exact ⟨if_pos h, if_pos h⟩
  · simp [PP.heard, (isTalk_iff _).mpr h, ha]
  · simp [PP.heard, (isTalk_iff _).mpr h, ha]
  · rw [heard_tone h ha]
    refine ⟨fun ht => ?_, fun ht h0 => ?_, fun ht => ?_, fun ht => ?_, fun ht => ?_⟩
    · simp [ht, Tone.times]
    · simp [ht, h0, Tone.times]
    · simp only [ht, Tone.times]
    · simp only [ht, Tone.times]
    · simp only [ht, Tone.times]
  · simp [PLK.outByte, h]
  · simp [PLK.outByte, hf, hb]

end Sys2Proof.Machine
end

section
/-!
PROOFS. The rules of a port's updates: what one update leaves of the port and of the other one, and what entering a feed
state does (R82, R84).
-/

namespace Sys2Proof.Machine

-- One proof at a time: the text is compiled as one, and each proof that waits for the others holds a thread.
set_option Elab.async false

section
variable (s : State) (p : Port) (f g : PP → PP)

@[simp] theorem port_modPort : (s.modPort p f).port p = f (s.port p) := perPort_get_set _ _ _

@[simp] theorem port_modPort_other : (s.modPort p f).port p.other = s.port p.other := perPort_get_set_other _ _ _

@[simp] theorem port_raise (n : Notice) : (s.raise n).port p = s.port p := rfl

@[simp] theorem port_raiseIf (c : Bool) (n : Notice) : (s.raiseIf c n).port p = s.port p := by
  rw [State.port, State.raiseIf_ports]
  rfl

@[simp] theorem call_modPort (q : Port) : (s.modPort p f).call q = s.call q := rfl

@[simp] theorem call_raise (n : Notice) (q : Port) : (s.raise n).call q = s.call q := rfl

@[simp] theorem call_raiseIf (c : Bool) (n : Notice) (q : Port) : (s.raiseIf c n).call q = s.call q := by
  rw [State.call, State.raiseIf_cc]
  rfl

theorem modPort_modPort : (s.modPort p f).modPort p g = s.modPort p fun x => g (f x) := by
  cases p <;> rfl

variable {f g}

/-- An update is what it makes of the port as it stands. -/
theorem modPort_congr (h : f (s.port p) = g (s.port p)) : s.modPort p f = s.modPort p g :=
  congrArg (fun x => { s with ports := s.ports.set p x }) h

end

/-- The detectors as a feed state is entered: blanked, their runs discarded, armed (R84, R89, R90). -/
def Detect.restarted (d : Detect) : Detect :=
  { d with
    blank := 30, offRun := 0, tripRun := 0, ocBlank := 20, ocRun := 0, ocMax := 0, ocArmed := true
    roMs := 0, roPeak := 0, roRun := 0, roMax := 0, roArmed := true }

theorem enter_eq (x : PP) {f : Feed} (h : f ≠ .polaritySwap) :
    x.enter f = { x with feed := f, toneMs := 0, swapTimer := none, detect := x.detect.restarted } := by
  simp [PP.enter, Detect.restarted, h]

end Sys2Proof.Machine
end

section
/-!
PROOFS. The timers of a port: the end of the polarity swap (R81) and the phases of a cadence (R82, R94).
-/

namespace Sys2Proof.Machine

-- One proof at a time: the text is compiled as one, and each proof that waits for the others holds a thread.
set_option Elab.async false

section
variable {s : State} {p : Port} (hd : s.dormant = false)
include hd

/-! ## POLARITY_SWAP_END (R81) -/

theorem polaritySwapEnd_enters (h : (s.port p).feed = .polaritySwap) : exec (.polaritySwapEnd p) s = .next (State.settle
    (s.modPort p fun x => { x with
      feed := if x.wanted = .normal then .active else .reversed
      toneMs := 0, swapTimer := none, detect := x.detect.restarted })) := by
  have wanted (w : Polarity) : (match w with | .normal => Feed.active | .reversed => .reversed)
      = if w = .normal then .active else .reversed := by
    cases w <;> rfl
  refine congrArg _ ((live_awake s _ hd).trans (congrArg _ ((if_pos h).trans (modPort_congr _ _ ?_))))
  exact (congrArg (PP.enter (s.port p)) (wanted _)).trans (enter_eq _ (by split <;> decide))

theorem polaritySwapEnd_idle (h : (s.port p).feed ≠ .polaritySwap) : exec (.polaritySwapEnd p) s = .next s.settle :=
  congrArg _ ((live_awake s _ hd).trans (congrArg _ (if_neg h)))

/-! ## CADENCE_PHASE_END (R82, R94) -/

theorem cadencePhaseEnd_pauses {k : CadencePos} (hk : (s.port p).cadence = some k) (hf : (s.port p).feed = .ringing) :
    exec (.cadencePhaseEnd p) s = .next (State.settle (s.modPort p fun x => { x.enter .ringPause with
      cadence := some (k.pause (((s.port p).ringRequest.map (Cadences.get s.settings.cadences)).getD k.pairs)) })) := by
  refine congrArg _ ((live_awake s _ hd).trans (congrArg _ ?_))
  simp only [hk, hf, if_true]

theorem cadencePhaseEnd_restarts {k : CadencePos} (hk : (s.port p).cadence = some k) (hf : (s.port p).feed = .ringPause)
    (hr : k.restart = true) : exec (.cadencePhaseEnd p) s = .next (State.settle
      (s.burstStart p (((s.port p).ringRequest.map (Cadences.get s.settings.cadences)).getD k.pairs) 0)) := by
  refine congrArg _ ((live_awake s _ hd).trans (congrArg _ ?_))
  simp only [hk, hf, hr, reduceCtorEq, if_false, if_true]

theorem cadencePhaseEnd_bursts {k : CadencePos} (hk : (s.port p).cadence = some k) (hf : (s.port p).feed = .ringPause)
    (hr : k.restart = false) : exec (.cadencePhaseEnd p) s = .next (State.settle
      (s.burstStart p k.pairs (if k.pair + 1 < k.pairs.length then k.pair + 1 else 0))) := by
  refine congrArg _ ((live_awake s _ hd).trans (congrArg _ ?_))
  simp only [hk, hf, hr, reduceCtorEq, Bool.false_eq_true, if_false, if_true]

theorem cadencePhaseEnd_idle (h : (s.port p).cadence = none ∨ (s.port p).feed = .standby) :
    exec (.cadencePhaseEnd p) s = .next s.settle := by
  refine congrArg _ ((live_awake s _ hd).trans (congrArg _ ?_))
  rcases h with h | h
  · simp only [h]
  · simp only [h, reduceCtorEq, if_false]
    cases (s.port p).cadence <;> rfl

end

/-- A burst start as an update of the port (R82). -/
theorem burstStart_eq (s : State) (p : Port) (pairs : Cadence) (j : Nat) : s.burstStart p pairs j = s.modPort p fun x =>
    { x with
      feed := .ringing, toneMs := 0, swapTimer := none, detect := x.detect.restarted
      cadence := some
        { pairs := pairs, pair := j, on := true, timeLeft := ((pairs[j]?).getD (0, 0)).1, restart := false
          volts := if s.sup.mode = .reserve then 50 else 60, freq := (s.settings.ports.get p).frequency } } :=
  modPort_congr _ _ (by rw [enter_eq _ (by decide)]; rfl)

/-- An update that enters a ringing feed with a cadence position is what the port then shows. -/
theorem modPort_ringing (s : State) (p : Port) (feed : Feed) (k : Option CadencePos) {u : State}
    (hu : u = s.modPort p fun x => { x with
      feed := feed, toneMs := 0, swapTimer := none, detect := x.detect.restarted, cadence := k }) :
    u = (s.modPort p fun x => { x with
      feed := (u.port p).feed, cadence := (u.port p).cadence, toneMs := 0, swapTimer := none
      detect := (u.port p).detect })
    ∧ (u.port p).detect.blank = 30 ∧ (u.port p).detect.offRun = 0 ∧ (u.port p).detect.tripRun = 0
    ∧ (u.port p).feed = feed ∧ (u.port p).cadence = k := by
  have own := congrArg (fun v : State => v.port p) hu
  simp only [port_modPort] at own
  rw [own]
  exact ⟨hu.trans (modPort_congr _ _ rfl), rfl, rfl, rfl, rfl, rfl⟩

/-- Settles O55: the swap's end by the wanted polarity, a phase's end by the feed and whether the cadence restarts. -/
theorem portTimersExpire : Obligations.PortTimersExpire := by
  rintro p x s hd rfl
  refine ⟨polaritySwapEnd_enters hd, polaritySwapEnd_idle hd, fun k hk hf => ?_, cadencePhaseEnd_idle hd⟩
  rcases hf with hf | hf
  · obtain ⟨shape, blank, off, trip, feed, cadence⟩ := modPort_ringing s p .ringPause
      (some (k.pause (((s.port p).ringRequest.map (Cadences.get s.settings.cadences)).getD k.pairs)))
      (modPort_congr s p (f := fun x => { x.enter .ringPause with cadence := _ })
        (by rw [enter_eq _ (by decide)]))
    refine ⟨_, _, cadencePhaseEnd_pauses hd hk hf, rfl, shape, blank, off, trip,
      fun _ => ⟨feed, fun hr => ?_, fun n hr hn => ?_⟩, fun h => absurd (hf.symm.trans h) (by decide)⟩
    · rw [cadence, CadencePos.pause, if_neg (by simp [hr])]
      rfl
    · rw [cadence, CadencePos.pause, if_pos hr, hn]
      rfl
  · have burst (pairs : Cadence) (j : Nat) := modPort_ringing s p .ringing _ (burstStart_eq s p pairs j)
    cases hr : k.restart
    · obtain ⟨shape, blank, off, trip, feed, cadence⟩ :=
        burst k.pairs (if k.pair + 1 < k.pairs.length then k.pair + 1 else 0)
      exact ⟨_, _, cadencePhaseEnd_bursts hd hk hf hr, rfl, shape, blank, off, trip,
        fun h => absurd (hf.symm.trans h) (by decide), fun _ => ⟨feed, fun _ => ⟨_, rfl, cadence⟩,
          fun n h => absurd h (by simp)⟩⟩
    · obtain ⟨shape, blank, off, trip, feed, cadence⟩ :=
        burst (((s.port p).ringRequest.map (Cadences.get s.settings.cadences)).getD k.pairs) 0
      refine ⟨_, _, cadencePhaseEnd_restarts hd hk hf hr, rfl, shape, blank, off, trip,
        fun h => absurd (hf.symm.trans h) (by decide), fun _ => ⟨feed, fun h => absurd h (by simp), fun n _ hn => ?_⟩⟩
      rw [cadence, hn]
      rfl

end Sys2Proof.Machine
end

section
/-!
PROOFS. What is done with a recognised digit: how it joins the list (R88) and what the call of its port takes of
it (R105),
said once for pulses and tones.
-/

namespace Sys2Proof.Machine

-- One proof at a time: the text is compiled as one, and each proof that waits for the others holds a thread.
set_option Elab.async false

/-! ## Pulse counts (R86) -/

theorem pulseDigit_count {k : Nat} {n : Fin 10} (h : k = if n.val = 0 then 10 else n.val) :
    pulseDigit k = some (.num n) := by
  subst h
  decide +revert

theorem pulseDigit_none {k : Nat} (h : k = 0 ∨ 10 < k) : pulseDigit k = none := by
  unfold pulseDigit
  rw [dif_neg (by omega), if_neg (by omega)]

/-! ## A digit joins the list (R88) -/

/-- A recognised digit joins the list, and the call takes it where it joined. -/
def State.digitTaken (s : State) (p : Port) (d : Digit) (m : Method) : State :=
  if (s.addDigit p d m).2 then (s.addDigit p d m).1.ccDigit p else (s.addDigit p d m).1

/-- The digit has joined the list, marked PENDING. -/
def State.digitJoined (s : State) (p : Port) (d : Digit) (m : Method) : State :=
  (s.modPort p fun x => { x with digits := x.digits ++ [⟨d, m, .pending⟩] }).raise (.digits p)

section
variable (s : State) (p : Port) (d : Digit) (m : Method)

theorem digitTaken_joined (h : (s.port p).digits.length < 32) :
    s.digitTaken p d m = (s.digitJoined p d m).ccDigit p := by
  simp only [State.digitTaken, State.addDigit, if_pos h, if_true]
  rfl

theorem digitTaken_full (h : 32 ≤ (s.port p).digits.length) : s.digitTaken p d m =
    (s.modPort p fun x => { x with overflow := true }).raiseIf (!(s.port p).overflow) (.digits p) := by
  simp [State.digitTaken, State.addDigit, Nat.not_lt.mpr h]

theorem only_digitJoined : Only [.ports, .plk] s (s.digitJoined p d m) := .seq (only_modPort s p _) (only_raise _ _)

@[simp] theorem port_digitJoined : (s.digitJoined p d m).port p = { s.port p with
    digits := (s.port p).digits ++ [⟨d, m, .pending⟩] } := by
  simp [State.digitJoined]

@[simp] theorem port_digitJoined_other : (s.digitJoined p d m).port p.other = s.port p.other := by
  simp [State.digitJoined]

end

/-! ## What the call takes (R105) -/

/-- The states in which a leading star waits for the next digit. -/
def CallState.holdsStar : CallState → Bool
  | .seizing | .dialling | .localOnly | .blocked => true
  | _ => false

/-- The states in which a digit is LOCAL at once. -/
def CallState.takesLocal : CallState → Bool
  | .localOnly | .blocked | .farCleared | .clearing | .intercomCalling | .intercomRinging | .intercomConnected
  | .intercomEnded => true
  | _ => false

/-- A list of one pending star. -/
def loneStar : List DigitEntry → Bool
  | [e] => e.digit == .star && e.mark == .pending
  | _ => false

theorem loneStar_iff (l : List DigitEntry) : loneStar l = true ↔ ∃ m, l = [⟨.star, m, .pending⟩] := by
  rcases l with _ | ⟨⟨d, m, k⟩, _ | ⟨e, t⟩⟩
  · simp [loneStar]
  · simp [loneStar]
  · simp [loneStar]

/-- What the call does with a list whose last digit is new: a lone star waits, a second star starts intercom, and
otherwise the digit, with the star that waited, is LOCAL or stays PENDING. -/
theorem ccDigit_eq {s : State} {p : Port} {l : List DigitEntry} {e : DigitEntry} {st : CallState}
    (h : (s.port p).digits = l ++ [e]) (he : e.mark = .pending) (hst : (s.call p).state = st) : s.ccDigit p =
    if st.holdsStar && l.isEmpty && e.digit == .star then s
    else if st.holdsStar && loneStar l && e.digit == .star && (s.settings.ports.get p).intercomEnable then
      (s.markDigits p (fun _ => true) .localDigit).dialIntercom p
    else if st.takesLocal then
      s.markDigits p (fun i => i == l.length || (st.holdsStar && loneStar l)) .localDigit
    else s := by
  unfold State.ccDigit
  subst hst
  rcases l with _ | ⟨a, _ | ⟨b, t⟩⟩ <;> cases (s.call p).state <;>
    simp [h, he, CallState.holdsStar, CallState.takesLocal, loneStar]

/-! ## The marks of the list (R88, R105) -/

/-- The digit marked LOCAL. -/
def DigitEntry.asLocal (e : DigitEntry) : DigitEntry := { e with mark := .localDigit }

/-- The list after a new digit that starts no intercom. -/
def takenDigits (st : CallState) (l : List DigitEntry) (e : DigitEntry) : List DigitEntry :=
  if st.holdsStar && l.isEmpty && e.digit == .star then l ++ [e]
  else if st.takesLocal then (if st.holdsStar && loneStar l then l.map DigitEntry.asLocal else l) ++ [e.asLocal]
  else l ++ [e]

theorem takenDigits_digits (st : CallState) (l : List DigitEntry) (e : DigitEntry) :
    (takenDigits st l e).map (·.digit) = l.map (·.digit) ++ [e.digit] := by
  have same : (l.map DigitEntry.asLocal).map (·.digit) = l.map (·.digit) := by simp [DigitEntry.asLocal]
  unfold takenDigits
  split
  · simp
  · split
    · split
      · simp only [List.map_append, same]
        rfl
      · simp [DigitEntry.asLocal]
    · simp

/-- Marking the newest digit, and the digits before it where `b` says so. -/
theorem marks_newest (l : List DigitEntry) {e : DigitEntry} (he : e.mark = .pending) {b : Bool}
    (hb : b = true → ∀ x ∈ l, x.mark = .pending) :
    ((l ++ [e]).zipIdx.map fun x => if (x.2 == l.length || b) = true ∧ x.1.mark = .pending
      then { x.1 with mark := .localDigit } else x.1) = (if b then l.map DigitEntry.asLocal else l) ++ [e.asLocal] := by
  have older : (l.zipIdx.map fun x => if (x.2 == l.length || b) = true ∧ x.1.mark = .pending
      then { x.1 with mark := .localDigit } else x.1)
      = l.zipIdx.map fun x => if b then x.1.asLocal else x.1 := by
    refine List.map_congr_left fun x hx => ?_
    have place := List.snd_lt_of_mem_zipIdx hx
    cases b
    · rw [if_neg (by simp; omega), if_neg (by simp)]
    · rw [if_pos ⟨by simp, hb rfl _ (List.fst_mem_of_mem_zipIdx hx)⟩]
      rfl
  have plain (g : DigitEntry → DigitEntry) : (l.zipIdx.map fun x => g x.1) = l.map g := by
    conv_rhs => rw [← List.zipIdx_map_fst 0 l, List.map_map]
    rfl
  rw [List.zipIdx_append, List.map_append, older, plain fun x => if b then x.asLocal else x]
  cases b <;> simp [he, DigitEntry.asLocal]

/-! ## The port after a digit -/

section
variable {s : State} {p : Port} {d : Digit} {m : Method}

/-- Whether the digit starts intercom (R111). -/
def State.dialsIntercom (s : State) (p : Port) (d : Digit) : Bool :=
  (s.call p).state.holdsStar && loneStar (s.port p).digits && d == .star && (s.settings.ports.get p).intercomEnable

theorem ccDigit_joined (hno : s.dialsIntercom p d = false) {st : CallState} (hst : (s.call p).state = st)
    {l : List DigitEntry} (hl : (s.port p).digits = l) : (s.digitJoined p d m).ccDigit p =
    if st.takesLocal && !(st.holdsStar && l.isEmpty && d == .star) then
      (s.digitJoined p d m).markDigits p (fun i => i == l.length || (st.holdsStar && loneStar l)) .localDigit
    else s.digitJoined p d m := by
  have no : (st.holdsStar && loneStar l && d == .star && (s.settings.ports.get p).intercomEnable) = false := by
    rw [← hst, ← hl]
    exact hno
  have taken := ccDigit_eq (s := s.digitJoined p d m) (p := p) (l := l) (e := ⟨d, m, .pending⟩) (st := st)
    (by rw [port_digitJoined, hl]) rfl hst
  rw [taken, show (s.digitJoined p d m).settings = s.settings from (only_digitJoined s p d m).settings, no]
  cases (st.holdsStar && l.isEmpty && d == .star) <;> simp

/-- A digit that joins and starts no intercom: the list with its marks, and nothing else. -/
theorem digitTaken_keeps (hno : s.dialsIntercom p d = false) (h : (s.port p).digits.length < 32) :
    (s.digitTaken p d m).port p = { s.port p with
      digits := takenDigits (s.call p).state (s.port p).digits ⟨d, m, .pending⟩ }
    ∧ (s.digitTaken p d m).port p.other = s.port p.other ∧ Only [.ports, .plk] s (s.digitTaken p d m) := by
  rw [digitTaken_joined s p d m h, ccDigit_joined hno rfl rfl]
  generalize hst : (s.call p).state = st
  generalize hl : (s.port p).digits = l
  have lone : (st.holdsStar && loneStar l) = true → ∀ x ∈ l, x.mark = .pending := fun hs => by
    obtain ⟨m, rfl⟩ := (loneStar_iff l).mp (Bool.and_eq_true_iff.mp hs).2
    simp
  split
  · rename_i hm
    obtain ⟨takes, waits⟩ := Bool.and_eq_true_iff.mp hm
    refine ⟨?_, ?_, (only_digitJoined s p d m).seq (only_markDigits _ _ _ _)⟩
    · rw [Bool.not_eq_true'] at waits
      rw [markDigits_port, port_digitJoined, hl]
      simp only [marks_newest l (e := ⟨d, m, .pending⟩) rfl lone, takenDigits, takes, waits, if_true,
        Bool.false_eq_true,
        if_false]
    · rw [markDigits_port_other, port_digitJoined_other]
  · rename_i hm
    refine ⟨?_, port_digitJoined_other s p d m, (only_digitJoined s p d m).within⟩
    rw [port_digitJoined, hl]
    unfold takenDigits
    split
    · rfl
    · rename_i waits
      rw [if_neg (by simpa [Bool.eq_false_iff.mpr waits] using hm)]

/-- A digit the full list discards sets the overflow flag and nothing else. -/
theorem digitTaken_discards (h : 32 ≤ (s.port p).digits.length) :
    (s.digitTaken p d m).port p = { s.port p with overflow := true }
    ∧ (s.digitTaken p d m).port p.other = s.port p.other ∧ Only [.ports, .plk] s (s.digitTaken p d m) := by
  rw [digitTaken_full s p d m h]
  exact ⟨by simp, by simp, .seq (only_modPort s p _) (only_raiseIf _ _ _)⟩

theorem num_starts_nothing (n : Fin 10) : s.dialsIntercom p (.num n) = false := by
  have : (Digit.num n == Digit.star) = false := rfl
  simp [State.dialsIntercom, this]

end

/-! ## A train ends (R86) -/

section
variable {s : State} {p : Port}

/-- The train counted as a digit, its count back at 0. -/
def State.trainCounted (s : State) (p : Port) : State := s.modPort p fun x => { x with
  pulses := 0, detect := { x.detect with make := none }
  counts := { x.counts with pulseDigits := inc32 x.counts.pulseDigits } }

theorem endTrain_digit {n : Fin 10} (h : (s.port p).pulses = if n.val = 0 then 10 else n.val) :
    s.endTrain p = (s.trainCounted p).digitTaken p (.num n) .pulse := by
  unfold State.endTrain
  rw [pulseDigit_count h]
  rfl

theorem endTrain_discards (h : (s.port p).pulses = 0 ∨ 10 < (s.port p).pulses) :
    s.endTrain p = s.modPort p PP.discardTrain := by
  unfold State.endTrain
  rw [pulseDigit_none h]

theorem pulses_cases (k : Nat) : (∃ n : Fin 10, k = if n.val = 0 then 10 else n.val) ∨ k = 0 ∨ 10 < k := by
  by_cases h : k = 0 ∨ 10 < k
  · exact .inr h
  · refine .inl ⟨⟨k % 10, Nat.mod_lt _ (by decide)⟩, ?_⟩
    dsimp only
    split <;> omega

/-- The port after a train that is a digit: the train over, the digit counted, and the list with its marks. -/
theorem endTrain_port {n : Fin 10} (h : (s.port p).pulses = if n.val = 0 then 10 else n.val) :
    (s.endTrain p).port p = { s.port p with
      pulses := 0, detect := { (s.port p).detect with make := none }
      counts := { (s.port p).counts with pulseDigits := inc32 (s.port p).counts.pulseDigits }
      digits := if (s.port p).digits.length < 32
        then takenDigits (s.call p).state (s.port p).digits ⟨.num n, .pulse, .pending⟩ else (s.port p).digits
      overflow := if (s.port p).digits.length < 32 then (s.port p).overflow else true }
    ∧ Only [.ports, .plk] s (s.endTrain p) := by
  have counted : Only [.ports] s (s.trainCounted p) := only_modPort s p _
  have port : (s.trainCounted p).port p = { s.port p with
      pulses := 0, detect := { (s.port p).detect with make := none }
      counts := { (s.port p).counts with pulseDigits := inc32 (s.port p).counts.pulseDigits } } := port_modPort s p _
  rw [endTrain_digit h]
  by_cases hl : (s.port p).digits.length < 32
  · obtain ⟨own, -, only⟩ := digitTaken_keeps (s := s.trainCounted p) (p := p) (m := .pulse) (num_starts_nothing n)
      (by rw [port]; exact hl)
    refine ⟨?_, counted.seq only⟩
    rw [own, port, if_pos hl, if_pos hl]
    rfl
  · obtain ⟨own, -, only⟩ := digitTaken_discards (s := s.trainCounted p) (p := p) (d := .num n) (m := .pulse)
      (by rw [port]; exact Nat.not_lt.mp hl)
    refine ⟨?_, counted.seq only⟩
    rw [own, port, if_neg hl, if_neg hl]

end

end Sys2Proof.Machine
end

section
/-!
PROOFS. The samples of one millisecond (R84 to R86, R89, R90): the two overload detectors, the hook detector, and the
break that ends at a sample.
-/

namespace Sys2Proof.Machine

-- One proof at a time: the text is compiled as one, and each proof that waits for the others holds a thread.
set_option Elab.async false

/-! ## The detectors that run at every sample (R84, R85, R89, R90) -/

section
variable (x : PP) (loop ring : Nat)

/-- The port after what runs at every sample: the times, and the overcurrent and ring overload detectors. -/
def PP.sampled : PP := ((x.passMs).overcurrentSample loop).overloadSample ring

theorem overcurrentSample_eq : x.overcurrentSample loop = { x with detect := { x.detect with
    ocBlank := (x.overcurrentSample loop).detect.ocBlank, ocRun := (x.overcurrentSample loop).detect.ocRun
    ocMax := (x.overcurrentSample loop).detect.ocMax, ocArmed := (x.overcurrentSample loop).detect.ocArmed } } := by
  unfold PP.overcurrentSample
  dsimp only
  split
  iterate 3
    · split
      · rfl
      · split
        · split <;> rfl
        · rfl
  · rfl

theorem period_eq (d : Detect) (peak : Nat) : d.period peak = { d with
    roPeak := (d.period peak).roPeak, roRun := (d.period peak).roRun, roMax := (d.period peak).roMax } := by
  unfold Detect.period
  dsimp only
  split
  · rfl
  · split <;> rfl

theorem overloadSample_eq : x.overloadSample ring = { x with detect := { x.detect with
    roMs := (x.overloadSample ring).detect.roMs, roPeak := (x.overloadSample ring).detect.roPeak
    roRun := (x.overloadSample ring).detect.roRun, roMax := (x.overloadSample ring).detect.roMax } } := by
  unfold PP.overloadSample
  dsimp only
  split
  · split
    · rw [period_eq]
    · rfl
  · rfl

/-- A sample leaves all of the port but the times and the two detectors' own fields. -/
theorem sampled_eq : x.sampled loop ring = { x with detect := { x.detect with
    blank := x.detect.blank - 1, breakMs := if x.hook = .brk then x.detect.breakMs + 1 else x.detect.breakMs
    ocBlank := (x.sampled loop ring).detect.ocBlank, ocRun := (x.sampled loop ring).detect.ocRun
    ocMax := (x.sampled loop ring).detect.ocMax, ocArmed := (x.sampled loop ring).detect.ocArmed
    roMs := (x.sampled loop ring).detect.roMs, roPeak := (x.sampled loop ring).detect.roPeak
    roRun := (x.sampled loop ring).detect.roRun, roMax := (x.sampled loop ring).detect.roMax } } := by
  rw [PP.sampled, overloadSample_eq, overcurrentSample_eq]
  rfl

@[simp] theorem sampled_feed : (x.sampled loop ring).feed = x.feed :=
  (congrArg PP.feed (sampled_eq x loop ring)).trans rfl
@[simp] theorem sampled_hook : (x.sampled loop ring).hook = x.hook :=
  (congrArg PP.hook (sampled_eq x loop ring)).trans rfl
@[simp] theorem sampled_pulses : (x.sampled loop ring).pulses = x.pulses :=
  (congrArg PP.pulses (sampled_eq x loop ring)).trans rfl
@[simp] theorem sampled_counts : (x.sampled loop ring).counts = x.counts :=
  (congrArg PP.counts (sampled_eq x loop ring)).trans rfl
@[simp] theorem sampled_digits : (x.sampled loop ring).digits = x.digits :=
  (congrArg PP.digits (sampled_eq x loop ring)).trans rfl
@[simp] theorem sampled_offRun : (x.sampled loop ring).detect.offRun = x.detect.offRun :=
  congrArg (·.detect.offRun) (sampled_eq x loop ring)
@[simp] theorem sampled_tripRun : (x.sampled loop ring).detect.tripRun = x.detect.tripRun :=
  congrArg (·.detect.tripRun) (sampled_eq x loop ring)
theorem sampled_breakMs (h : x.hook = .brk) : (x.sampled loop ring).detect.breakMs = x.detect.breakMs + 1 :=
  (congrArg (·.detect.breakMs) (sampled_eq x loop ring)).trans (if_pos h)

variable {x loop}

/-- The overcurrent detector (R89): blanked first, then counting the samples above 60 mA. -/
theorem sampled_overcurrent (h : x.feed = .standby ∨ x.feed = .active ∨ x.feed = .reversed) :
    (0 < x.detect.ocBlank → (x.sampled loop ring).detect.ocBlank = x.detect.ocBlank - 1
      ∧ (x.sampled loop ring).detect.ocRun = x.detect.ocRun)
    ∧ (x.detect.ocBlank = 0 → 60 < loop → x.detect.ocArmed = true →
      (x.sampled loop ring).detect.ocRun = min 10 (x.detect.ocRun + 1))
    ∧ (x.detect.ocBlank = 0 → loop ≤ 60 →
      (x.sampled loop ring).detect.ocRun = 0 ∧ (x.sampled loop ring).detect.ocArmed = true) := by
  have own : (x.sampled loop ring).detect.ocBlank = (x.passMs.overcurrentSample loop).detect.ocBlank
      ∧ (x.sampled loop ring).detect.ocRun = (x.passMs.overcurrentSample loop).detect.ocRun
      ∧ (x.sampled loop ring).detect.ocArmed = (x.passMs.overcurrentSample loop).detect.ocArmed := by
    rw [PP.sampled, overloadSample_eq]
    exact ⟨rfl, rfl, rfl⟩
  rw [own.1, own.2.1, own.2.2]
  refine ⟨fun hb => ?_, fun hb hl ha => ?_, fun hb hl => ?_⟩
  · rcases h with h | h | h <;> simp [PP.overcurrentSample, PP.passMs, h, hb]
  · rcases h with h | h | h <;> simp [PP.overcurrentSample, PP.passMs, h, hb, hl, ha, satInc]
  · rcases h with h | h | h <;> simp [PP.overcurrentSample, PP.passMs, h, hb, Nat.not_lt.mpr hl]

/-- The ring overload detector (R90): its periods of 10 ms, the first three blanked. -/
theorem sampled_overload (h : x.feed = .ringing) : (x.sampled loop ring).detect.roMs = x.detect.roMs + 1
    ∧ ((x.detect.roMs + 1) % 10 ≠ 0 ∨ x.detect.roMs < 30 → (x.sampled loop ring).detect.roRun = x.detect.roRun)
    ∧ ((x.detect.roMs + 1) % 10 = 0 → 30 ≤ x.detect.roMs → x.detect.roArmed = true →
      (x.sampled loop ring).detect.roRun
        = if 90 < max x.detect.roPeak ring then min 5 (x.detect.roRun + 1) else 0) := by
  have fed : x.sampled loop ring = x.passMs.overloadSample ring := by
    simp [PP.sampled, PP.overcurrentSample, PP.passMs, h]
  have on : x.passMs.feed = .ringing := h
  rw [fed, PP.overloadSample, if_pos on]
  by_cases h10 : (x.detect.roMs + 1) % 10 = 0
  · have e : x.passMs.detect.roMs = x.detect.roMs := rfl
    simp only [e, h10, if_true]
    refine ⟨by rw [period_eq], fun hb => ?_, fun _ hb ha => ?_⟩
    · have early : x.detect.roMs + 1 ≤ 30 := by omega
      simp [Detect.period, PP.passMs, early]
    · have late : ¬ x.detect.roMs + 1 ≤ 30 := by omega
      simp only [Detect.period, PP.passMs, late, ha, satInc, Bool.true_eq_false, or_self, if_false]
      split <;> rfl
  · have e : x.passMs.detect.roMs = x.detect.roMs := rfl
    simp only [e, h10, if_false]
    exact ⟨trivial, fun _ => rfl, fun h => h.elim⟩

end

/-! ## The hook detector (R85) -/

/-- A break of length `l`, below 96 ms, ends. -/
def PP.breakEnded (x : PP) (l : Nat) : PP :=
  let x := { x with hook := .offHook, detect := { x.detect with breakMs := 0, onHookDue := false } }
  if l < 20 then { x with counts := { x.counts with glitches := inc32 x.counts.glitches } }
  else if l < 25 then x.discardTrain
  else { x with pulses := min 255 (x.pulses + 1), detect := { x.detect with make := some 150 } }

/-- The hook detector at an unblanked sample that does not end a break of 96 ms or more. -/
def PP.hookRead (x : PP) (t loop : Nat) : PP :=
  match x.hook with
  | .onHook =>
    match x.feed with
    | .testing | .standby | .ringPause =>
      { x with detect := { x.detect with offRun := if t ≤ loop then min 20 (x.detect.offRun + 1) else 0 } }
    | .ringing =>
      { x with detect := { x.detect with tripRun := if 15 < loop then min 30 (x.detect.tripRun + 1) else 0 } }
    | _ => x
  | .offHook =>
    if loop + 2 < t then
      { x with hook := .brk, detect := { x.detect with breakMs := 0, onHookDue := false, toneArmed := true } }
    else x
  | .brk =>
    if t ≤ loop then x.breakEnded x.detect.breakMs
    else if loop + 2 < t ∧ 300 ≤ x.detect.breakMs then { x with detect := { x.detect with onHookDue := true } }
    else x

/-- The detector moves the hook, the train, the port's counts and its own runs. -/
theorem hookRead_eq (x : PP) (t loop : Nat) : x.hookRead t loop = { x with
    hook := (x.hookRead t loop).hook, pulses := (x.hookRead t loop).pulses, counts := (x.hookRead t loop).counts
    detect := { x.detect with
      offRun := (x.hookRead t loop).detect.offRun, tripRun := (x.hookRead t loop).detect.tripRun
      breakMs := (x.hookRead t loop).detect.breakMs, onHookDue := (x.hookRead t loop).detect.onHookDue
      make := (x.hookRead t loop).detect.make, toneArmed := (x.hookRead t loop).detect.toneArmed } } := by
  unfold PP.hookRead PP.breakEnded
  split
  · split <;> rfl
  · split <;> rfl
  · split
    · dsimp only
      split
      · rfl
      · split <;> rfl
    · split <;> rfl

theorem modPort_self (s : State) (p : Port) {f : PP → PP} (h : f (s.port p) = s.port p) : s.modPort p f = s := by
  rw [modPort_congr s p (g := id) h]
  cases p <;> rfl

section
variable (s : State) (p : Port)

theorem endBreak_short {l : Nat} (h : l < 96) : s.endBreak p l = s.modPort p fun x => x.breakEnded l := by
  unfold State.endBreak
  dsimp only
  by_cases h20 : l < 20
  · rw [if_pos h20, modPort_modPort]
    exact modPort_congr _ _ (by simp [PP.breakEnded, h20])
  · by_cases h25 : l < 25
    · rw [if_neg h20, if_pos h25, modPort_modPort]
      exact modPort_congr _ _ (by simp [PP.breakEnded, h20, h25])
    · rw [if_neg h20, if_neg h25, if_pos h, modPort_modPort]
      exact modPort_congr _ _ (by simp [PP.breakEnded, h20, h25, satInc])

/-- From 96 ms on the break ends the train (R86). -/
theorem endBreak_long {l : Nat} (h : 96 ≤ l) : s.endBreak p l = (s.modPort p fun x =>
    { x with hook := .offHook, detect := { x.detect with breakMs := 0, onHookDue := false } }).endTrain p := by
  unfold State.endBreak
  dsimp only
  rw [if_neg (by omega), if_neg (by omega), if_neg (by omega)]

theorem hookUnblanked_reads {t loop : Nat}
    (h : (s.port p).hook = .brk → t ≤ loop → (s.port p).detect.breakMs < 96) :
    s.hookUnblanked p t loop = s.modPort p fun x => x.hookRead t loop := by
  unfold State.hookUnblanked
  dsimp only
  split
  · rename_i hh
    split
    iterate 4
      · rename_i hf
        exact modPort_congr _ _ (by simp [PP.hookRead, hh, hf, satInc])
    · rename_i n1 n2 n3 n4
      refine (modPort_self s p ?_).symm
      rw [PP.hookRead, hh]
      cases hf : (s.port p).feed <;> simp_all
  · rename_i hh
    split
    · rename_i hl
      exact modPort_congr _ _ (by simp [PP.hookRead, hh, hl])
    · rename_i hl
      exact (modPort_self s p (by simp [PP.hookRead, hh, hl])).symm
  · rename_i hh
    split
    · rename_i hl
      rw [endBreak_short s p (h hh hl)]
      exact modPort_congr _ _ (by simp [PP.hookRead, hh, hl])
    · rename_i hl
      split
      · rename_i hd
        exact modPort_congr _ _ (by simp [PP.hookRead, hh, hl, hd])
      · rename_i hd
        exact (modPort_self s p (by simp [PP.hookRead, hh, hl, hd])).symm

end

/-! ## HOOK_SAMPLE -/

/-- Whether the sample is kept from the hook detector (R81, R84). -/
def State.hookBlanked (s : State) (p : Port) : Bool :=
  decide (0 < (s.port p).detect.blank) || ((s.settings.ports.get p).fenceExposed && s.gatedNow)
    || (s.port p).feed == .polaritySwap

section
variable {s : State} {p : Port} {loop ring t : Nat}

theorem hookSample_idle (hd : s.dormant = false) (h : (s.port p).feed = .disconnected ∨ (s.port p).feed = .protect) :
    exec (.hookSample p loop ring) s = .next s.settle := by
  refine congrArg _ ((live_awake s _ hd).trans (congrArg _ (if_neg ?_)))
  rcases h with h | h <;> simp [h, Feed.sampled]

theorem sampled_or_swap {f : Feed} (h1 : f ≠ .disconnected) (h2 : f ≠ .protect) :
    (f.sampled || f == .polaritySwap) = true ∧ f.sampled = !(f == .polaritySwap) := by
  cases f with
  | disconnected => exact absurd rfl h1
  | protect => exact absurd rfl h2
  | _ => exact ⟨rfl, rfl⟩

theorem hookSample_runs (hd : s.dormant = false) (h1 : (s.port p).feed ≠ .disconnected)
    (h2 : (s.port p).feed ≠ .protect) :
    exec (.hookSample p loop ring) s = .next (s.hookSample p loop ring).settle :=
  congrArg _ ((live_awake s _ hd).trans (congrArg _ (if_pos (sampled_or_swap h1 h2).1)))

theorem hookSample_eq (h1 : (s.port p).feed ≠ .disconnected) (h2 : (s.port p).feed ≠ .protect)
    (ht : t = (s.settings.ports.get p).offHookThreshold) : s.hookSample p loop ring =
    if s.hookBlanked p then s.modPort p fun x => x.sampled loop ring
    else (s.modPort p fun x => x.sampled loop ring).hookUnblanked p t loop := by
  unfold State.hookSample State.hookBlanked
  dsimp only
  rw [(sampled_or_swap h1 h2).2, ht]
  cases ((s.port p).feed == .polaritySwap) <;>
    cases (decide (0 < (s.port p).detect.blank) || ((s.settings.ports.get p).fenceExposed && s.gatedNow)) <;> rfl

end

/-- The state `y` of the port differs from `z` in nothing but what the hook detector moves. -/
def PP.HookMoved (z y : PP) : Prop := y = { z with
  hook := y.hook, pulses := y.pulses, counts := y.counts
  detect := { z.detect with
    offRun := y.detect.offRun, tripRun := y.detect.tripRun, breakMs := y.detect.breakMs
    onHookDue := y.detect.onHookDue, make := y.detect.make, toneArmed := y.detect.toneArmed } }

/-- What the sample does to the times and the overload detectors, whatever the hook detector moves. -/
theorem HookMoved.detectors {x y : PP} {loop ring : Nat} (h : (x.sampled loop ring).HookMoved y) :
    y = { x with hook := y.hook, pulses := y.pulses, counts := y.counts, detect := y.detect }
    ∧ y.detect.blank = x.detect.blank - 1
    ∧ (x.feed = .standby ∨ x.feed = .active ∨ x.feed = .reversed →
        (0 < x.detect.ocBlank → y.detect.ocBlank = x.detect.ocBlank - 1 ∧ y.detect.ocRun = x.detect.ocRun)
        ∧ (x.detect.ocBlank = 0 → 60 < loop → x.detect.ocArmed = true → y.detect.ocRun = min 10 (x.detect.ocRun + 1))
        ∧ (x.detect.ocBlank = 0 → loop ≤ 60 → y.detect.ocRun = 0 ∧ y.detect.ocArmed = true))
    ∧ (x.feed = .ringing → y.detect.roMs = x.detect.roMs + 1
        ∧ ((x.detect.roMs + 1) % 10 ≠ 0 ∨ x.detect.roMs < 30 → y.detect.roRun = x.detect.roRun)
        ∧ ((x.detect.roMs + 1) % 10 = 0 → 30 ≤ x.detect.roMs → x.detect.roArmed = true →
          y.detect.roRun = if 90 < max x.detect.roPeak ring then min 5 (x.detect.roRun + 1) else 0)) := by
  have field {α : Type} (g : Detect → α) := congrArg (fun z : PP => g z.detect) h
  rw [field Detect.blank, field Detect.ocBlank, field Detect.ocRun, field Detect.ocArmed, field Detect.roMs,
    field Detect.roRun]
  refine ⟨?_, congrArg (·.detect.blank) (sampled_eq x loop ring), sampled_overcurrent ring, sampled_overload ring⟩
  have whole (d : Detect) (hd : d = y.detect) : { x.sampled loop ring with
      hook := y.hook, pulses := y.pulses, counts := y.counts, detect := d } = { x with
      hook := y.hook, pulses := y.pulses, counts := y.counts, detect := y.detect } := by
    rw [hd, sampled_eq]
  exact h.trans (whole _ (field id).symm)

end Sys2Proof.Machine
end

section
/-!
PROOFS. HOOK_SAMPLE (R84 to R86, R89, R90): the hook detector's clauses, for a sample that is blanked, that leaves the
train open, or that ends a break of 96 ms or more.
-/

namespace Sys2Proof.Machine

-- One proof at a time: the text is compiled as one, and each proof that waits for the others holds a thread.
set_option Elab.async false

section
variable {x : PP} {t loop ring : Nat}

theorem hookRead_moves : (x.sampled loop ring).HookMoved ((x.sampled loop ring).hookRead t loop) := hookRead_eq _ t loop

/-- On-hook the detector counts towards an off-hook or, in RINGING, a ring trip (R83, R85). -/
theorem hookRead_onHook (h : x.hook = .onHook) :
    (x.feed = .standby ∨ x.feed = .ringPause ∨ x.feed = .testing →
      (x.hookRead t loop).hook = .onHook
      ∧ (x.hookRead t loop).detect.offRun = if t ≤ loop then min 20 (x.detect.offRun + 1) else 0)
    ∧ (x.feed = .ringing → (x.hookRead t loop).hook = .onHook
      ∧ (x.hookRead t loop).detect.tripRun = if 15 < loop then min 30 (x.detect.tripRun + 1) else 0) := by
  refine ⟨fun hf => ?_, fun hf => ?_⟩
  · rcases hf with hf | hf | hf <;> simp [PP.hookRead, h, hf]
  · simp [PP.hookRead, h, hf]

/-- Off-hook a break begins below T - 2 (R85). -/
theorem hookRead_offHook (h : x.hook = .offHook) :
    (loop + 2 < t → (x.hookRead t loop).hook = .brk ∧ (x.hookRead t loop).detect.breakMs = 0
      ∧ (x.hookRead t loop).detect.toneArmed = true)
    ∧ (t ≤ loop + 2 → (x.hookRead t loop).hook = .offHook) :=
  ⟨fun hl => by simp [PP.hookRead, h, hl], fun hl => by simp [PP.hookRead, h, Nat.not_lt.mpr hl]⟩

/-- A break goes on below T (R85). -/
theorem hookRead_breaks (h : x.hook = .brk) (hl : loop < t) : (x.hookRead t loop).hook = .brk
    ∧ (x.hookRead t loop).detect.breakMs = x.detect.breakMs
    ∧ (loop + 2 < t → 300 ≤ x.detect.breakMs → (x.hookRead t loop).detect.onHookDue = true) := by
  simp only [PP.hookRead, h, Nat.not_le.mpr hl, if_false]
  split
  · exact ⟨rfl, rfl, fun _ _ => rfl⟩
  · rename_i hn
    exact ⟨h, rfl, fun h2 h3 => absurd ⟨h2, h3⟩ hn⟩

theorem hookRead_breakEnded (h : x.hook = .brk) (hl : t ≤ loop) :
    x.hookRead t loop = x.breakEnded x.detect.breakMs := by
  simp [PP.hookRead, h, hl]

/-- A break below 96 ms: a glitch, a discarded train, or a pulse (R85, R86). -/
theorem breakEnded_spec (l : Nat) : (x.breakEnded l).hook = .offHook
    ∧ (l < 20 → (x.breakEnded l).pulses = x.pulses
      ∧ (x.breakEnded l).counts = { x.counts with glitches := inc32 x.counts.glitches })
    ∧ (20 ≤ l → l < 25 → (x.breakEnded l).pulses = 0 ∧ (x.breakEnded l).detect.make = none
      ∧ (x.breakEnded l).counts = if x.pulses = 0 then x.counts
          else { x.counts with trainsDiscarded := inc32 x.counts.trainsDiscarded })
    ∧ (25 ≤ l → (x.breakEnded l).pulses = min 255 (x.pulses + 1) ∧ (x.breakEnded l).detect.make = some 150
      ∧ (x.breakEnded l).counts = x.counts) := by
  by_cases h20 : l < 20
  · have ended : x.breakEnded l = { x with
        hook := .offHook, detect := { x.detect with breakMs := 0, onHookDue := false }
        counts := { x.counts with glitches := inc32 x.counts.glitches } } := by
      simp [PP.breakEnded, h20]
    rw [ended]
    exact ⟨rfl, fun _ => ⟨rfl, rfl⟩, fun h => by omega, fun h => by omega⟩
  · by_cases h25 : l < 25
    · have ended : x.breakEnded l = PP.discardTrain { x with
          hook := .offHook, detect := { x.detect with breakMs := 0, onHookDue := false } } := by
        simp [PP.breakEnded, h20, h25]
      rw [ended]
      exact ⟨rfl, fun h => absurd h h20, fun _ _ => ⟨rfl, rfl, rfl⟩, fun h => by omega⟩
    · have ended : x.breakEnded l = { x with
          hook := .offHook, pulses := min 255 (x.pulses + 1)
          detect := { x.detect with breakMs := 0, onHookDue := false, make := some 150 } } := by
        simp [PP.breakEnded, h20, h25]
      rw [ended]
      exact ⟨rfl, fun h => absurd h h20, fun _ h => absurd h h25, fun _ => ⟨rfl, rfl, rfl⟩⟩

end

section
variable {s : State} {p : Port} {loop ring t : Nat}

/-- The port once a break of 96 ms or more has ended the train. -/
theorem endBreak_long_port {l : Nat} (h : 96 ≤ l) : ((s.endBreak p l).port p).hook = .offHook
    ∧ ((s.endBreak p l).port p).pulses = 0 ∧ ((s.endBreak p l).port p).detect.make = none
    ∧ (∀ n : Fin 10, (s.port p).pulses = (if n.val = 0 then 10 else n.val) → (s.port p).digits.length < 32 →
        ((s.endBreak p l).port p).counts
          = { (s.port p).counts with pulseDigits := inc32 (s.port p).counts.pulseDigits }
        ∧ ((s.endBreak p l).port p).digits.map (·.digit) = (s.port p).digits.map (·.digit) ++ [.num n]) := by
  rw [endBreak_long s p h]
  generalize hv : (s.modPort p fun x =>
    { x with hook := .offHook, detect := { x.detect with breakMs := 0, onHookDue := false } }) = v
  have port : v.port p = { s.port p with
      hook := .offHook, detect := { (s.port p).detect with breakMs := 0, onHookDue := false } } := by
    rw [← hv]
    exact port_modPort s p _
  have digit (n : Fin 10) (hn : (s.port p).pulses = if n.val = 0 then 10 else n.val) :=
    (endTrain_port (s := v) (p := p) (n := n) (by rw [port]; exact hn)).1
  have hook : ((v.endTrain p).port p).hook = .offHook ∧ ((v.endTrain p).port p).pulses = 0
      ∧ ((v.endTrain p).port p).detect.make = none := by
    rcases pulses_cases (s.port p).pulses with ⟨n, hn⟩ | hn
    · rw [digit n hn, port]
      exact ⟨rfl, rfl, rfl⟩
    · rw [endTrain_discards (by rw [port]; exact hn), port_modPort, port]
      exact ⟨rfl, rfl, rfl⟩
  refine ⟨hook.1, hook.2.1, hook.2.2, fun n hn hl => ?_⟩
  rw [digit n hn, port]
  exact ⟨rfl, by simp only [if_pos hl, takenDigits_digits]⟩

/-- The sample of a break that ends after 96 ms or more. -/
theorem hookUnblanked_long (hh : (s.port p).hook = .brk) (hl : t ≤ loop) :
    s.hookUnblanked p t loop = s.endBreak p (s.port p).detect.breakMs := by
  unfold State.hookUnblanked
  simp only [hh, hl, if_true]

end

/-- Settles O52: the detectors that run at every sample (`HookMoved.detectors`), then the hook detector at an unblanked
one (`hookRead_onHook`, `hookRead_offHook`, `hookRead_breaks`, `breakEnded_spec`, `endBreak_long_port`). -/
theorem hookSamplesCount : Obligations.HookSamplesCount := by
  rintro p loop ring t x s hd rfl ht
  refine ⟨hookSample_idle hd, fun h1 h2 => ?_⟩
  have run := hookSample_runs (loop := loop) (ring := ring) hd h1 h2
  rw [hookSample_eq h1 h2 ht] at run
  have detectors {y : PP} (h : ((s.port p).sampled loop ring).HookMoved y) := HookMoved.detectors h
  cases hb : s.hookBlanked p
  · rw [hb, if_neg (by decide)] at run
    by_cases long : (s.port p).hook = .brk ∧ t ≤ loop ∧ 95 ≤ (s.port p).detect.breakMs
    · obtain ⟨hh, hl, h95⟩ := long
      have port := port_modPort s p fun x => x.sampled loop ring
      rw [hookUnblanked_long (by rw [port]; simpa using hh) hl, port, sampled_breakMs _ _ _ hh] at run
      obtain ⟨hook, pulses, make, digits⟩ := endBreak_long_port (s := s.modPort p fun x => x.sampled loop ring) (p := p)
        (l := (s.port p).detect.breakMs + 1) (by omega)
      rw [port] at digits
      refine ⟨false, _, _, hb.symm, run, rfl, fun h => ?_, fun h => absurd h (by decide), fun _ h => ?_, fun _ h => ?_,
        fun _ h => ?_, fun _ _ => ⟨fun h => ?_, fun _ => ⟨hook, fun h => ?_, fun _ h => ?_, fun _ h => ?_, fun _ =>
          ⟨pulses, make, fun n hn hn' => ?_⟩⟩⟩⟩
      · rcases h with h | h | h | h
        · exact absurd h (by decide)
        · exact absurd hh h
        · omega
        · omega
      iterate 3
        · exact absurd (hh.symm.trans h) (by decide)
      iterate 4
        · omega
      · have := digits n (by simpa using hn) (by simpa using hn')
        simpa using this
    · have port := port_modPort s p fun x => x.sampled loop ring
      rw [hookUnblanked_reads _ _ (by
        rw [port]
        intro hh hl
        rw [sampled_hook] at hh
        rw [sampled_breakMs _ _ _ hh]
        have short : ¬ 95 ≤ (s.port p).detect.breakMs := fun h => long ⟨hh, hl, h⟩
        omega), modPort_modPort] at run
      have own := port_modPort s p fun x => (x.sampled loop ring).hookRead t loop
      obtain ⟨shape, blank, oc, ro⟩ := detectors (hookRead_moves (t := t))
      refine ⟨false, _, _, hb.symm, run, own.symm, fun _ => ⟨modPort_congr _ _ shape, blank, oc, ro⟩,
        fun h => absurd h (by decide), fun _ h => ?_, fun _ h => ?_, fun _ h => ?_,
          fun _ h => ⟨fun hl => ?_, fun hl => ?_⟩⟩
      · have watch := (hookRead_onHook (x := (s.port p).sampled loop ring) (t := t) (loop := loop) (by simpa using h)).1
        simpa using watch
      · have trip := (hookRead_onHook (x := (s.port p).sampled loop ring) (t := t) (loop := loop) (by simpa using h)).2
        simpa using trip
      · exact hookRead_offHook (by simpa using h)
      · have brk := hookRead_breaks (x := (s.port p).sampled loop ring) (by simpa using h) hl
        rw [sampled_breakMs _ _ _ h] at brk
        exact ⟨brk.1, brk.2.1, fun h2 h3 => brk.2.2 h2 (by omega)⟩
      · obtain ⟨hook, glitch, discard, pulse⟩ :=
          breakEnded_spec (x := (s.port p).sampled loop ring) ((s.port p).detect.breakMs + 1)
        rw [hookRead_breakEnded (by simpa using h) hl, sampled_breakMs _ _ _ h]
        simp only [sampled_pulses, sampled_counts] at glitch discard pulse
        exact ⟨hook, fun hs => glitch (by omega), fun h1 h2 => discard (by omega) (by omega),
          fun h1 _ => pulse (by omega), fun h => absurd ⟨‹_›, hl, h⟩ long⟩
  · rw [hb, if_pos rfl] at run
    have own := port_modPort s p fun x => x.sampled loop ring
    obtain ⟨shape, blank, oc, ro⟩ := detectors (y := (s.port p).sampled loop ring) rfl
    exact ⟨true, _, _, hb.symm, run, own.symm, fun _ => ⟨modPort_congr _ _ shape, blank, oc, ro⟩,
      fun _ => by simp, fun h => absurd h (by decide), fun h => absurd h (by decide), fun h => absurd h (by decide),
      fun h => absurd h (by decide)⟩

end Sys2Proof.Machine
end

section
/-!
PROOFS. What the call controller does to a port and to a call: the blocks it touches, what it tells a port that does not
ring (`Told`), and the record each of its operations leaves (R103, R105 to R107, R110 to R112).
-/

namespace Sys2Proof.Machine

-- One proof at a time: the text is compiled as one, and each proof that waits for the others holds a thread.
set_option Elab.async false

/-! ## The blocks touched -/

section
variable (s : State) (p : Port) (c : RelCause)

theorem only_nakAlert (k : NakCause) : Only [.ss] s (s.nakAlert p k) := by
  unfold State.nakAlert
  split
  · exact only_answer s _ _ _ _
  · exact .refl _ s

theorem only_endSeizing : Only [.cc, .plk, .ports, .ss] s (s.endSeizing p c) := by
  unfold State.endSeizing
  split
  · exact (only_updCall s p _).within
  · exact .seq (only_withdraw s _) (only_freeCall _ p c)

theorem only_leaveIntercom : Only [.cc, .plk, .ports] s (s.leaveIntercom p c) := by
  unfold State.leaveIntercom
  split
  · exact .seq (only_ringOff s p) (only_freeCall _ p c)
  · exact only_updCall s p _
  · exact only_updCall s p _
  · exact .refl _ s

theorem only_dialIntercom : Only [.cc, .plk, .ports, .ss] s (s.dialIntercom p) := by
  unfold State.dialIntercom
  split
  · split
    · exact (only_updCall s p _).within
    · exact .seq (only_withdraw s _) only_startIntercom
  · exact only_startIntercom
  · exact only_startIntercom
  · exact only_releaseCall s p _
  · exact .refl _ s

theorem only_portGone : Only [.cc, .plk, .ports, .ss] s (s.portGone p c) := by
  have ringing (p : Port) : Only [.cc, .plk, .ports] s ((s.ringOff p).freeCall p c) :=
    .seq (only_ringOff s p) (only_freeCall _ p c)
  have freed : Only [.cc, .plk, .ports, .ss] s (s.freeCall p c) := (only_freeCall s p c).within
  unfold State.portGone
  split
  · exact .refl _ s
  · exact .refl _ s
  · exact only_releaseCall s p c
  · exact only_releaseCall s p c
  · exact only_endSeizing s p c
  · split
    · exact .seq (only_nakAlert s p _) (only_freeCall _ p c)
    · exact only_releaseCall s p c
  iterate 3
    · exact .seq (ringing p) (only_leaveIntercom _ _ _)
  iterate 4
    · exact freed

theorem only_answerIntercom : Only [.cc, .plk, .ports] s (s.answerIntercom p) := by
  unfold State.answerIntercom
  exact .seq (l := [.cc, .plk, .ports]) (.seq (only_ringOff s p) (only_updCall _ p _)) (only_updCall _ _ _)

theorem only_answerCall : Only [.cc, .plk, .ports, .ss] s (s.answerCall p) := by
  unfold State.answerCall
  split
  · exact .seq (l := [.cc, .plk, .ports, .ss]) (.seq (only_nakAlert s p _) (only_freeCall _ p _)) only_callOut
  · have connected : Only [.cc, .plk, .ports, .ss] s (((s.ringOff p).updCall p _).callTx p .answer _ _) :=
      .seq (l := [.cc, .plk, .ports]) (.seq (only_ringOff s p) (only_updCall _ p fun r =>
        { r with
          state := .connected, sub := none, decision := none, alert := none, connect := some (s.ringOff p).le.sf }))
        (only_callTx _ p .answer (w8 ((s.call p).channel.getD 0)) (fun t => { t with answer := true }) rfl)
    exact .ite (fun _ => connected.seq (only_setWanted _ p _)) fun _ => connected

theorem only_ccOffHook : Only [.cc, .plk, .ports, .ss] s (s.ccOffHook p) := by
  unfold State.ccOffHook
  split
  · exact only_callOut
  · exact only_answerCall s p
  · exact (only_answerIntercom s p).within
  · exact (only_nameAudio s p).within
  · exact .refl _ s

theorem only_ccOnHook : Only [.cc, .plk, .ports, .ss] s (s.ccOnHook p) := by
  unfold State.ccOnHook
  split
  · exact only_endSeizing s p _
  · exact only_releaseCall s p _
  · exact only_releaseCall s p _
  iterate 4
    · exact (only_freeCall s p _).within
  · exact .seq (l := [.cc, .plk, .ports]) (.seq (only_ringOff s _) (only_freeCall _ _ _)) (only_freeCall _ p _)
  · exact .seq (only_freeCall s p _) (only_leaveIntercom _ _ _)
  · exact .refl _ s

end

/-! ## What a port that does not ring is told -/

/-- The port `x` with what the call controller may name to it taken from `y`: audio and tone, and no ringing. -/
def PP.toldAs (x y : PP) : PP := { x with
  audio := y.audio, tone := y.tone, toneMs := y.toneMs, ringRequest := y.ringRequest, cadence := y.cadence
  detect := { x.detect with toneArmed := y.detect.toneArmed } }

structure Told (q : Port) (s t : State) : Prop where
  port : t.port q = (s.port q).toldAs (t.port q)
  request : (s.port q).ringRequest = none → (t.port q).ringRequest = none
  cadence : (s.port q).cadence = none → (t.port q).cadence = none

section
variable {s t u : State} {p q : Port}

theorem Told.of_port (h : t.port q = s.port q) : Told q s t where
  port := by rw [h]; rfl
  request := by rw [h]; exact id
  cadence := by rw [h]; exact id

theorem Told.trans (h : Told q s t) (k : Told q t u) : Told q s u where
  port := k.port.trans (congrArg (fun x => x.toldAs (u.port q)) h.port)
  request := fun x => k.request (h.request x)
  cadence := fun x => k.cadence (h.cadence x)

theorem Told.of_only {l : List Block} (h : Only l s t) (hl : Block.ports ∉ l := by decide) : Told q s t :=
  .of_port (congrArg (fun x : PerPort PP => x.get q) (h.ports hl))

theorem Told.field (h : Told q s t) {α : Type} (f : PP → α)
    (hf : ∀ x y, f (PP.toldAs x y) = f x := by exact fun _ _ => rfl) :
    f (t.port q) = f (s.port q) := (congrArg f h.port).trans (hf _ _)

theorem told_modPort {f : PP → PP} (h : q = p → f (s.port p) = (s.port p).toldAs (f (s.port p))
    ∧ ((s.port p).ringRequest = none → (f (s.port p)).ringRequest = none)
    ∧ ((s.port p).cadence = none → (f (s.port p)).cadence = none)) : Told q s (s.modPort p f) := by
  rcases port_eq_or_other p q with rfl | rfl
  · obtain ⟨port, request, cadence⟩ := h rfl
    exact ⟨by rw [port_modPort]; exact port, by rw [port_modPort]; exact request, by rw [port_modPort]; exact cadence⟩
  · exact .of_port (port_modPort_other s p f)

theorem told_nameAudio : Told q s (s.nameAudio p) := by
  unfold State.nameAudio State.setAudio
  exact told_modPort fun _ => ⟨rfl, id, id⟩

theorem told_updCall (f : CallRec → CallRec) : Told q s (s.updCall p f) := by
  have raised : Told q s ((s.modCallRaw p f).raiseIf (decide ((s.call p).shown ≠ (f (s.call p)).shown)) (.call p)) :=
    .of_port (port_raiseIf _ _ _ _)
  unfold State.updCall
  dsimp only
  split
  · exact raised
  · exact raised.trans told_nameAudio

theorem told_freeCall (c : RelCause) : Told q s (s.freeCall p c) := told_updCall _

theorem told_ringOff (h : q = p → (s.port p).feed.isRinging = false) : Told q s (s.ringOff p) :=
  told_modPort fun e => by
    have off : ({ s.port p with ringRequest := none, cadence := none } : PP).feed.isRinging = false := h e
    have same : (if ({ s.port p with ringRequest := none, cadence := none } : PP).feed.isRinging then
        PP.enter { s.port p with ringRequest := none, cadence := none } .standby
        else { s.port p with ringRequest := none, cadence := none })
        = { s.port p with ringRequest := none, cadence := none } := if_neg (by rw [off]; decide)
    dsimp only
    rw [same]
    exact ⟨rfl, fun _ => rfl, fun _ => rfl⟩

theorem told_callTx (k : TxKind) (body : List Byte) (mark : CallTxs → CallTxs) (hk : k.quiet = true) :
    Told q s (s.callTx p k body mark) := .of_only (only_callTx s p k body mark hk)

theorem told_releaseCall (c : RelCause) (h : q = p → (s.port p).feed.isRinging = false) :
    Told q s (s.releaseCall p c) := by
  unfold State.releaseCall
  exact ((told_ringOff h).trans (told_updCall _)).trans (told_callTx _ _ _ rfl)

theorem told_endSeizing (c : RelCause) : Told q s (s.endSeizing p c) := by
  unfold State.endSeizing
  split
  · exact told_updCall _
  · exact (Told.of_only (only_withdraw s _)).trans (told_freeCall c)

theorem told_callOut : Told q s (s.callOut p) := by
  have taken : Told q s s.takeSerial.1 := .of_port rfl
  unfold State.callOut
  dsimp only
  split
  · exact taken.trans (told_updCall _)
  · split
    · exact taken.trans (told_updCall _)
    · exact (taken.trans (told_updCall _)).trans (told_callTx _ _ _ rfl)
    · exact taken.trans (told_updCall _)

theorem told_leaveIntercom (c : RelCause) (h : q = p → (s.port p).feed.isRinging = false) :
    Told q s (s.leaveIntercom p c) := by
  unfold State.leaveIntercom
  split
  · exact (told_ringOff h).trans (told_freeCall c)
  · exact told_updCall _
  · exact told_updCall _
  · exact .of_port rfl

theorem told_answerIntercom (h : (s.port p).feed.isRinging = false) : Told p s (s.answerIntercom p) := by
  unfold State.answerIntercom
  exact ((told_ringOff fun _ => h).trans (told_updCall _)).trans (told_updCall _)

theorem told_startIntercom : Told p s (s.startIntercom p) := by
  have taken : Told p s s.takeSerial.1 := .of_port rfl
  unfold State.startIntercom
  dsimp only
  split
  · have bell (t : State) : Told p t (t.ringPort p.other 3) := .of_port (by
      have kept := ringPort_other t p.other 3
      rwa [port_other_other] at kept)
    exact ((taken.trans (told_updCall _)).trans (told_updCall _)).trans (bell _)
  · exact taken.trans (told_updCall _)

theorem told_dialIntercom (h : (s.port p).feed.isRinging = false) : Told p s (s.dialIntercom p) := by
  unfold State.dialIntercom
  split
  · split
    · exact told_updCall _
    · exact (Told.of_only (only_withdraw s _)).trans told_startIntercom
  · exact told_startIntercom
  · exact told_startIntercom
  · exact told_releaseCall _ fun _ => h
  · exact .of_port rfl

theorem told_ccOnHook (h : (s.port p).feed.isRinging = false) : Told p s (s.ccOnHook p) := by
  have other : p = p.other → ∀ t : State, (t.port p.other).feed.isRinging = false :=
    fun e => absurd e.symm (port_other_ne p)
  unfold State.ccOnHook
  split
  · exact told_endSeizing _
  · exact told_releaseCall _ fun _ => h
  · exact told_releaseCall _ fun _ => h
  iterate 4
    · exact told_freeCall _
  · exact ((told_ringOff fun e => other e _).trans (told_freeCall _)).trans (told_freeCall _)
  · exact (told_freeCall _).trans (told_leaveIntercom _ fun e => other e _)
  · exact .of_port rfl

theorem told_portGone (c : RelCause) (h : (s.port p).feed.isRinging = false) : Told p s (s.portGone p c) := by
  have other : p = p.other → ∀ t : State, (t.port p.other).feed.isRinging = false :=
    fun e => absurd e.symm (port_other_ne p)
  unfold State.portGone
  split
  · exact .of_port rfl
  · exact .of_port rfl
  · exact told_releaseCall _ fun _ => h
  · exact told_releaseCall _ fun _ => h
  · exact told_endSeizing _
  · split
    · exact (Told.of_only (only_nakAlert s p _)).trans (told_freeCall _)
    · exact told_releaseCall _ fun _ => h
  iterate 3
    · exact ((told_ringOff fun _ => h).trans (told_freeCall _)).trans (told_leaveIntercom _ fun e => other e _)
  iterate 4
    · exact told_freeCall _

end

end Sys2Proof.Machine
end

section
/-!
PROOFS. A handset lifted or replaced: OFF_HOOK, RING_TRIP and ON_HOOK (R80, R83, R103, R106, R110, R112).
-/

namespace Sys2Proof.Machine

-- One proof at a time: the text is compiled as one, and each proof that waits for the others holds a thread.
set_option Elab.async false

section
variable {s : State} {p : Port}

/-! ## An outgoing call (R103) -/

/-- The record of a call that goes out. -/
def State.outgoing (s : State) (st : CallState) : CallRec :=
  { Reset.call with state := st, dir := some .out, serial := s.cc.nextSerial, order := s.cc.nextSerial }

theorem callOut_unserved (h : s.le.link ≠ .inService) :
    s.callOut p = s.takeSerial.1.updCall p fun _ => s.outgoing .localOnly := by
  have out : s.takeSerial.1.inService = false := by simpa [State.inService, State.takeSerial] using h
  unfold State.callOut
  dsimp only
  rw [out]
  rfl

theorem callOut_served (h : s.le.link = .inService) : s.callOut p = match s.admission with
    | .fail => s.takeSerial.1.updCall p fun _ => { s.outgoing .blocked with cause := .capacity }
    | .at k => (s.takeSerial.1.updCall p fun _ => { s.outgoing .seizing with coding := some k }).requestSeize p k
    | .wait => s.takeSerial.1.updCall p fun _ =>
        { s.outgoing .seizing with coding := some .reduced, admission := some 2000 } := by
  have served : s.takeSerial.1.inService = true := by simpa [State.inService, State.takeSerial] using h
  have same : s.takeSerial.1.admission = s.admission := rfl
  unfold State.callOut
  dsimp only
  rw [served, same]
  cases s.admission <;> rfl

theorem requestSeize_call (k : Coding) : (s.requestSeize p k).call p
    = { s.call p with txs := { (s.call p).txs with seize := true } } := call_callTx s p .seize _ _ rfl

/-! ## An alerting call answered (R110) -/

/-- The call connected and the ANSWER asked for, before the polarity follows. -/
def State.callAnswered (s : State) (p : Port) : State :=
  ((s.ringOff p).updCall p fun r =>
    { r with state := .connected, sub := none, decision := none, alert := none, connect := some s.le.sf }).callTx p
      .answer (w8 ((s.call p).channel.getD 0)) fun t => { t with answer := true }

theorem answerCall_admitted (h : (s.call p).admission = none) : s.answerCall p =
    if (s.settings.ports.get p).reverseOnAnswer then (s.callAnswered p).setWanted p .reversed
    else s.callAnswered p := by
  unfold State.answerCall
  simp only [h, Option.isSome_none, Bool.false_eq_true, if_false]
  have settings : (s.callAnswered p).settings = s.settings := by
    unfold State.callAnswered
    rw [(only_callTx _ p .answer _ _ rfl).settings, (only_updCall _ p _).settings]
    rfl
  rw [← settings]
  rfl

theorem callAnswered_call : (s.callAnswered p).call p = { s.call p with
    state := .connected, sub := none, decision := none, alert := none, connect := some s.le.sf
    txs := { (s.call p).txs with answer := true } } := by
  unfold State.callAnswered
  rw [call_callTx _ _ _ _ _ rfl, call_updCall]
  rfl

theorem told_callAnswered (h : (s.port p).feed.isRinging = false) : Told p s (s.callAnswered p) := by
  unfold State.callAnswered
  exact ((told_ringOff fun _ => h).trans (told_updCall _)).trans (told_callTx _ _ _ rfl)

theorem updCall_audio (f : CallRec → CallRec) (h : (s.call p).state ≠ (f (s.call p)).state) :
    ((s.updCall p f).port p).audio = ((f (s.call p)).state.audio (s.port p).hook.isOff).1 := by
  unfold State.updCall State.nameAudio State.setAudio
  dsimp only
  rw [if_neg h, port_modPort, port_raiseIf, call_raiseIf, call_modCallRaw]
  rfl

theorem callAnswered_audio (h : (s.call p).state = .alertingIn) : ((s.callAnswered p).port p).audio = .line := by
  unfold State.callAnswered
  rw [State.port, (only_callTx _ p .answer _ _ rfl).ports (by decide), ← State.port, updCall_audio _ (by simp [h])]
  rfl

theorem setWanted_reversed (h : (s.port p).feed = .active) : s.setWanted p .reversed
    = s.modPort p fun x => PP.enter { x with wanted := .reversed } .polaritySwap :=
  modPort_congr s p (by simp [h, Feed.isTalk, PP.polarity])

/-! ## The port after an off-hook -/

/-- Whether the off-hook answers a call of a port that then reverses its polarity (R110). -/
def State.reverses (s : State) (p : Port) : Prop :=
  (s.call p).state = .alertingIn ∧ (s.call p).admission = none ∧ (s.settings.ports.get p).reverseOnAnswer = true

theorem ccOffHook_reverses (h : s.reverses p) : s.ccOffHook p = (s.callAnswered p).setWanted p .reversed := by
  obtain ⟨alerting, admitted, reverse⟩ := h
  unfold State.ccOffHook
  rw [alerting]
  dsimp only
  rw [answerCall_admitted admitted, if_pos reverse]

theorem told_ccOffHook (hf : (s.port p).feed.isRinging = false) (h : ¬ s.reverses p) : Told p s (s.ccOffHook p) := by
  unfold State.ccOffHook
  split
  · exact told_callOut
  · rename_i alerting
    by_cases ha : (s.call p).admission = none
    · rw [answerCall_admitted ha, if_neg fun hr => h ⟨alerting, ha, hr⟩]
      exact told_callAnswered hf
    · unfold State.answerCall
      rw [if_pos (Option.isSome_iff_ne_none.mpr ha)]
      exact ((Told.of_only (only_nakAlert s p _)).trans (told_freeCall _)).trans told_callOut
  · exact told_answerIntercom hf
  · exact told_nameAudio
  · exact .of_port rfl

/-- What an off-hook leaves of an active port: its feed, but for the answer that reverses, and what the call controller
does not name. -/
theorem ccOffHook_port (hf : (s.port p).feed = .active) (hr : (s.port p).ringRequest = none)
    (hc : (s.port p).cadence = none) : ((s.ccOffHook p).port p).hook = (s.port p).hook
      ∧ ((s.ccOffHook p).port p).digits = (s.port p).digits ∧ ((s.ccOffHook p).port p).overflow = (s.port p).overflow
      ∧ ((s.ccOffHook p).port p).ringRequest = none ∧ ((s.ccOffHook p).port p).cadence = none
      ∧ ((s.ccOffHook p).port p).counts = (s.port p).counts
      ∧ (s.reverses p → ((s.ccOffHook p).port p).feed = .polaritySwap)
      ∧ (¬ s.reverses p → ((s.ccOffHook p).port p).feed = .active) := by
  have quiet : (s.port p).feed.isRinging = false := by rw [hf]; rfl
  by_cases h : s.reverses p
  · have told := told_callAnswered (s := s) quiet
    rw [ccOffHook_reverses h, setWanted_reversed ((told.field PP.feed).trans hf), port_modPort]
    exact ⟨told.field PP.hook, told.field PP.digits, told.field PP.overflow, told.request hr, told.cadence hc,
      told.field PP.counts, fun _ => rfl, fun n => absurd h n⟩
  · have told := told_ccOffHook quiet h
    exact ⟨told.field PP.hook, told.field PP.digits, told.field PP.overflow, told.request hr, told.cadence hc,
      told.field PP.counts, fun y => absurd y h, fun _ => (told.field PP.feed).trans hf⟩

/-! ## A handset lifted (R80, R83) -/

/-- The lifted port, before the call controller is told. -/
def State.handsetUp (s : State) (p : Port) (trip : Bool) : State :=
  (s.modPort p fun x =>
    let x := x.enter .active
    { x.emptyDigits with
      hook := .offHook, wanted := .normal, ringRequest := none, cadence := none
      counts := { x.counts with
        offHooks := inc32 x.counts.offHooks
        ringTrips := if trip then inc32 x.counts.ringTrips else x.counts.ringTrips } }).raise (.hook p)

theorem lift_eq (trip : Bool) : s.lift p trip = (s.handsetUp p trip).ccOffHook p := rfl

theorem only_handsetUp (trip : Bool) : Only [.ports, .plk] s (s.handsetUp p trip) :=
  .seq (only_modPort s p _) (only_raise _ _)

theorem only_lift (trip : Bool) : Only [.cc, .plk, .ports, .ss] s (s.lift p trip) :=
  (only_handsetUp trip).seq (only_ccOffHook _ p)

theorem handsetUp_call (trip : Bool) (q : Port) : (s.handsetUp p trip).call q = s.call q := rfl

theorem handsetUp_port (trip : Bool) : ((s.handsetUp p trip).port p).hook = .offHook
    ∧ ((s.handsetUp p trip).port p).digits = [] ∧ ((s.handsetUp p trip).port p).overflow = false
    ∧ ((s.handsetUp p trip).port p).ringRequest = none ∧ ((s.handsetUp p trip).port p).cadence = none
    ∧ ((s.handsetUp p trip).port p).counts = { (s.port p).counts with
        offHooks := inc32 (s.port p).counts.offHooks
        ringTrips := if trip then inc32 (s.port p).counts.ringTrips else (s.port p).counts.ringTrips }
    ∧ ((s.handsetUp p trip).port p).feed = .active := by
  unfold State.handsetUp
  rw [port_raise, port_modPort]
  exact ⟨rfl, rfl, rfl, rfl, rfl, rfl, rfl⟩

/-- An off-hook of a FREE call outside service is kept local (R103). -/
theorem lift_unserved (trip : Bool) (h : (s.call p).state = .free) (hl : s.le.link ≠ .inService) :
    ((s.lift p trip).call p).state = .localOnly ∧ ((s.lift p trip).call p).dir = some .out
    ∧ ((s.lift p trip).port p).tone = .noService := by
  have out : s.lift p trip = (s.handsetUp p trip).takeSerial.1.updCall p
      fun _ => (s.handsetUp p trip).outgoing .localOnly := by
    rw [lift_eq, State.ccOffHook, handsetUp_call, h]
    exact callOut_unserved (by rw [(only_handsetUp trip).le (by decide)]; exact hl)
  have free : ((s.handsetUp p trip).takeSerial.1.call p).state = .free := h
  rw [out, call_updCall, updCall_tone _ _ _ (by rw [free]; exact fun h => nomatch h)]
  exact ⟨rfl, rfl, rfl⟩

/-- An off-hook of a FREE call in service seizes, waits or is blocked by what admission says (R100, R103). -/
theorem lift_served (trip : Bool) (h : (s.call p).state = .free) (hl : s.le.link = .inService) :
    (∀ k, s.admission = .at k → ((s.lift p trip).call p).state = .seizing ∧ ((s.lift p trip).call p).coding = some k
      ∧ ((s.lift p trip).call p).txs.seize = true ∧ ((s.lift p trip).call p).admission = none)
    ∧ (s.admission = .wait → ((s.lift p trip).call p).state = .seizing
      ∧ ((s.lift p trip).call p).coding = some .reduced ∧ ((s.lift p trip).call p).txs.seize = false
      ∧ ((s.lift p trip).call p).admission = some 2000)
    ∧ (s.admission = .fail → ((s.lift p trip).call p).state = .blocked ∧ ((s.lift p trip).call p).cause = .capacity
      ∧ ((s.lift p trip).port p).tone = .congestion) := by
  have same : (s.handsetUp p trip).admission = s.admission := rfl
  have served : s.lift p trip = (s.handsetUp p trip).callOut p := by
    rw [lift_eq, State.ccOffHook, handsetUp_call, h]
  have free : ((s.handsetUp p trip).takeSerial.1.call p).state = .free := h
  rw [served, callOut_served (by rw [(only_handsetUp trip).le (by decide)]; exact hl), same]
  refine ⟨fun k ha => ?_, fun ha => ?_, fun ha => ?_⟩
  · simp only [ha]
    rw [requestSeize_call, call_updCall]
    exact ⟨rfl, rfl, rfl, rfl⟩
  · simp only [ha]
    rw [call_updCall]
    exact ⟨rfl, rfl, rfl, rfl⟩
  · simp only [ha]
    rw [call_updCall, updCall_tone _ _ _ (by rw [free]; exact fun h => nomatch h)]
    exact ⟨rfl, rfl, rfl⟩

/-- An off-hook of an admitted alerting call connects it (R110). -/
theorem lift_answers (trip : Bool) (h : (s.call p).state = .alertingIn) (ha : (s.call p).admission = none) :
    ((s.lift p trip).call p).state = .connected ∧ ((s.lift p trip).call p).connect = some s.le.sf
    ∧ ((s.lift p trip).call p).txs.answer = true ∧ ((s.lift p trip).port p).audio = .line := by
  have feed : ((s.handsetUp p trip).port p).feed = .active := (handsetUp_port trip).2.2.2.2.2.2
  have told := told_callAnswered (s := s.handsetUp p trip) (p := p) (by rw [feed]; rfl)
  have audio := callAnswered_audio (s := s.handsetUp p trip) (p := p) h
  have call := callAnswered_call (s := s.handsetUp p trip) (p := p)
  have answered : s.lift p trip = (s.handsetUp p trip).answerCall p := by
    rw [lift_eq, State.ccOffHook, handsetUp_call, h]
  rw [answered, answerCall_admitted (s := s.handsetUp p trip) ha]
  split
  · rw [setWanted_reversed ((told.field PP.feed).trans feed), call_modPort, port_modPort, call]
    exact ⟨rfl, rfl, rfl, audio⟩
  · rw [call]
    exact ⟨rfl, rfl, rfl, audio⟩

/-- An off-hook of a ringing intercom call connects both ports (R112). -/
theorem lift_intercom (trip : Bool) (h : (s.call p).state = .intercomRinging) :
    ((s.lift p trip).call p).state = .intercomConnected
    ∧ ((s.lift p trip).call p.other).state = .intercomConnected := by
  have answered : s.lift p trip = (s.handsetUp p trip).answerIntercom p := by
    rw [lift_eq, State.ccOffHook, handsetUp_call, h]
  have own (t : State) (f : CallRec → CallRec) : (t.updCall p.other f).call p = t.call p := by
    have kept := call_updCall_other t p.other f
    rwa [port_other_other] at kept
  rw [answered, State.answerIntercom, call_updCall, own, call_updCall]
  exact ⟨rfl, rfl⟩

/-! ## A handset replaced (R80, R106) -/

/-- The port on-hook, before the call controller is told. -/
def State.replaced (s : State) (p : Port) : State :=
  (s.modPort p fun x =>
    { x.clearHook.enter .standby with wanted := .normal, tone := .none, audio := .none }).raise (.hook p)

theorem only_replaced : Only [.ports, .plk] s (s.replaced p) := .seq (only_modPort s p _) (only_raise _ _)

theorem replaced_call (q : Port) : (s.replaced p).call q = s.call q := rfl

theorem replaced_port : (s.replaced p).port p
    = { (s.port p).clearHook.enter .standby with wanted := .normal, tone := .none, audio := .none } := by
  unfold State.replaced
  rw [port_raise, port_modPort]

end

end Sys2Proof.Machine
end

section
/-!
PROOFS. ON_HOOK (R80, R106) and OFF_HOOK_ON_TEST (R85, R148), and what settles the hook's changes.
-/

namespace Sys2Proof.Machine

-- One proof at a time: the text is compiled as one, and each proof that waits for the others holds a thread.
set_option Elab.async false

/-! ## A port on-hook that is told no sound -/

def PP.Silent (x : PP) : Prop := x.hook = .onHook ∧ x.tone = .none ∧ x.audio = .none

section
variable {s : State} {p q : Port}

theorem updCall_port_ne (f : CallRec → CallRec) (h : p ≠ q) : (s.updCall p f).port q = s.port q := by
  unfold State.updCall
  dsimp only
  split
  · exact port_raiseIf _ _ _ _
  · unfold State.nameAudio State.setAudio
    rw [port_modPort_ne _ _ h]
    exact port_raiseIf _ _ _ _

theorem ringOff_port_ne (h : p ≠ q) : (s.ringOff p).port q = s.port q := port_modPort_ne _ _ h

theorem leaveIntercom_port_ne (c : RelCause) (h : p ≠ q) : (s.leaveIntercom p c).port q = s.port q := by
  unfold State.leaveIntercom
  split
  · exact (updCall_port_ne _ h).trans (ringOff_port_ne h)
  · exact updCall_port_ne _ h
  · exact updCall_port_ne _ h
  · rfl

/-- A record that changes to a state without sounds for an on-hook port keeps the port silent. -/
theorem silent_updCall (f : CallRec → CallRec) (hf : (f (s.call p)).state.audio false = (.none, .none))
    (h : (s.port p).Silent) : ((s.updCall p f).port p).Silent := by
  obtain ⟨hook, tone, audio⟩ := h
  by_cases same : (s.call p).state = (f (s.call p)).state
  · rw [updCall_hook f same]
    exact ⟨hook, tone, audio⟩
  · have off : (s.port p).hook.isOff = false := by rw [hook]; rfl
    refine ⟨((told_updCall f).field PP.hook).trans hook, ?_, ?_⟩
    · rw [updCall_tone _ _ f same, off, hf]
    · rw [updCall_audio f same, off, hf]

theorem silent_freeCall (c : RelCause) (h : (s.port p).Silent) : ((s.freeCall p c).port p).Silent :=
  silent_updCall _ rfl h

theorem silent_ringOff (h : (s.port p).Silent) : ((s.ringOff p).port p).Silent := by
  unfold State.ringOff
  rw [port_modPort]
  dsimp only
  split
  · exact h
  · exact h

theorem silent_releaseCall (c : RelCause) (h : (s.port p).Silent) : ((s.releaseCall p c).port p).Silent := by
  unfold State.releaseCall
  rw [State.port, (only_callTx _ p .release _ _ rfl).ports (by decide), ← State.port]
  exact silent_updCall _ rfl (silent_ringOff h)

theorem silent_ccOnHook (h : (s.port p).Silent) : ((s.ccOnHook p).port p).Silent := by
  have other : p.other ≠ p := port_other_ne p
  unfold State.ccOnHook
  split
  · unfold State.endSeizing
    split
    · exact silent_updCall _ rfl h
    · exact silent_freeCall _ h
  · exact silent_releaseCall _ h
  · exact silent_releaseCall _ h
  iterate 4
    · exact silent_freeCall _ h
  · refine silent_freeCall _ ?_
    rwa [State.freeCall, updCall_port_ne _ other, ringOff_port_ne other]
  · rw [leaveIntercom_port_ne _ other]
    exact silent_freeCall _ h
  · exact h

/-! ## A handset replaced (R80, R106) -/

/-- What an on-hook leaves of the port. -/
theorem replaced_ccOnHook : (((s.replaced p).ccOnHook p).port p).Silent
    ∧ (((s.replaced p).ccOnHook p).port p).feed = .standby ∧ (((s.replaced p).ccOnHook p).port p).wanted = .normal
    ∧ (((s.replaced p).ccOnHook p).port p).pulses = 0
    ∧ (((s.replaced p).ccOnHook p).port p).digits = (s.port p).digits := by
  have silent : ((s.replaced p).port p).Silent := by rw [replaced_port]; exact ⟨rfl, rfl, rfl⟩
  have told : Told p (s.replaced p) ((s.replaced p).ccOnHook p) := told_ccOnHook (by rw [replaced_port]; rfl)
  rw [told.field PP.feed, told.field PP.wanted, told.field PP.pulses, told.field PP.digits, replaced_port]
  exact ⟨silent_ccOnHook silent, rfl, rfl, rfl, rfl⟩

/-- A call that holds a channel is released by an on-hook, with cause NORMAL (R106). -/
theorem replaced_releases (h : (s.call p).state = .dialling ∨ (s.call p).state = .connected) :
    (((s.replaced p).ccOnHook p).call p).state = .clearing ∧ (((s.replaced p).ccOnHook p).call p).cause = .normal
    ∧ (((s.replaced p).ccOnHook p).call p).txs.release = true := by
  have released : (s.replaced p).ccOnHook p = (s.replaced p).releaseCall p .normal := by
    unfold State.ccOnHook
    rcases h with h | h <;> rw [replaced_call, h]
  rw [released, (releaseCall_call _ p .normal).1]
  exact ⟨rfl, rfl, rfl⟩

/-- A record without a channel returns to FREE with its cause (R106). -/
theorem replaced_frees
    (h : (s.call p).state = .localOnly ∨ (s.call p).state = .blocked ∨ (s.call p).state = .farCleared) :
    ((s.replaced p).ccOnHook p).call p = { Reset.call with cause := (s.call p).cause }
    ∧ ((s.replaced p).ccOnHook p).call p.other = s.call p.other := by
  have freed : (s.replaced p).ccOnHook p = (s.replaced p).freeCall p (s.call p).cause := by
    unfold State.ccOnHook
    rcases h with h | h | h <;> rw [replaced_call, h]
  rw [freed]
  exact freeCall_call _

/-! ## A test's own operations (R147, R148) -/

theorem results_get_set (r : Results) (i : ResultId) (x : LastResult) : (r.set i x).get i = x := by cases i <;> rfl

theorem results_get_set_ne (r : Results) {i j : ResultId} (x : LastResult) (h : j ≠ i) :
    (r.set i x).get j = r.get j := by
  cases i <;> cases j <;> simp_all [Results.get, Results.set]

/-- Two states whose last-result records say the same of every run, whatever became of its report. -/
structure SameRuns (s t : State) : Prop where
  lastWritten : t.tu.lastWritten = s.tu.lastWritten
  latest (i : ResultId) : (t.tu.results.get i).latest = (s.tu.results.get i).latest
  completed (i : ResultId) : (t.tu.results.get i).completed = (s.tu.results.get i).completed

theorem SameRuns.of_tu {t : State} (h : t.tu = s.tu) : SameRuns s t :=
  ⟨by rw [h], fun _ => by rw [h], fun _ => by rw [h]⟩

theorem SameRuns.trans {t u : State} (h : SameRuns s t) (k : SameRuns t u) : SameRuns s u :=
  ⟨k.lastWritten.trans h.lastWritten, fun i => (k.latest i).trans (h.latest i),
    fun i => (k.completed i).trans (h.completed i)⟩

/-- A report that goes out is all that a grant changes of the records (R150). -/
theorem sameRuns_granted (r : TxReq) (n : Nat) : SameRuns s (s.granted r n) := by
  unfold State.granted
  split
  · split
    · exact .of_tu rfl
    · exact .of_tu rfl
  · exact .of_tu rfl
  · exact .of_tu rfl
  · split
    · exact .of_tu rfl
    · rename_i i _
      dsimp only
      split
      · have get (j : ResultId) : let y := (s.tu.results.set i { s.tu.results.get i with report := .inFlight }).get j
            y.latest = (s.tu.results.get j).latest ∧ y.completed = (s.tu.results.get j).completed := by
          by_cases e : j = i
          · rw [e, results_get_set]
            exact ⟨rfl, rfl⟩
          · rw [results_get_set_ne _ _ e]
            exact ⟨rfl, rfl⟩
        exact ⟨rfl, fun j => (get j).1, fun j => (get j).2⟩
      · exact .of_tu rfl
  · exact .of_tu rfl

theorem sameRuns_requestTx (k : TxKind) (q : Option Port) (body : List Byte) (tag : Nat) :
    SameRuns s (s.requestTx k q body tag) := by
  unfold State.requestTx
  dsimp only
  split
  · unfold State.grant
    exact .trans (t := s.modSs _) (.of_tu rfl) (sameRuns_granted _ _)
  · exact .of_tu rfl

/-- The record of an aborted run (R147, R148): its outcome, and the completed values of before. -/
theorem recordTest_aborted (c : CurrentTest) (a : AbortCause) :
    let u := s.recordTest c .aborted (some a) none
    let i := TestKind.result c.kind c.target
    u.tu.lastWritten = some i
    ∧ (u.tu.results.get i).latest
      = some { outcome := .aborted, cause := some a, requester := c.requester, endTime := s.uptime }
    ∧ (u.tu.results.get i).completed = (s.tu.results.get i).completed := by
  unfold State.recordTest State.writeResult
  dsimp only
  split
  · have same (t : State) (k : TxKind) (body : List Byte) (tag : Nat) := sameRuns_requestTx (s := t) k none body tag
    rw [(same _ _ _ _).lastWritten, (same _ _ _ _).latest, (same _ _ _ _).completed]
    refine ⟨rfl, ?_, ?_⟩
    · exact congrArg LastResult.latest (results_get_set _ _ _)
    · exact (congrArg LastResult.completed (results_get_set _ _ _)).trans rfl
  · exact ⟨rfl, congrArg LastResult.latest (results_get_set _ _ _),
      (congrArg LastResult.completed (results_get_set _ _ _)).trans rfl⟩

theorem recordTest_mu (c : CurrentTest) (o : Outcome) (a : Option AbortCause) (vs : Option (List TestValue)) :
    (s.recordTest c o a vs).mu = (s.ownChannels (TestKind.channels c.kind c.target) false).mu := by
  have only : Only [.tu, .ss, .plk] (s.ownChannels (TestKind.channels c.kind c.target) false) (s.recordTest c o a vs) :=
    .seq (l := [.tu]) (only_modTu _ _)
      (.ite (fun _ => .seq (n := [.tu, .ss, .plk]) (only_withdraw _ _) (only_requestTx _ .testResult _ _ _))
        fun _ => .refl _ _)
  exact only.mu (by decide)

/-- The channels given are owned as told, and no account is touched (R121). -/
theorem ownChannels_owned (cs : List Chan) (v : Bool) {ch : Chan} (h : ch ∈ cs) :
    ((s.ownChannels cs v).mu.chans.get ch).owned = v := by
  have fold (t : PerChan MuChan) (hc : ch ∈ cs ∨ (t.get ch).owned = v) :
      ((cs.foldl (fun t c => t.set c { t.get c with owned := v }) t).get ch).owned = v := by
    clear h
    induction cs generalizing t with
    | nil => simpa using hc
    | cons c cs ih =>
      rw [List.foldl_cons]
      apply ih
      by_cases e : ch = c
      · right
        rw [e, perChan_get_set]
      · rw [List.mem_cons] at hc
        rw [perChan_get_set_ne _ _ _ _ e]
        exact hc.imp_left fun hc => hc.resolve_left e
  exact fold _ (.inl h)

/-! ## A PORT_LOOP aborted (R148) -/

/-- The abort of a PORT_LOOP in RUNNING, up to the point where its port follows its hold set. -/
def State.loopAborted (s : State) (c : CurrentTest) (p : Port) (a : AbortCause) : State :=
  ((((s.recordTest c .aborted (some a) none).modPort p fun x => { x with hold := x.hold.put .test false }).raiseIf
    ((s.recordTest c .aborted (some a) none).port p).hold.test (.hook p)).modTu fun x =>
      { x with current := none }).raise .test

theorem dropTestHold_loop {c : CurrentTest} (hk : c.kind = .portLoop) (ht : Target.port c.target = p)
    (hp : c.phase = .running) : s.dropTestHold c
      = (s.modPort p fun x => { x with hold := x.hold.put .test false }).raiseIf (s.port p).hold.test (.hook p) := by
  obtain ⟨⟩ := c
  subst ht
  dsimp only at hk hp
  subst hk hp
  rfl

theorem abortTest_loop {c : CurrentTest} (a : AbortCause) (hc : s.tu.current = some c) (hk : c.kind = .portLoop)
    (ht : Target.port c.target = p) (hp : c.phase = .running) :
    s.abortTest a = (s.loopAborted c p a).portFreed p := by
  have ended : s.abortRaw a = s.loopAborted c p a := by
    unfold State.abortRaw
    rw [hc]
    dsimp only
    rw [State.endTest, dropTestHold_loop hk ht hp]
    rfl
  have after : s.abortTest a = (s.abortRaw a).afterTest c := by rw [State.abortTest, hc]
  rw [after, ended, State.afterTest, hk, ht]

theorem loopAborted_port (c : CurrentTest) (a : AbortCause) :
    (s.loopAborted c p a).port p = { s.port p with hold := (s.port p).hold.put .test false } := by
  unfold State.loopAborted
  rw [port_raise]
  show (State.raiseIf _ _ _).port p = _
  rw [port_raiseIf, port_modPort, State.port, (only_recordTest s c _ _ _).ports (by decide)]
  rfl

theorem only_loopAborted (c : CurrentTest) (a : AbortCause) :
    Only [.mu, .tu, .ss, .ports, .plk] s (s.loopAborted c p a) :=
  .seq (l := [.mu, .tu, .ss, .ports, .plk]) (.seq (l := [.mu, .tu, .ss, .ports, .plk])
    (.seq (l := [.mu, .tu, .ss, .ports, .plk]) (.seq (only_recordTest s c _ _ _) (only_modPort _ p _))
      (only_raiseIf _ _ _)) (only_modTu _ _)) (only_raise _ _)

theorem loopAborted_mu (c : CurrentTest) (a : AbortCause) :
    (s.loopAborted c p a).mu = (s.ownChannels (TestKind.channels c.kind c.target) false).mu := by
  rw [← recordTest_mu c .aborted (some a) none]
  exact (Only.seq (l := [.ports, .plk]) (n := [.ports, .plk, .tu]) (.seq (only_modPort _ p _) (only_raiseIf _ _ _))
    (.seq (l := [.tu]) (n := [.tu, .plk]) (only_modTu _ _) (only_raise _ _))).mu (by decide)

theorem loopAborted_tu (c : CurrentTest) (a : AbortCause) :
    (s.loopAborted c p a).tu = { (s.recordTest c .aborted (some a) none).tu with current := none } := by
  have kept := (Only.seq (l := [.ports]) (n := [.ports, .plk])
    (only_modPort (s.recordTest c .aborted (some a) none) p fun x => { x with hold := x.hold.put .test false })
    (only_raiseIf _ ((s.recordTest c .aborted (some a) none).port p).hold.test (.hook p))).tu (by decide)
  exact congrArg (fun x : TU => { x with current := none }) kept

/-- A port freed of its last member is on-hook in STANDBY (R78, R79). -/
theorem portFreed_empty (hf : (s.port p).feed.inService = false) (he : (s.port p).hold.isEmpty = true) :
    ((s.portFreed p).port p).feed = .standby ∧ ((s.portFreed p).port p).hook = .onHook := by
  unfold State.portFreed
  simp only [he, hf, if_true, Bool.false_eq_true, if_false, port_modPort]
  exact ⟨rfl, rfl⟩

/-- The watch's run given up (R85). -/
def State.watchCleared (s : State) (p : Port) : State :=
  s.modPort p fun x => { x with detect := { x.detect with offRun := 0 } }

theorem offHookOnTest_runs (hd : s.dormant = false) (hf : (s.port p).feed = .testing)
    (hr : 20 ≤ (s.port p).detect.offRun) :
    exec (.offHookOnTest p) s = .next ((s.watchCleared p).abortIf
      (fun c => c.kind == .portLoop && Target.port c.target == p) .offHook).settle :=
  congrArg _ ((live_awake _ _ hd).trans (congrArg _ (if_pos (by simp [hf, hr]))))

theorem offHookOnTest_idle (hd : s.dormant = false) (hf : (s.port p).feed ≠ .testing) :
    exec (.offHookOnTest p) s = .next s.settle :=
  congrArg _ ((live_awake _ _ hd).trans (congrArg _ (if_neg (by simp [hf]))))

theorem offHook_runs (hd : s.dormant = false) (hh : (s.port p).hook = .onHook) (hr : 20 ≤ (s.port p).detect.offRun)
    (hf : (s.port p).feed = .standby ∨ (s.port p).feed = .ringPause) :
    exec (.offHook p) s = .next (s.lift p false).settle :=
  congrArg _ ((live_awake _ _ hd).trans (congrArg _ (if_pos (by rcases hf with hf | hf <;> simp [hh, hr, hf]))))

theorem ringTrip_runs (hd : s.dormant = false) (hh : (s.port p).hook = .onHook) (hr : 30 ≤ (s.port p).detect.tripRun)
    (hf : (s.port p).feed = .ringing) : exec (.ringTrip p) s = .next (s.lift p true).settle :=
  congrArg _ ((live_awake _ _ hd).trans (congrArg _ (if_pos (by simp [hh, hr, hf]))))

theorem onHook_runs (hd : s.dormant = false) (hh : (s.port p).hook = .brk) (hr : (s.port p).detect.onHookDue = true)
    (hf : (s.port p).feed = .active ∨ (s.port p).feed = .reversed) :
    exec (.onHook p) s = .next ((s.replaced p).ccOnHook p).settle :=
  congrArg _ ((live_awake _ _ hd).trans (congrArg _ (if_pos (by
    rcases hf with hf | hf <;> simp [hh, hr, hf, Feed.isTalk]))))

theorem lifts_idle (hd : s.dormant = false) (hh : (s.port p).hook ≠ .onHook) :
    exec (.offHook p) s = .next s.settle ∧ exec (.ringTrip p) s = .next s.settle :=
  ⟨congrArg _ ((live_awake _ _ hd).trans (congrArg _ (if_neg (by simp [hh])))),
    congrArg _ ((live_awake _ _ hd).trans (congrArg _ (if_neg (by simp [hh]))))⟩

theorem onHook_idle (hd : s.dormant = false) (hh : (s.port p).hook ≠ .brk) : exec (.onHook p) s = .next s.settle :=
  congrArg _ ((live_awake _ _ hd).trans (congrArg _ (if_neg (by simp [hh]))))

/-- The port a handset was lifted on, by what the call controller makes of it (R80, R83). -/
theorem lift_port (trip : Bool) : let y := (s.lift p trip).port p
    y.hook = .offHook ∧ y.digits = [] ∧ y.overflow = false ∧ y.ringRequest = none ∧ y.cadence = none
    ∧ y.counts = { (s.port p).counts with
        offHooks := inc32 (s.port p).counts.offHooks
        ringTrips := if trip then inc32 (s.port p).counts.ringTrips else (s.port p).counts.ringTrips }
    ∧ (s.reverses p → y.feed = .polaritySwap) ∧ (¬ s.reverses p → y.feed = .active) := by
  obtain ⟨hook, digits, overflow, request, cadence, counts, feed⟩ := handsetUp_port (s := s) (p := p) trip
  obtain ⟨hook', digits', overflow', request', cadence', counts', swap, active⟩ := ccOffHook_port feed request cadence
  exact ⟨hook'.trans hook, digits'.trans digits, overflow'.trans overflow, request', cadence', counts'.trans counts,
    swap, active⟩

/-- A PORT_LOOP that the off-hook watch ends (R85, R148). -/
theorem watch_aborts {c : CurrentTest} (hc : s.tu.current = some c) (hk : c.kind = .portLoop)
    (ht : Target.port c.target = p) (hp : c.phase = .running) :
    (s.watchCleared p).abortIf (fun c => c.kind == .portLoop && Target.port c.target == p) .offHook
      = ((s.watchCleared p).loopAborted c p .offHook).portFreed p := by
  have testing : (s.watchCleared p).testing (fun c => c.kind == .portLoop && Target.port c.target == p) = true := by
    simp [State.testing, show (s.watchCleared p).tu.current = some c from hc, hk, ht]
  rw [State.abortIf, if_pos testing]
  exact abortTest_loop _ hc hk ht hp

end

/-- Settles O53: a lift and a replacement by what they make of the port and then of the call; the watch by the abort of
its test. -/
theorem hookChanges : Obligations.HookChanges := by
  unfold Obligations.HookChanges
  refine ⟨fun p s hd => ⟨fun c hc => ?_, fun hh hr hf => ?_, lifts_idle hd, onHook_idle hd⟩,
    fun p s hd => ⟨fun hf hr => ⟨fun c hc hk ht hp => ?_, fun hc => ?_⟩, offHookOnTest_idle hd⟩⟩
  · have run : exec c s = .next (s.lift p (decide (c = .ringTrip p))).settle := by
      rcases hc with ⟨rfl, hh, hr, hf⟩ | ⟨rfl, hh, hr, hf⟩
      · exact offHook_runs hd hh hr hf
      · rw [decide_eq_true rfl]
        exact ringTrip_runs hd hh hr hf
    generalize ht : decide (c = .ringTrip p) = trip at run
    obtain ⟨hook, digits, overflow, request, cadence, counts, swap, active⟩ := lift_port (s := s) (p := p) trip
    have frame := only_lift (s := s) (p := p) trip
    refine ⟨_, run, hook, digits, overflow, request, cadence, ?_, ?_, ?_, lift_unserved trip, lift_served trip,
      lift_answers trip, lift_intercom trip, frame.le (by decide), frame.tt (by decide), frame.ft (by decide),
      frame.mu (by decide), frame.sup (by decide), frame.tu (by decide), frame.fs (by decide), frame.sts,
      frame.settings⟩
    · rw [counts]
    · rw [counts, ← ht]
      simp only [decide_eq_true_eq]
    · split
      · exact swap ‹_›
      · exact active ‹_›
  · obtain ⟨⟨hook, tone, audio⟩, feed, wanted, pulses, digits⟩ := replaced_ccOnHook (s := s) (p := p)
    have frame : Only [.cc, .plk, .ports, .ss] s ((s.replaced p).ccOnHook p) := only_replaced.seq (only_ccOnHook _ p)
    exact ⟨_, onHook_runs hd hh hr hf, hook, feed, wanted, tone, audio, pulses, digits, replaced_releases,
      replaced_frees,
      frame.le (by decide), frame.tt (by decide), frame.ft (by decide), frame.mu (by decide), frame.sup (by decide),
      frame.tu (by decide), frame.fs (by decide), frame.sts, frame.settings⟩
  · have port := loopAborted_port (s := s.watchCleared p) (p := p) c .offHook
    have freed := only_portFreed ((s.watchCleared p).loopAborted c p .offHook) p
    have aborted := only_loopAborted (s := s.watchCleared p) (p := p) c .offHook
    obtain ⟨written, latest, completed⟩ := recordTest_aborted (s := s.watchCleared p) c .offHook
    have hold := sameHolds_portFreed ((s.watchCleared p).loopAborted c p .offHook) p p
    have tu := (freed.tu (by decide)).trans (loopAborted_tu c .offHook)
    have mu := (freed.mu (by decide)).trans (loopAborted_mu c .offHook)
    have feed : (((s.watchCleared p).loopAborted c p .offHook).port p).feed = .testing := by
      rw [port, State.watchCleared, port_modPort]
      exact hf
    refine ⟨_, watch_aborts hc hk ht hp ▸ offHookOnTest_runs hd hf hr, ?_, ?_, ?_, ?_, ?_, fun he => ?_,
      fun ch hch => ?_,
      ?_, ?_, ?_, ?_⟩
    · rw [tu]
    · rw [tu]
      exact written
    · rw [tu]
      exact latest
    · rw [tu]
      exact completed
    · rw [hold, port, State.watchCleared, port_modPort]
      rfl
    · exact portFreed_empty (by rw [feed]; rfl) (hold ▸ he)
    · rw [mu]
      exact ownChannels_owned _ _ hch
    · exact (freed.cc (by decide)).trans (aborted.cc (by decide))
    · exact (freed.sup (by decide)).trans (aborted.sup (by decide))
    · exact freed.settings.trans aborted.settings
    · rw [mu]
      rfl
  · rw [offHookOnTest_runs hd hf hr, State.abortIf, if_neg]
    · rfl
    · simp [State.testing, show (s.watchCleared p).tu.current = none from hc]

end Sys2Proof.Machine
end

section
/-!
PROOFS. Intercom dialled from a port (R111): what the two records and the two ports become.
-/

namespace Sys2Proof.Machine

-- One proof at a time: the text is compiled as one, and each proof that waits for the others holds a thread.
set_option Elab.async false

section
variable {s : State} {p : Port}

/-! ## Ringing leaves the digits (R82, R88) -/

theorem burstStart_port (cad : Cadence) (k : Nat) : ((s.burstStart p cad k).port p).digits = (s.port p).digits
    ∧ ((s.burstStart p cad k).port p).ringRequest = (s.port p).ringRequest := by
  unfold State.burstStart
  rw [port_modPort]
  exact ⟨rfl, rfl⟩

theorem ringIfDue_port : ((s.ringIfDue p).port p).digits = (s.port p).digits
    ∧ ((s.ringIfDue p).port p).ringRequest = (s.port p).ringRequest := by
  unfold State.ringIfDue
  dsimp only
  split
  · split
    · exact burstStart_port _ _
    · exact ⟨rfl, rfl⟩
  · exact ⟨rfl, rfl⟩

theorem ringPort_digits (c : Nat) : ((s.ringPort p c).port p).digits = (s.port p).digits := by
  unfold State.ringPort
  dsimp only
  split
  · rw [ringIfDue_port.1, port_modPort]
  · split
    · rw [port_modPort]
    · rfl

theorem ringPort_standby (c : Nat) (h : (s.port p).feed = .standby) :
    ((s.ringPort p c).port p).ringRequest = some c := by
  unfold State.ringPort
  dsimp only
  rw [if_pos h, ringIfDue_port.2, port_modPort]

/-! ## Intercom starts (R111) -/

/-- A record taken into intercom, nothing of an earlier call left in it. -/
def State.intercomRecord (s : State) (st : CallState) (alert : Option Nat) : CallRec :=
  { Reset.call with
    state := st, dir := some .intercom, alert := alert, serial := s.cc.nextSerial, order := s.cc.nextSerial }

/-- A port that intercom may ring. -/
def State.canBeCalled (s : State) (p : Port) : Bool :=
  (s.call p).state == .free && (s.port p).hold.isEmpty && (s.port p).hook == .onHook

theorem startIntercom_calls (h : s.canBeCalled p.other = true) : s.startIntercom p =
    ((s.takeSerial.1.updCall p fun _ => s.intercomRecord .intercomCalling none).updCall p.other fun _ =>
      s.intercomRecord .intercomRinging (some 120000)).ringPort p.other 3 :=
  if_pos h

theorem startIntercom_ends (h : s.canBeCalled p.other = false) : s.startIntercom p =
    s.takeSerial.1.updCall p fun _ => s.intercomRecord .intercomEnded none :=
  if_neg (show ¬ s.canBeCalled p.other = true by simp [h])

theorem startIntercom_ss : (s.startIntercom p).ss = s.ss := by
  have taken : Only [.cc] s s.takeSerial.1 := only_takeSerial s
  cases h : s.canBeCalled p.other
  · rw [startIntercom_ends h]
    exact (Only.seq (n := [.cc, .plk, .ports]) taken (only_updCall _ p _)).ss (by decide)
  · rw [startIntercom_calls h]
    exact (Only.seq (l := [.cc, .plk, .ports]) (n := [.cc, .plk, .ports]) (.seq (l := [.cc, .plk, .ports])
      (taken.seq (only_updCall _ p _)) (only_updCall _ _ _)) (only_ringPort _ _ _)).ss (by decide)

/-- The record that starts intercom. -/
theorem startIntercom_call : (s.startIntercom p).call p
    = s.intercomRecord (if s.canBeCalled p.other then .intercomCalling else .intercomEnded) none := by
  cases h : s.canBeCalled p.other
  · rw [startIntercom_ends h, call_updCall]
    rfl
  · have own (t : State) (f : CallRec → CallRec) : (t.updCall p.other f).call p = t.call p := by
      have kept := call_updCall_other t p.other f
      rwa [port_other_other] at kept
    rw [startIntercom_calls h, State.call, (only_ringPort _ _ _).cc (by decide), ← State.call, own, call_updCall]
    rfl

/-- The record at the other port: it rings where the port can be called, and else stands as it was. -/
theorem startIntercom_call_other : (s.startIntercom p).call p.other
    = if s.canBeCalled p.other then s.intercomRecord .intercomRinging (some 120000) else s.call p.other := by
  cases h : s.canBeCalled p.other
  · rw [startIntercom_ends h, call_updCall_other]
    rfl
  · rw [startIntercom_calls h, State.call, (only_ringPort _ _ _).cc (by decide), ← State.call, call_updCall]
    rfl

theorem startIntercom_digits_other : ((s.startIntercom p).port p.other).digits = (s.port p.other).digits := by
  cases h : s.canBeCalled p.other
  · rw [startIntercom_ends h]
    exact (told_updCall (q := p.other) _).field PP.digits
  · rw [startIntercom_calls h, ringPort_digits]
    exact (Told.trans (t := s.takeSerial.1.updCall p _) (told_updCall (q := p.other) _) (told_updCall _)).field
      PP.digits

theorem startIntercom_rings (h : s.canBeCalled p.other = true) (hf : (s.port p.other).feed = .standby) :
    ((s.startIntercom p).port p.other).ringRequest = some 3 := by
  rw [startIntercom_calls h]
  refine ringPort_standby _ ?_
  rw [(Told.trans (t := s.takeSerial.1.updCall p _) (told_updCall (q := p.other) _) (told_updCall _)).field PP.feed]
  exact hf

/-! ## A dialled "**" (R111) -/

/-- The requests that still wait, without the port's SEIZE. -/
def State.seizeWithdrawn (s : State) (p : Port) : State := s.withdraw fun r => r.kind == .seize && r.port == some p

theorem dialIntercom_atOnce (h : (s.call p).state = .localOnly ∨ (s.call p).state = .blocked) :
    s.dialIntercom p = s.startIntercom p := by
  rcases h with h | h <;> rw [State.dialIntercom, h]

theorem dialIntercom_unsent (h : (s.call p).state = .seizing) (hs : s.seizeSent p = false) :
    s.dialIntercom p = (s.seizeWithdrawn p).startIntercom p := by
  rw [State.dialIntercom, h]
  dsimp only
  rw [hs]
  rfl

theorem dialIntercom_sent (h : (s.call p).state = .seizing) (hs : s.seizeSent p = true) :
    s.dialIntercom p = s.updCall p fun r => { r with state := .clearing, cause := .intercom, admission := none } := by
  rw [State.dialIntercom, h]
  dsimp only
  rw [hs]
  rfl

theorem dialIntercom_dialling (h : (s.call p).state = .dialling) : s.dialIntercom p = s.releaseCall p .intercom := by
  rw [State.dialIntercom, h]

/-- A SEIZE is unsent where none is asked for or one still waits for an entry (R103). -/
theorem seizeSent_false_iff : s.seizeSent p = false
    ↔ (s.call p).txs.seize = false ∨ ∃ r ∈ s.ss.waiting, r.kind = .seize ∧ r.port = some p := by
  simp [State.seizeSent, State.txWaits, imp_iff_not_or]

/-- The digits of the other port are not touched. -/
theorem dialIntercom_digits_other : ((s.dialIntercom p).port p.other).digits = (s.port p.other).digits := by
  unfold State.dialIntercom
  split
  · split
    · exact (told_updCall (q := p.other) _).field PP.digits
    · exact startIntercom_digits_other
  · exact startIntercom_digits_other
  · exact startIntercom_digits_other
  · exact (told_releaseCall (q := p.other) _ fun e => absurd e (port_other_ne p)).field PP.digits
  · rfl

/-- Through CLEARING with cause INTERCOM, where a channel is held or asked for (R106, R111). -/
theorem dialIntercom_clears (h : (s.call p).state = .dialling ∨ ((s.call p).state = .seizing ∧ s.seizeSent p = true)) :
    ((s.dialIntercom p).call p).state = .clearing ∧ ((s.dialIntercom p).call p).cause = .intercom
    ∧ ((s.call p).state = .dialling → ((s.dialIntercom p).call p).channel = (s.call p).channel
        ∧ ((s.dialIntercom p).call p).txs.release = true)
    ∧ (s.dialIntercom p).call p.other = s.call p.other := by
  rcases h with h | ⟨h, hs⟩
  · obtain ⟨own, other⟩ := releaseCall_call s p .intercom
    rw [dialIntercom_dialling h, own, other]
    exact ⟨rfl, rfl, fun _ => ⟨rfl, rfl⟩, rfl⟩
  · rw [dialIntercom_sent h hs, call_updCall, call_updCall_other]
    exact ⟨rfl, rfl, fun e => absurd (h.symm.trans e) (by decide), rfl⟩

end
end Sys2Proof.Machine
end

section
/-!
PROOFS. Tone digits (R87, R88, R105) and what settles the digits.
-/

namespace Sys2Proof.Machine

-- One proof at a time: the text is compiled as one, and each proof that waits for the others holds a thread.
set_option Elab.async false

/-! ## The list after a digit that starts no intercom (R105) -/

section
variable {st : CallState} {l : List DigitEntry} {d : Digit} {m : Method}

theorem takenDigits_local (h : st ∈ [.farCleared, .clearing, .intercomCalling, .intercomRinging, .intercomConnected,
      .intercomEnded] ∨ (st ∈ [.localOnly, .blocked] ∧ ¬ (l = [] ∧ d = .star) ∧ loneStar l = false)) :
    takenDigits st l ⟨d, m, .pending⟩ = l ++ [⟨d, m, .localDigit⟩] := by
  unfold takenDigits
  rcases h with h | ⟨h, held, lone⟩
  · have holds : st.holdsStar = false ∧ st.takesLocal = true := by
      revert h
      cases st <;> decide
    simp [holds, DigitEntry.asLocal]
  · have takes : st.takesLocal = true := by
      revert h
      cases st <;> decide
    have waits : ¬ (st.holdsStar && l.isEmpty && d == .star) = true := by
      simp only [Bool.and_eq_true, List.isEmpty_iff, beq_iff_eq]
      exact fun ⟨⟨_, empty⟩, star⟩ => held ⟨empty, star⟩
    simp [waits, takes, lone, DigitEntry.asLocal]

theorem takenDigits_star (h : st ∈ [.localOnly, .blocked]) (hl : loneStar l = true) :
    takenDigits st l ⟨d, m, .pending⟩ = l.map (fun e => { e with mark := .localDigit }) ++ [⟨d, m, .localDigit⟩] := by
  have states : st.holdsStar = true ∧ st.takesLocal = true := by
    revert h
    cases st <;> decide
  have more : l.isEmpty = false := by
    obtain ⟨m, rfl⟩ := (loneStar_iff l).mp hl
    rfl
  simp [takenDigits, states, more, hl, DigitEntry.asLocal]

theorem takenDigits_pending (h : st ∈ [.free, .seizing, .dialling, .connected, .alertingIn]
      ∨ (st.holdsStar = true ∧ l = [] ∧ d = .star)) :
    takenDigits st l ⟨d, m, .pending⟩ = l ++ [⟨d, m, .pending⟩] := by
  unfold takenDigits
  rcases h with h | ⟨holds, rfl, rfl⟩
  · have takes : st.takesLocal = false := by
      revert h
      cases st <;> decide
    simp [takes]
  · simp [holds]

end

section
variable {s : State} {p : Port} {d : Digit}

theorem holdsStar_iff (st : CallState) : st.holdsStar = true ↔ st ∈ [.seizing, .dialling, .localOnly, .blocked] := by
  cases st <;> decide

theorem dialsIntercom_iff : s.dialsIntercom p d = true ↔ (s.call p).state ∈ [.seizing, .dialling, .localOnly, .blocked]
    ∧ (∃ m, (s.port p).digits = [⟨.star, m, .pending⟩]) ∧ d = .star
    ∧ (s.settings.ports.get p).intercomEnable = true := by
  simp only [State.dialsIntercom, Bool.and_eq_true, holdsStar_iff, loneStar_iff, beq_iff_eq, and_assoc]

theorem takesLocal_cases {st : CallState} (h : st ∈ [.localOnly, .blocked, .farCleared, .clearing, .intercomCalling,
      .intercomRinging, .intercomConnected, .intercomEnded]) :
    st ∈ [.farCleared, .clearing, .intercomCalling, .intercomRinging, .intercomConnected, .intercomEnded]
    ∨ st ∈ [.localOnly, .blocked] := by
  revert h
  cases st <;> decide

theorem done_not_holds {st : CallState} (h : st ∈ [.farCleared, .clearing, .intercomCalling, .intercomRinging,
    .intercomConnected, .intercomEnded]) : st ∉ [.seizing, .dialling, .localOnly, .blocked] := by
  revert h
  cases st <;> decide

theorem passes_not_holds {st : CallState} (h : st ∈ [.free, .connected, .alertingIn]) :
    st ∉ [.seizing, .dialling, .localOnly, .blocked] := by
  revert h
  cases st <;> decide

/-! ## "**" (R105, R111) -/

/-- Both stars LOCAL. -/
def State.starsTaken (s : State) (p : Port) (m : Method) : State :=
  (s.digitJoined p .star m).markDigits p (fun _ => true) .localDigit

theorem digitTaken_dials {m : Method} (h : s.dialsIntercom p d = true) :
    s.digitTaken p d m = (s.starsTaken p m).dialIntercom p := by
  obtain ⟨-, ⟨n, hl⟩, rfl, -⟩ := dialsIntercom_iff.mp h
  rw [digitTaken_joined _ _ _ _ (by simp [hl])]
  have taken := ccDigit_eq (s := s.digitJoined p .star m) (p := p) (l := (s.port p).digits) (e := ⟨.star, m, .pending⟩)
    (st := (s.call p).state) (by rw [port_digitJoined]) rfl rfl
  have dials : ((s.call p).state.holdsStar && loneStar (s.port p).digits && Digit.star == Digit.star
      && ((s.digitJoined p .star m).settings.ports.get p).intercomEnable) = true := h
  rw [taken, if_neg (by simp [hl]), if_pos dials]
  rfl

theorem starsTaken_port {m n : Method} (h : (s.port p).digits = [⟨.star, n, .pending⟩]) :
    (s.starsTaken p m).port p = { s.port p with
      digits := (s.port p).digits.map (fun e => { e with mark := .localDigit }) ++ [⟨.star, m, .localDigit⟩] }
    ∧ (s.starsTaken p m).port p.other = s.port p.other := by
  unfold State.starsTaken
  rw [markDigits_port, markDigits_port_other, port_digitJoined, port_digitJoined_other, h]
  exact ⟨rfl, rfl⟩

theorem only_starsTaken (m : Method) : Only [.ports, .plk] s (s.starsTaken p m) :=
  (only_digitJoined s p _ m).seq (only_markDigits _ _ _ _)

theorem only_digitTaken (m : Method) : Only [.cc, .plk, .ports, .ss] s (s.digitTaken p d m) := by
  by_cases hl : (s.port p).digits.length < 32
  · cases h : s.dialsIntercom p d
    · obtain ⟨-, -, only⟩ := digitTaken_keeps (m := m) h hl
      exact only.within
    · rw [digitTaken_dials h]
      exact (only_starsTaken m).seq (only_dialIntercom _ p)
  · obtain ⟨-, -, only⟩ := digitTaken_discards (d := d) (m := m) (Nat.not_lt.mp hl)
    exact only.within

/-! ## A tone pair recognised (R87) -/

/-- The digit counted, and the detector waiting for the pair's absence. -/
def State.toneCounted (s : State) (p : Port) : State := s.modPort p fun x => { x with
  detect := { x.detect with toneArmed := false }
  counts := { x.counts with toneDigits := inc32 x.counts.toneDigits } }

/-- The pair taken as a digit. -/
def State.toneTaken (s : State) (p : Port) (d : Digit) : State := (s.toneCounted p).digitTaken p d .tone

theorem toneDigit_runs (hd : s.dormant = false) (hf : (s.port p).feed = .active ∨ (s.port p).feed = .reversed)
    (hh : (s.port p).hook = .offHook) (ha : (s.port p).detect.toneArmed = true) :
    exec (.toneDigit p d) s = .next (s.toneTaken p d).settle :=
  congrArg _ ((live_awake _ _ hd).trans (congrArg _ (if_pos (by
    rcases hf with hf | hf <;> simp [hf, hh, ha, Feed.isTalk]))))

theorem toneDigit_idle (hd : s.dormant = false) (h : (s.port p).hook ≠ .offHook ∨ (s.port p).detect.toneArmed = false) :
    exec (.toneDigit p d) s = .next s.settle :=
  congrArg _ ((live_awake _ _ hd).trans (congrArg _ (if_neg (by
    rcases h with h | h <;> simp [h]))))

theorem pulseTrainEnd_runs (hd : s.dormant = false) (hm : (s.port p).detect.make ≠ none)
    (hh : (s.port p).hook = .offHook) (hf : (s.port p).feed ≠ .polaritySwap) :
    exec (.pulseTrainEnd p) s = .next (s.endTrain p).settle :=
  congrArg _ ((live_awake _ _ hd).trans (congrArg _ (if_pos (by
    simp [hh, hf, Option.isSome_iff_ne_none, hm]))))

theorem pulseTrainEnd_idle (hd : s.dormant = false)
    (h : (s.port p).detect.make = none ∨ (s.port p).hook ≠ .offHook ∨ (s.port p).feed = .polaritySwap) :
    exec (.pulseTrainEnd p) s = .next s.settle :=
  congrArg _ ((live_awake _ _ hd).trans (congrArg _ (if_neg (by
    rcases h with h | h | h <;> simp [h]))))

theorem toneCounted_port : (s.toneCounted p).port p = { s.port p with
      detect := { (s.port p).detect with toneArmed := false }
      counts := { (s.port p).counts with toneDigits := inc32 (s.port p).counts.toneDigits } }
    ∧ (s.toneCounted p).port p.other = s.port p.other :=
  ⟨port_modPort s p _, port_modPort_other s p _⟩

theorem only_toneCounted : Only [.ports] s (s.toneCounted p) := only_modPort s p _

theorem only_toneTaken : Only [.cc, .plk, .ports, .ss] s (s.toneTaken p d) := only_toneCounted.seq (only_digitTaken _)

theorem toneTaken_keeps (hno : s.dialsIntercom p d = false) (hl : (s.port p).digits.length < 32) :
    (s.toneTaken p d).port p = { s.port p with
      digits := takenDigits (s.call p).state (s.port p).digits ⟨d, .tone, .pending⟩
      detect := { (s.port p).detect with toneArmed := false }
      counts := { (s.port p).counts with toneDigits := inc32 (s.port p).counts.toneDigits } }
    ∧ (s.toneTaken p d).port p.other = s.port p.other ∧ Only [.ports, .plk] s (s.toneTaken p d) := by
  obtain ⟨port, other⟩ := toneCounted_port (s := s) (p := p)
  obtain ⟨own, own', only⟩ := digitTaken_keeps (s := s.toneCounted p) (p := p) (d := d) (m := .tone)
    (by rw [State.dialsIntercom, port]; exact hno) (by rw [port]; exact hl)
  refine ⟨?_, own'.trans other, only_toneCounted.seq only⟩
  rw [State.toneTaken, own, port]
  rfl

theorem toneTaken_discards (hl : 32 ≤ (s.port p).digits.length) :
    (s.toneTaken p d).port p = { s.port p with
      overflow := true, detect := { (s.port p).detect with toneArmed := false }
      counts := { (s.port p).counts with toneDigits := inc32 (s.port p).counts.toneDigits } }
    ∧ Only [.ports, .plk] s (s.toneTaken p d) := by
  obtain ⟨port, other⟩ := toneCounted_port (s := s) (p := p)
  obtain ⟨own, -, only⟩ := digitTaken_discards (s := s.toneCounted p) (p := p) (d := d) (m := .tone)
    (by rw [port]; exact hl)
  refine ⟨?_, only_toneCounted.seq only⟩
  rw [State.toneTaken, own, port]

/-- A second star that starts intercom: both LOCAL and counted, then the call controller's part (R111). -/
theorem toneTaken_dials (h : s.dialsIntercom p d = true) : ∃ v : State, s.toneTaken p d = v.dialIntercom p
    ∧ v.port p = { s.port p with
      digits := (s.port p).digits.map (fun e => { e with mark := .localDigit }) ++ [⟨.star, .tone, .localDigit⟩]
      detect := { (s.port p).detect with toneArmed := false }
      counts := { (s.port p).counts with toneDigits := inc32 (s.port p).counts.toneDigits } }
    ∧ v.port p.other = s.port p.other ∧ v.cc = s.cc ∧ v.ss = s.ss := by
  obtain ⟨port, other⟩ := toneCounted_port (s := s) (p := p)
  obtain ⟨-, ⟨m, hl⟩, -⟩ := dialsIntercom_iff.mp h
  obtain ⟨own, own'⟩ := starsTaken_port (s := s.toneCounted p) (p := p) (m := .tone) (n := m) (by rw [port]; exact hl)
  have only : Only [.ports, .plk] s ((s.toneCounted p).starsTaken p .tone) := only_toneCounted.seq (only_starsTaken _)
  refine ⟨_, digitTaken_dials (by rw [State.dialsIntercom, port]; exact h), ?_, own'.trans other, only.cc (by decide),
    only.ss (by decide)⟩
  rw [own, port]

/-- The digit counted, and its place in the list, whatever the call makes of it. -/
theorem toneTaken_counts (hf : (s.port p).feed.isRinging = false) : ((s.toneTaken p d).port p).counts
      = { (s.port p).counts with toneDigits := inc32 (s.port p).counts.toneDigits }
    ∧ ((s.port p).digits.length < 32 →
        ((s.toneTaken p d).port p).digits.map (·.digit) = (s.port p).digits.map (·.digit) ++ [d]) := by
  by_cases hl : (s.port p).digits.length < 32
  · cases h : s.dialsIntercom p d
    · rw [(toneTaken_keeps h hl).1]
      exact ⟨rfl, fun _ => takenDigits_digits _ _ _⟩
    · obtain ⟨v, dialled, port, -⟩ := toneTaken_dials h
      obtain ⟨-, -, rfl, -⟩ := dialsIntercom_iff.mp h
      have told : Told p v (v.dialIntercom p) := told_dialIntercom (by rw [port]; exact hf)
      rw [dialled, told.field PP.counts, told.field PP.digits, port]
      refine ⟨rfl, fun _ => ?_⟩
      simp
  · rw [(toneTaken_discards (Nat.not_lt.mp hl)).1]
    exact ⟨rfl, fun short => absurd short hl⟩

end

/-! ## What starts intercom at once (R111) -/

section
variable {s : State} {p : Port}

/-- Intercom starts at once from a record that holds no channel and has no SEIZE sent; only the waiting SEIZE is
withdrawn. -/
theorem dialIntercom_starts (h : (s.call p).state = .localOnly ∨ (s.call p).state = .blocked
      ∨ ((s.call p).state = .seizing ∧ s.seizeSent p = false)) : ∃ v : State, s.dialIntercom p = v.startIntercom p
    ∧ v.cc = s.cc ∧ v.ports = s.ports ∧ ((s.call p).state ≠ .seizing → v.ss = s.ss)
    ∧ ((s.call p).state = .seizing → v.ss = { s.ss with
        waiting := s.ss.waiting.filter fun r => !(r.kind == .seize && r.port == some p) }) := by
  have atOnce (h : (s.call p).state = .localOnly ∨ (s.call p).state = .blocked) : (s.call p).state ≠ .seizing := by
    rcases h with h | h <;> rw [h] <;> decide
  rcases h with h | h | ⟨h, hs⟩
  · exact ⟨s, dialIntercom_atOnce (.inl h), rfl, rfl, fun _ => rfl, fun e => absurd e (atOnce (.inl h))⟩
  · exact ⟨s, dialIntercom_atOnce (.inr h), rfl, rfl, fun _ => rfl, fun e => absurd e (atOnce (.inr h))⟩
  · exact ⟨_, dialIntercom_unsent h hs, rfl, rfl, fun n => absurd h n, fun _ => rfl⟩

/-- What intercom makes of the two records and the other port, started from `v`. -/
theorem startIntercom_outcome {v : State} (hc : v.cc = s.cc) (ho : v.port p.other = s.port p.other) :
    let u := v.startIntercom p
    (u.call p).dir = some .intercom ∧ (u.call p).cause = .none ∧ (u.call p).admission = none
    ∧ (u.call p).txs.seize = false
    ∧ ((s.call p.other).state = .free → (s.port p.other).hold.isEmpty = true → (s.port p.other).hook = .onHook →
      (u.call p).state = .intercomCalling ∧ (u.call p.other).state = .intercomRinging
      ∧ (u.call p.other).alert = some 120000
      ∧ ((s.port p.other).feed = .standby → (u.port p.other).ringRequest = some 3))
    ∧ ((s.call p.other).state ≠ .free ∨ (s.port p.other).hook ≠ .onHook ∨ (s.port p.other).hold.isEmpty = false →
      (u.call p).state = .intercomEnded ∧ u.call p.other = s.call p.other) := by
  have call (q : Port) : v.call q = s.call q := by rw [State.call, hc]; rfl
  have can : v.canBeCalled p.other = s.canBeCalled p.other := by rw [State.canBeCalled, call, ho]; rfl
  have own := startIntercom_call (s := v) (p := p)
  have other := startIntercom_call_other (s := v) (p := p)
  rw [can] at own other
  refine ⟨by rw [own]; rfl, by rw [own]; rfl, by rw [own]; rfl, by rw [own]; rfl, fun free held hook => ?_,
    fun busy => ?_⟩
  · have yes : s.canBeCalled p.other = true := by simp [State.canBeCalled, free, held, hook]
    rw [own, other, if_pos yes, if_pos yes]
    exact ⟨rfl, rfl, rfl, fun standby => startIntercom_rings (can.trans yes) (by rw [ho]; exact standby)⟩
  · have no : s.canBeCalled p.other = false := by
      rcases busy with busy | busy | busy <;> simp [State.canBeCalled, busy]
    rw [own, other, no]
    exact ⟨rfl, call p.other⟩

/-- "**" on a port with intercom: both stars LOCAL, and intercom at once or through CLEARING (R105, R111). -/
theorem toneTaken_starts {d : Digit} (h : s.dialsIntercom p d = true) (hf : (s.port p).feed.isRinging = false) :
    let u := s.toneTaken p d
    let st := (s.call p).state
    (u.port p).digits = (s.port p).digits.map (fun e => { e with mark := .localDigit }) ++ [⟨.star, .tone, .localDigit⟩]
    ∧ (u.port p.other).digits = (s.port p.other).digits
    ∧ (st = .localOnly ∨ st = .blocked ∨ (st = .seizing
        ∧ ((s.call p).txs.seize = false ∨ ∃ r ∈ s.ss.waiting, r.kind = .seize ∧ r.port = some p)) →
      (u.call p).dir = some .intercom ∧ (u.call p).cause = .none ∧ (u.call p).admission = none
      ∧ (u.call p).txs.seize = false
      ∧ ((s.call p.other).state = .free → (s.port p.other).hold.isEmpty = true → (s.port p.other).hook = .onHook →
        (u.call p).state = .intercomCalling ∧ (u.call p.other).state = .intercomRinging
        ∧ (u.call p.other).alert = some 120000
        ∧ ((s.port p.other).feed = .standby → (u.port p.other).ringRequest = some 3))
      ∧ ((s.call p.other).state ≠ .free ∨ (s.port p.other).hook ≠ .onHook ∨ (s.port p.other).hold.isEmpty = false →
        (u.call p).state = .intercomEnded ∧ u.call p.other = s.call p.other)
      ∧ (st ≠ .seizing → u.ss = s.ss)
      ∧ (st = .seizing → u.ss = { s.ss with
          waiting := s.ss.waiting.filter fun r => !(r.kind == .seize && r.port == some p) }))
    ∧ (st = .dialling ∨ (st = .seizing ∧ s.seizeSent p = true) →
      (u.call p).state = .clearing ∧ (u.call p).cause = .intercom
      ∧ (st = .dialling → (u.call p).channel = (s.call p).channel ∧ (u.call p).txs.release = true)
      ∧ u.call p.other = s.call p.other) := by
  obtain ⟨v, dialled, port, other, cc, ss⟩ := toneTaken_dials h
  have call (q : Port) : v.call q = s.call q := by rw [State.call, cc]; rfl
  have sent : v.seizeSent p = s.seizeSent p := by rw [State.seizeSent, State.txWaits, call, ss]; rfl
  have told : Told p v (v.dialIntercom p) := told_dialIntercom (by rw [port]; exact hf)
  rw [dialled]
  refine ⟨?_, ?_, fun hs => ?_, fun hc => ?_⟩
  · rw [told.field PP.digits, port]
  · rw [dialIntercom_digits_other, other]
  · rw [← seizeSent_false_iff, ← sent, ← call p] at hs
    obtain ⟨w, starts, wcc, wports, kept, withdrawn⟩ := dialIntercom_starts hs
    obtain ⟨dir, cause, admission, seize, free, busy⟩ := startIntercom_outcome (s := s) (p := p) (v := w) (wcc.trans cc)
      (by rw [State.port, wports]; exact other)
    rw [call p, ss] at kept withdrawn
    rw [starts, startIntercom_ss]
    exact ⟨dir, cause, admission, seize, free, busy, kept, withdrawn⟩
  · have clears := dialIntercom_clears (s := v) (p := p)
    rw [call, call, sent] at clears
    exact clears hc

end

/-! ## The obligation -/

section
variable {s : State} {p : Port}

/-- A digit that starts no intercom: the list with its marks, by the call's state (R105). -/
theorem toneTaken_list {d : Digit} (hl : (s.port p).digits.length < 32) {l : List DigitEntry}
    (hno : s.dialsIntercom p d = false) (h : takenDigits (s.call p).state (s.port p).digits ⟨d, .tone, .pending⟩ = l) :
    (s.toneTaken p d).port p = { s.port p with
      digits := l, detect := { (s.port p).detect with toneArmed := false }
      counts := ((s.toneTaken p d).port p).counts }
    ∧ (s.toneTaken p d).port p.other = s.port p.other ∧ (s.toneTaken p d).cc = s.cc ∧ (s.toneTaken p d).ss = s.ss := by
  obtain ⟨own, other, only⟩ := toneTaken_keeps hno hl
  refine ⟨?_, other, only.cc (by decide), only.ss (by decide)⟩
  rw [own, h]

theorem pulses_list {n : Fin 10} (h : (s.port p).pulses = if n.val = 0 then 10 else n.val)
    (hl : (s.port p).digits.length < 32) : ((s.endTrain p).port p).digits
      = takenDigits (s.call p).state (s.port p).digits ⟨.num n, .pulse, .pending⟩ := by
  rw [(endTrain_port h).1]
  exact if_pos hl

end

/-- Settles O54: a train's end and a tone pair by what joins the list and what the call takes. -/
theorem digitsAreTaken : Obligations.DigitsAreTaken := by
  unfold Obligations.DigitsAreTaken
  refine fun p s hd => ⟨fun hm hh hf => ⟨fun n hn => ?_, fun hn => ?_⟩, pulseTrainEnd_idle hd, fun d hf hh ha => ?_,
    fun d => toneDigit_idle hd, congrArg _ (live_awake _ _ hd)⟩
  · obtain ⟨port, only⟩ := endTrain_port hn
    refine ⟨_, pulseTrainEnd_runs hd hm hh hf, by rw [port], by rw [port], by rw [port], fun hl => ?_, fun hl => ?_,
      fun star hstar hl => ?_, only.cc (by decide), only.ss (by decide), only.settings, only.sts, only.uptime,
      only.sup (by decide), only.mu (by decide)⟩
    · rw [pulses_list hn hl]
      exact takenDigits_digits _ _ _
    · rw [port]
      exact ⟨if_neg (Nat.not_lt.mpr hl), if_neg (Nat.not_lt.mpr hl)⟩
    · rw [pulses_list hn hl]
      refine ⟨fun yes => ?_, fun no takes => ?_, fun waits => takenDigits_pending (.inl waits)⟩
      · obtain ⟨st, lone⟩ := hstar.mp yes
        exact takenDigits_star (by simpa using st) ((loneStar_iff _).mpr lone)
      · refine takenDigits_local ((takesLocal_cases takes).imp_right fun st => ⟨st, by simp, ?_⟩)
        exact Bool.eq_false_iff.mpr fun lone => no (hstar.mpr ⟨by simpa using st, (loneStar_iff _).mp lone⟩)
  · rw [pulseTrainEnd_runs hd hm hh hf, endTrain_discards hn]
    rfl
  · have quiet : (s.port p).feed.isRinging = false := by rcases hf with hf | hf <;> rw [hf] <;> rfl
    obtain ⟨counts, digits⟩ := toneTaken_counts (d := d) quiet
    have only := only_toneTaken (s := s) (p := p) (d := d)
    refine ⟨_, toneDigit_runs hd hf hh ha, counts, digits, fun hl off st => ?_, ?_, fun hl => ?_, only.le (by decide),
      only.tt (by decide), only.ft (by decide), only.mu (by decide), only.sup (by decide), only.tu (by decide),
      only.fs (by decide), only.sts, only.settings⟩
    · refine toneTaken_list hl ?_ (takenDigits_pending (.inl ?_))
      · simp [State.dialsIntercom, off]
      · rcases st with st | st <;> simp [st]
    · rintro _ _ on held twin rfl hl rfl hon hheld htwin
      have dials := dialsIntercom_iff (s := s) (p := p) (d := d)
      rw [← htwin, ← hon] at dials
      have idle (no : ¬ ((s.call p).state ∈ [.seizing, .dialling, .localOnly, .blocked] ∧ twin ∧ d = .star ∧ on)) :
          s.dialsIntercom p d = false := Bool.eq_false_iff.mpr (mt dials.mp no)
      have lone : loneStar (s.port p).digits = true ↔ twin := (loneStar_iff _).trans htwin.symm
      refine ⟨fun h => ?_, fun h ht hno => ?_, fun h => ?_, fun h ht hstar ho => ?_⟩
      · refine toneTaken_list hl (idle fun ⟨holds, twins, _⟩ => ?_) (takenDigits_local ?_)
        · exact h.elim (fun st => done_not_holds st holds) fun ⟨_, _, single⟩ => single twins
        · exact h.imp_right fun ⟨st, more, single⟩ => ⟨st, mt hheld.mpr more, Bool.eq_false_iff.mpr (mt lone.mp single)⟩
      · obtain ⟨own, kept⟩ := toneTaken_list hl (idle fun ⟨_, _, star, enabled⟩ => hno.elim (· star) (· enabled))
          (takenDigits_star h (lone.mpr ht))
        exact ⟨by rw [own], kept⟩
      · refine toneTaken_list hl (idle fun ⟨holds, twins, star, enabled⟩ => ?_) (takenDigits_pending ?_)
        · rcases h with ⟨_, first⟩ | ⟨_, other⟩ | st
          · obtain ⟨m, two⟩ := htwin.mp twins
            simp [(hheld.mp first).1] at two
          · exact other.elim (· twins) fun other => other.elim (· star) (· enabled)
          · exact passes_not_holds st holds
        · rcases h with ⟨st, first⟩ | ⟨st, _⟩ | st
          · exact .inr ⟨(holdsStar_iff _).mpr st, hheld.mp first⟩
          · exact .inl (by revert st; cases (s.call p).state <;> decide)
          · exact .inl (by revert st; cases (s.call p).state <;> decide)
      · exact toneTaken_starts (dials.mpr ⟨h, ht, hstar, ho⟩) quiet
    · obtain ⟨own, only⟩ := toneTaken_discards (d := d) hl
      exact ⟨by rw [own], only.cc (by decide), only.ss (by decide)⟩

end Sys2Proof.Machine
end

section
/-!
PROOFS. FEED_OVERCURRENT and RING_OVERLOAD (R89, R90, R156, R158), and what settles the overloads' reports.
-/

namespace Sys2Proof.Machine

-- One proof at a time: the text is compiled as one, and each proof that waits for the others holds a thread.
set_option Elab.async false

section
variable {s : State} {p : Port} {i : FaultId}

/-! ## The actions (R158) -/

/-- The port with FAULT in its hold set, out of service (R78). -/
def State.faultHeld (s : State) (p : Port) : State :=
  ((s.modPort p fun x => { x with hold := x.hold.put .fault true }).raise (.hook p)).modPort p fun x =>
    x.leaveService .protect

theorem hold_empty {h : PortHold} (he : h.isEmpty = true) :
    h.disabled = false ∧ h.shed = false ∧ h.fault = false ∧ h.thermal = false ∧ h.test = false := by
  obtain ⟨⟩ := h
  simp only [PortHold.isEmpty] at he
  simp only [Bool.not_eq_true', Bool.or_eq_false_iff] at he
  obtain ⟨⟨⟨⟨fault, thermal⟩, shed⟩, test⟩, disabled⟩ := he
  exact ⟨disabled, shed, fault, thermal, test⟩

/-- FAULT joins an empty hold set: the port leaves service and its call is told (R78). -/
theorem portHoldAdd_fault (he : (s.port p).hold.isEmpty = true) (hf : (s.port p).feed.inService = true) :
    s.portHoldAdd p .fault = (s.faultHeld p).portGone p .fault := by
  obtain ⟨disabled, shed, fault, thermal, test⟩ := hold_empty he
  have joined : ((s.modPort p fun x => { x with hold := x.hold.put .fault true }).raise (.hook p)).port p
      = { s.port p with hold := (s.port p).hold.put .fault true } := by
    rw [port_raise, port_modPort]
  have protect : ((s.port p).hold.put .fault true).feed = .protect := by
    simp [PortHold.put, PortHold.feed, disabled, shed]
  unfold State.portHoldAdd
  rw [if_neg (by simp [PortHold.has, fault])]
  dsimp only
  rw [joined]
  rw [if_neg (by simp [PortHold.put, test])]
  unfold State.portHeld
  dsimp only
  rw [joined, if_pos hf]
  dsimp only
  rw [protect]
  rfl

theorem faultHeld_port : (s.faultHeld p).port p
    = { { s.port p with hold := (s.port p).hold.put .fault true }.leaveService .protect with
        hold := { (s.port p).hold with fault := true } } := by
  simp only [State.faultHeld, port_modPort, port_raise]
  rfl

theorem only_faultHeld : Only [.ports, .plk] s (s.faultHeld p) :=
  .seq (l := [.ports, .plk]) (m := [.ports]) (.seq (only_modPort s p _) (only_raise _ _)) (only_modPort _ p _)

/-- A port that leaves service may count a train discarded, no overload. -/
theorem leaveService_overloads (x : PP) (f : Feed) : (x.leaveService f).counts.overcurrents = x.counts.overcurrents
    ∧ (x.leaveService f).counts.ringOverloads = x.counts.ringOverloads := by
  have counts : (x.leaveService f).counts
      = if x.pulses = 0 then x.counts else { x.counts with trainsDiscarded := inc32 x.counts.trainsDiscarded } := rfl
  rw [counts]
  split
  · exact ⟨rfl, rfl⟩
  · exact ⟨rfl, rfl⟩

/-- What the overcurrent's action makes of the port (R89, R158). -/
theorem faultHeld_gone : let u := (s.faultHeld p).portGone p .fault
    (u.port p).hold = { (s.port p).hold with fault := true } ∧ (u.port p).feed = .protect ∧ (u.port p).hook = .onHook
    ∧ (u.port p).ringRequest = none ∧ (u.port p).counts.overcurrents = (s.port p).counts.overcurrents
    ∧ (u.port p).counts.ringOverloads = (s.port p).counts.ringOverloads
    ∧ Only [.cc, .plk, .ports, .ss] s u := by
  have told : Told p (s.faultHeld p) ((s.faultHeld p).portGone p .fault) :=
    told_portGone _ (by rw [faultHeld_port]; rfl)
  obtain ⟨overcurrents, overloads⟩ :=
    leaveService_overloads { s.port p with hold := (s.port p).hold.put .fault true } .protect
  refine ⟨?_, ?_, ?_, told.request (by rw [faultHeld_port]; rfl), ?_, ?_,
    only_faultHeld.seq (only_portGone _ p _)⟩
  · rw [told.field PP.hold, faultHeld_port]
  · rw [told.field PP.feed, faultHeld_port]
    rfl
  · rw [told.field PP.hook, faultHeld_port]
    rfl
  · rw [told.field PP.counts, faultHeld_port]
    exact overcurrents
  · rw [told.field PP.counts, faultHeld_port]
    exact overloads

theorem only_inhibitRing : Only [.ports, .plk] s (s.inhibitRing p) := by
  unfold State.inhibitRing
  exact .seq (only_raiseIf s _ _) (only_modPort _ p _)

/-- Ringing inhibited: the burst ends in STANDBY, the request kept (R90). -/
theorem inhibitRing_port (h : (s.port p).feed = .ringing) : (s.inhibitRing p).port p
      = { { s.port p with ringInhibit := true }.enter .standby with cadence := none }
    ∧ (s.inhibitRing p).port p.other = s.port p.other := by
  unfold State.inhibitRing
  dsimp only
  rw [port_modPort, port_modPort_other, port_raiseIf, port_raiseIf, h]
  exact ⟨rfl, rfl⟩

/-! ## The event (R156) -/

/-- What an event asks of its action, from CLEAR or RECOVERED. -/
theorem faultEventCore_act (v : Option Int) (hn : (s.faultSetting i).policy ≠ .silent)
    (hs : (s.faultRec i).state = .clear ∨ (s.faultRec i).state = .recovered) :
    (s.faultEventCore i v).2 = if (s.faultSetting i).policy = .report then .none else .apply := by
  unfold State.faultEventCore
  dsimp only
  generalize (s.faultSetting i).policy = q at hn ⊢
  rcases hs with hs | hs
  all_goals
    rw [hs]
    cases q with
    | silent => exact absurd rfl hn
    | _ => rfl

theorem portEvent_report (v : Int) (hp : (s.faultSetting i).policy = .report)
    (hs : (s.faultRec i).state = .clear ∨ (s.faultRec i).state = .recovered) :
    s.portEvent i v = (s.faultEventCore i (some v)).1 := by
  have act := faultEventCore_act (some v) (by rw [hp]; decide) hs
  rw [if_pos hp] at act
  rw [State.portEvent, State.act, act]

theorem portEvent_acts (v : Int) (hn : (s.faultSetting i).policy ≠ .silent) (hp : (s.faultSetting i).policy ≠ .report)
    (hs : (s.faultRec i).state = .clear ∨ (s.faultRec i).state = .recovered) :
    s.portEvent i v = (s.faultEventCore i (some v)).1.applyAct i := by
  have act := faultEventCore_act (some v) hn hs
  rw [if_neg hp] at act
  rw [State.portEvent, State.act, act]

theorem applyAct_overcurrent : s.applyAct (FaultId.feedOvercurrent p) = s.portHoldAdd p .fault := by cases p <;> rfl

theorem applyAct_overload : s.applyAct (FaultId.ringOverload p) = s.inhibitRing p := by cases p <;> rfl

/-! ## The two commands (R89, R90) -/

/-- Ten samples of overcurrent counted as one event. -/
def State.overcurrentCounted (s : State) (p : Port) : State := s.modPort p fun x => { x with
  detect := { x.detect with ocArmed := false, ocRun := 0, ocMax := 0 }
  counts := { x.counts with overcurrents := inc32 x.counts.overcurrents } }

/-- Five periods of overload counted as one event. -/
def State.overloadCounted (s : State) (p : Port) : State := s.modPort p fun x => { x with
  detect := { x.detect with roArmed := false, roRun := 0, roMax := 0 }
  counts := { x.counts with ringOverloads := inc32 x.counts.ringOverloads } }

theorem feedOvercurrent_runs (hd : s.dormant = false)
    (hf : (s.port p).feed = .standby ∨ (s.port p).feed = .active ∨ (s.port p).feed = .reversed)
    (ha : (s.port p).detect.ocArmed = true) (hr : 10 ≤ (s.port p).detect.ocRun) : exec (.feedOvercurrent p) s
      = .next ((s.overcurrentCounted p).portEvent (FaultId.feedOvercurrent p) ((s.port p).detect.ocMax : Int)).settle :=
  congrArg _ ((live_awake _ _ hd).trans (congrArg _ (if_pos (by
    rcases hf with hf | hf | hf <;> simp [hf, ha, hr, Feed.isTalk]))))

theorem ringOverload_runs (hd : s.dormant = false) (hf : (s.port p).feed = .ringing)
    (ha : (s.port p).detect.roArmed = true) (hr : 5 ≤ (s.port p).detect.roRun) : exec (.ringOverload p) s
      = .next ((s.overloadCounted p).portEvent (FaultId.ringOverload p) ((s.port p).detect.roMax : Int)).settle :=
  congrArg _ ((live_awake _ _ hd).trans (congrArg _ (if_pos (by simp [hf, ha, hr]))))

/-- The record after the event, by its policy (R156). -/
theorem event_record (v : Int) {u : State} (hu : u.faultRec i = (s.faultEventCore i (some v)).1.faultRec i)
    (hi : i ≠ .linkLoss) (hn : (s.faultSetting i).policy ≠ .silent)
    (hs : (s.faultRec i).state = .clear ∨ (s.faultRec i).state = .recovered) :
    (u.faultRec i).count = min 255 ((s.faultRec i).count + 1) ∧ (u.faultRec i).value = some v
    ∧ (u.faultRec i).lastSeen = some s.uptime
    ∧ ((s.faultSetting i).policy = .report → (u.faultRec i).state = .recovered)
    ∧ ((s.faultSetting i).policy = .retryFast → (u.faultRec i).state = .retryWait
        ∧ (u.faultRec i).retry = some 500 ∧ (u.faultRec i).run = some .retryFast)
    ∧ ((s.faultSetting i).policy = .retrySlow → (u.faultRec i).state = .retryWait
        ∧ (u.faultRec i).retry = some 5000 ∧ (u.faultRec i).run = some .retrySlow)
    ∧ ((s.faultSetting i).policy = .latched → (u.faultRec i).state = .latched ∧ (u.faultRec i).retry = none) := by
  obtain ⟨record, -⟩ := faultEventCore_raised s i v _ rfl hn hs
  rw [hu, record]
  refine ⟨rfl, rfl, rfl, fun hp => ?_, fun hp => ?_, fun hp => ?_, fun hp => ?_⟩
  · simp [hp]
  · simp [hp, FaultId.retryTimer, hi, Policy.retryMs]
  · simp [hp, FaultId.retryTimer, hi, Policy.retryMs]
  · simp [hp]

/-- What an overcurrent does besides its record: counted, and reported or acted on (R89, R158). -/
theorem overcurrent_outcome {v : Int} (hi : i = FaultId.feedOvercurrent p)
    (hf : (s.port p).feed = .standby ∨ (s.port p).feed = .active ∨ (s.port p).feed = .reversed)
    (he : (s.port p).hold.isEmpty = true) (hn : (s.faultSetting i).policy ≠ .silent)
    (hs : (s.faultRec i).state = .clear ∨ (s.faultRec i).state = .recovered) :
    let u := (s.overcurrentCounted p).portEvent i v
    (u.port p).counts.overcurrents = inc32 (s.port p).counts.overcurrents
    ∧ (u.port p).counts.ringOverloads = (s.port p).counts.ringOverloads
    ∧ u.faultRec i = ((s.overcurrentCounted p).faultEventCore i (some v)).1.faultRec i
    ∧ ((s.faultSetting i).policy = .report →
      (u.port p).feed = (s.port p).feed ∧ u.cc = s.cc ∧ u.port p.other = s.port p.other)
    ∧ ((s.faultSetting i).policy ≠ .report → (u.port p).hold = { (s.port p).hold with fault := true }
      ∧ (u.port p).feed = .protect ∧ (u.port p).hook = .onHook ∧ (u.port p).ringRequest = none)
    ∧ Only [.fs, .plk, .ports, .cc, .ss] s u := by
  have counted : Only [.ports] s (s.overcurrentCounted p) := only_modPort s p _
  have event := only_faultEventCore (s.overcurrentCounted p) i (some v)
  have port (q : Port) : ((s.overcurrentCounted p).faultEventCore i (some v)).1.port q
      = (s.overcurrentCounted p).port q := by
    rw [State.port, event.ports (by decide)]
    rfl
  have own : (s.overcurrentCounted p).port p = _ := port_modPort s p _
  by_cases hp : (s.faultSetting i).policy = .report
  · have report := portEvent_report (s := s.overcurrentCounted p) v hp hs
    simp only [report, port]
    refine ⟨by rw [own], by rw [own], trivial, fun _ => ⟨by rw [own], event.cc (by decide), port_modPort_other s p _⟩,
      fun no => absurd hp no, counted.seq event⟩
  · have acts := portEvent_acts (s := s.overcurrentCounted p) v hn hp hs
    subst hi
    rw [applyAct_overcurrent] at acts
    generalize ((s.overcurrentCounted p).faultEventCore (FaultId.feedOvercurrent p) (some v)).1 = e at *
    have at_p := (port p).trans own
    have gone := portHoldAdd_fault (s := e) (p := p) (by rw [at_p]; exact he)
      (by rw [at_p]; rcases hf with hf | hf | hf <;> exact congrArg Feed.inService hf)
    obtain ⟨hold, feed, hook, request, overcurrents, overloads, only⟩ := faultHeld_gone (s := e) (p := p)
    rw [acts, gone]
    refine ⟨?_, ?_, congrArg (fun x : FS => x.recs.get _) (only.fs (by decide)), fun yes => absurd yes hp,
      fun _ => ⟨?_, feed, hook, request⟩,
      .seq (l := [.fs, .plk, .ports]) (m := [.cc, .plk, .ports, .ss]) (counted.seq event) only⟩
    · rw [overcurrents, at_p]
    · rw [overloads, at_p]
    · rw [hold, at_p]

/-- What a ring overload does besides its record (R90, R158). -/
theorem overload_outcome {v : Int} (hi : i = FaultId.ringOverload p) (hf : (s.port p).feed = .ringing)
    (hn : (s.faultSetting i).policy ≠ .silent)
    (hs : (s.faultRec i).state = .clear ∨ (s.faultRec i).state = .recovered) :
    let u := (s.overloadCounted p).portEvent i v
    (u.port p).counts = { (s.port p).counts with ringOverloads := inc32 (s.port p).counts.ringOverloads }
    ∧ u.faultRec i = ((s.overloadCounted p).faultEventCore i (some v)).1.faultRec i
    ∧ ((s.faultSetting i).policy = .report → (u.port p).feed = (s.port p).feed)
    ∧ ((s.faultSetting i).policy ≠ .report → (u.port p).ringInhibit = true ∧ (u.port p).feed = .standby
      ∧ (u.port p).ringRequest = (s.port p).ringRequest ∧ (u.port p).cadence = none)
    ∧ u.port p.other = s.port p.other ∧ Only [.fs, .plk, .ports] s u := by
  have counted : Only [.ports] s (s.overloadCounted p) := only_modPort s p _
  have event := only_faultEventCore (s.overloadCounted p) i (some v)
  have port (q : Port) : ((s.overloadCounted p).faultEventCore i (some v)).1.port q = (s.overloadCounted p).port q := by
    rw [State.port, event.ports (by decide)]
    rfl
  have own : (s.overloadCounted p).port p = _ := port_modPort s p _
  have other : (s.overloadCounted p).port p.other = s.port p.other := port_modPort_other s p _
  by_cases hp : (s.faultSetting i).policy = .report
  · have report := portEvent_report (s := s.overloadCounted p) v hp hs
    simp only [report, port]
    exact ⟨by rw [own], trivial, fun _ => by rw [own], fun no => absurd hp no, other, counted.seq event⟩
  · have acts := portEvent_acts (s := s.overloadCounted p) v hn hp hs
    subst hi
    rw [applyAct_overload] at acts
    generalize ((s.overloadCounted p).faultEventCore (FaultId.ringOverload p) (some v)).1 = e at *
    have at_p := (port p).trans own
    obtain ⟨inhibited, kept⟩ := inhibitRing_port (s := e) (p := p) (by rw [at_p]; exact hf)
    have only := only_inhibitRing (s := e) (p := p)
    rw [acts]
    dsimp only
    rw [inhibited, at_p, kept]
    exact ⟨rfl, congrArg (fun x : FS => x.recs.get _) (only.fs (by decide)), fun yes => absurd yes hp,
      fun _ => ⟨rfl, rfl, rfl, rfl⟩, (port _).trans other,
      .seq (l := [.fs, .plk, .ports]) (m := [.ports, .plk]) (counted.seq event) only⟩

end

/-- Settles O56: the event's record by its policy, and the port by its action. -/
theorem overloadsAreReported : Obligations.OverloadsAreReported := by
  unfold Obligations.OverloadsAreReported
  rintro p c i v s hd (⟨rfl, hi, rfl, hf, ha, hr⟩ | ⟨rfl, hi, rfl, hf, ha, hr⟩) hs he hn
  · obtain ⟨overcurrents, overloads, record, report, acts, only⟩ :=
      overcurrent_outcome (v := (s.port p).detect.ocMax) hi hf he hn hs
    obtain ⟨count, value, seen, recovered, fast, slow, latched⟩ := event_record (s := s.overcurrentCounted p) _ record
      (by subst hi; cases p <;> decide) hn hs
    refine ⟨_, hi ▸ feedOvercurrent_runs hd hf ha hr, ?_, ?_, count, value, seen,
      fun hp => ⟨recovered hp, (report hp).1, (report hp).2.1⟩, fast, slow, latched, fun hp _ => acts hp, ?_, ?_,
      only.le (by decide), only.tt (by decide), only.ft (by decide), only.mu (by decide), only.sup (by decide),
      only.tu (by decide), only.sts, only.settings⟩
    · rw [overcurrents, if_pos rfl]
    · rw [overloads, if_neg (by simp)]
    · simp
    · rintro (hp | hc)
      · exact (report hp).2.2
      · simp at hc
  · obtain ⟨counts, record, report, acts, other, only⟩ := overload_outcome (v := (s.port p).detect.roMax) hi hf hn hs
    obtain ⟨count, value, seen, recovered, fast, slow, latched⟩ := event_record (s := s.overloadCounted p) _ record
      (by subst hi; cases p <;> decide) hn hs
    refine ⟨_, hi ▸ ringOverload_runs hd hf ha hr, ?_, ?_, count, value, seen,
      fun hp => ⟨recovered hp, report hp, only.cc (by decide)⟩, fast, slow, latched, ?_, fun hp _ => ?_, fun _ => other,
      only.le (by decide), only.tt (by decide), only.ft (by decide), only.mu (by decide), only.sup (by decide),
      only.tu (by decide), only.sts, only.settings⟩
    · rw [counts, if_neg (by simp)]
    · rw [counts, if_pos rfl]
    · simp
    · obtain ⟨inhibit, feed, request, cadence⟩ := acts hp
      exact ⟨inhibit, feed, request, cadence, only.cc (by decide)⟩

end Sys2Proof.Machine
end

section
/-!
PROOFS. PORT_CONFIGURE and CADENCE_SET (R93, R94): the settings, DISABLED in the hold sets, and the cadences replaced.
-/

namespace Sys2Proof.Machine

-- One proof at a time: the text is compiled as one, and each proof that waits for the others holds a thread.
set_option Elab.async false

/-! ## What leaves the hold sets (R78) -/

section
variable {s t u : State} {p q : Port}

theorem sameHolds_leaveIntercom (c : RelCause) : s.SameHolds (s.leaveIntercom p c) := by
  unfold State.leaveIntercom
  split
  · exact (sameHolds_ringOff p).trans (sameHolds_updCall p _)
  · exact sameHolds_updCall p _
  · exact sameHolds_updCall p _
  · exact .of_ports rfl

theorem sameHolds_releaseCall (c : RelCause) : s.SameHolds (s.releaseCall p c) :=
  ((sameHolds_ringOff p).trans (sameHolds_updCall p _)).trans
    (.of_ports ((only_callTx _ p .release _ _ rfl).ports (by decide)))

theorem sameHolds_endSeizing (c : RelCause) : s.SameHolds (s.endSeizing p c) := by
  unfold State.endSeizing
  split
  · exact sameHolds_updCall p _
  · exact State.SameHolds.trans (.of_ports ((only_withdraw s _).ports (by decide))) (sameHolds_updCall p _)

theorem sameHolds_portGone (c : RelCause) : s.SameHolds (s.portGone p c) := by
  unfold State.portGone
  split
  · exact .of_ports rfl
  · exact .of_ports rfl
  · exact sameHolds_releaseCall c
  · exact sameHolds_releaseCall c
  · exact sameHolds_endSeizing c
  · split
    · exact State.SameHolds.trans (.of_ports ((only_nakAlert s p _).ports (by decide))) (sameHolds_updCall p _)
    · exact sameHolds_releaseCall c
  iterate 3
    · exact ((sameHolds_ringOff p).trans (sameHolds_updCall p _)).trans (sameHolds_leaveIntercom _)
  iterate 4
    · exact sameHolds_updCall p _

theorem sameHolds_portHeld (m : PortMember) : s.SameHolds (s.portHeld p m) := by
  unfold State.portHeld
  dsimp only
  split
  · exact (sameHolds_modPort p rfl).trans (sameHolds_portGone _)
  · split
    · exact .of_ports rfl
    · exact sameHolds_modPort p rfl

/-! ## DISABLED (R78, R93) -/

/-- DISABLED stands in every port's hold set as it was. -/
def State.SameDisabled (s t : State) : Prop := ∀ q, (t.port q).hold.disabled = (s.port q).hold.disabled

theorem State.SameDisabled.trans (h : s.SameDisabled t) (k : t.SameDisabled u) : s.SameDisabled u :=
  fun q => (k q).trans (h q)

theorem State.SameHolds.disabled (h : s.SameHolds t) : s.SameDisabled t := fun q => congrArg PortHold.disabled (h q)

theorem sameDisabled_put {m : PortMember} (hm : m ≠ .disabled) (v : Bool) :
    s.SameDisabled (s.modPort p fun x => { x with hold := x.hold.put m v }) := fun q => by
  rcases port_eq_or_other p q with rfl | rfl
  · rw [port_modPort]
    cases m with
    | disabled => exact absurd rfl hm
    | _ => rfl
  · rw [port_modPort_other]

theorem sameDisabled_abortRaw (a : AbortCause) : s.SameDisabled (s.abortRaw a) := by
  unfold State.abortRaw
  split
  · exact fun _ => rfl
  · rename_i c _
    have recorded : s.SameDisabled (s.recordTest c .aborted (some a) none) :=
      (State.SameHolds.of_ports (State.recordTest_ports _ _ _ _ _)).disabled
    refine recorded.trans (State.SameDisabled.trans (t := State.dropTestHold _ c) ?_ fun _ => rfl)
    unfold State.dropTestHold
    split
    · exact fun _ => rfl
    · exact fun _ => rfl
    · exact (State.SameHolds.of_ports (State.raiseIf_ports _ _ _)).disabled
    · exact (sameDisabled_put (by decide) _).trans (State.SameHolds.of_ports (State.raiseIf_ports _ _ _)).disabled

/-- A member that joins is the one change to who is disabled. -/
theorem portHoldAdd_rest (m : PortMember) (h : (s.port p).hold.has m = false) :
    (s.modPort p fun x => { x with hold := x.hold.put m true }).SameDisabled (s.portHoldAdd p m) := by
  have joined (x : State) : x.SameDisabled (x.raise (.hook p)) := fun _ => rfl
  unfold State.portHoldAdd
  rw [if_neg (by simp [h])]
  dsimp only
  refine (joined _).trans ?_
  split
  · exact (sameDisabled_abortRaw _).trans (sameHolds_portHeld m).disabled
  · exact (sameHolds_portHeld m).disabled

theorem sameDisabled_portHoldAdd {m : PortMember} (hm : m ≠ .disabled) : s.SameDisabled (s.portHoldAdd p m) := by
  cases h : (s.port p).hold.has m
  · exact (sameDisabled_put hm true).trans (portHoldAdd_rest m h)
  · rw [State.portHoldAdd, if_pos h]
    exact fun _ => rfl

theorem portHoldAdd_disabled : ((s.portHoldAdd p .disabled).port p).hold.disabled = true
    ∧ ((s.portHoldAdd p .disabled).port p.other).hold.disabled = (s.port p.other).hold.disabled := by
  cases h : (s.port p).hold.has .disabled
  · have rest := portHoldAdd_rest .disabled h
    rw [rest, rest, port_modPort, port_modPort_other]
    exact ⟨rfl, rfl⟩
  · rw [State.portHoldAdd, if_pos h]
    exact ⟨h, rfl⟩

theorem sameDisabled_portHoldRemove {m : PortMember} (hm : m ≠ .disabled) : s.SameDisabled (s.portHoldRemove p m) :=
  fun q => by
    obtain ⟨own, other⟩ := portHoldRemove_hold s p m
    rcases port_eq_or_other p q with rfl | rfl
    · rw [own]
      cases m with
      | disabled => exact absurd rfl hm
      | _ => rfl
    · rw [other]

theorem sameDisabled_shedPort : s.SameDisabled (s.shedPort p) := by
  unfold State.shedPort
  refine State.SameDisabled.trans ?_ (State.SameHolds.of_ports (State.raiseIf_ports _ _ _)).disabled
  split
  · exact sameDisabled_portHoldAdd (by decide)
  · exact sameDisabled_portHoldRemove (by decide)

/-- Port enable places DISABLED or removes it (R78, R79). -/
theorem applyPortEnable_disabled :
    ((s.applyPortEnable p).port p).hold.disabled = (!(s.settings.ports.get p).enable)
    ∧ ((s.applyPortEnable p).port p.other).hold.disabled = (s.port p.other).hold.disabled := by
  unfold State.applyPortEnable
  cases (s.settings.ports.get p).enable
  · exact portHoldAdd_disabled
  · obtain ⟨own, other⟩ := portHoldRemove_hold s p .disabled
    exact ⟨congrArg PortHold.disabled own, congrArg PortHold.disabled other⟩

/-! ## A port's settings take effect (R85, R93, R135) -/

/-- The settings stored, and a run by the old threshold given up. -/
def State.portSettled (s : State) (p : Port) (g : PortSettings) : State :=
  let t := s.modSettings fun x => { x with ports := x.ports.set p g }
  if (s.settings.ports.get p).offHookThreshold = g.offHookThreshold then t
  else t.modPort p fun x => { x with detect := { x.detect with offRun := 0 } }

theorem applyPort_eq (g : PortSettings) : s.applyPort p g =
    if (s.settings.ports.get p).lifelineMarked = g.lifelineMarked then (s.portSettled p g).applyPortEnable p
    else ((s.portSettled p g).applyPortEnable p).shedLaw := rfl

theorem portSettled_settings (g : PortSettings) :
    (s.portSettled p g).settings = { s.settings with ports := s.settings.ports.set p g } := by
  unfold State.portSettled
  dsimp only
  split
  · rfl
  · rfl

theorem sameDisabled_portSettled (g : PortSettings) : s.SameDisabled (s.portSettled p g) := by
  unfold State.portSettled
  dsimp only
  split
  · exact fun _ => rfl
  · exact (sameHolds_modPort (s := s.modSettings _) p rfl).disabled

theorem applyPort_disabled (g : PortSettings) : ((s.applyPort p g).port p).hold.disabled = (!g.enable)
    ∧ ((s.applyPort p g).port p.other).hold.disabled = (s.port p.other).hold.disabled := by
  have shed (t : State) : t.SameDisabled t.shedLaw := sameDisabled_shedPort.trans sameDisabled_shedPort
  obtain ⟨own, other⟩ := applyPortEnable_disabled (s := s.portSettled p g) (p := p)
  rw [portSettled_settings, perPort_get_set] at own
  rw [sameDisabled_portSettled] at other
  rw [applyPort_eq]
  split
  · exact ⟨own, other⟩
  · exact ⟨(shed _ p).trans own, (shed _ p.other).trans other⟩

theorem calm_applyPort (g : PortSettings) : Calm allSides (s.portSettled p g) (s.applyPort p g) := by
  rw [applyPort_eq]
  split
  · exact calm_applyPortEnable p (.refl _ _)
  · exact calm_shedLaw (calm_applyPortEnable p (.refl _ _))

theorem portSettled_rest (g : PortSettings) : (s.portSettled p g).sts = s.sts ∧ (s.portSettled p g).uptime = s.uptime
    ∧ (s.portSettled p g).sup = s.sup ∧ (s.portSettled p g).cc = s.cc ∧ (s.portSettled p g).plk = s.plk
    ∧ (s.portSettled p g).mu = s.mu ∧ (s.portSettled p g).ss = s.ss := by
  unfold State.portSettled
  dsimp only
  split
  · exact ⟨rfl, rfl, rfl, rfl, rfl, rfl, rfl⟩
  · exact ⟨rfl, rfl, rfl, rfl, rfl, rfl, rfl⟩

/-! ## PORT_CONFIGURE (R93) -/

/-- The settings a request with known arguments asks for. -/
def configuredPort (x : PortSettings) (e : Option Bool) (l t : Option Nat) (f : Option RingFreq)
    (fe li re ic : Option Bool) : PortSettings where
  enable := e.getD x.enable
  currentLimit := (l.map fun x => max 18 (min 32 x)).getD x.currentLimit
  offHookThreshold := (t.map fun x => max 8 (min 16 x)).getD x.offHookThreshold
  frequency := f.getD x.frequency
  fenceExposed := fe.getD x.fenceExposed
  lifelineMarked := li.getD x.lifelineMarked
  reverseOnAnswer := re.getD x.reverseOnAnswer
  intercomEnable := ic.getD x.intercomEnable

theorem portConfigure_part (hc : s.cc.custody = .part) (x : Enum Port) (e : Option (Enum Bool)) (l t : Option Nat)
    (f : Option (Enum RingFreq)) (fe li re ic : Option (Enum Bool)) :
    s.portConfigure x e l t f fe li re ic = s.reply (.no .refusedState) := if_pos hc

theorem portConfigure_known (hc : s.cc.custody ≠ .part) (e : Option Bool) (l t : Option Nat) (f : Option RingFreq)
    (fe li re ic : Option Bool) :
    s.portConfigure (.known p) (e.map .known) l t (f.map .known) (fe.map .known) (li.map .known) (re.map .known)
      (ic.map .known) = (s.applyPort p (configuredPort (s.settings.ports.get p) e l t f fe li re ic)).reply
        (.ok (portSettingsBytes (configuredPort (s.settings.ports.get p) e l t f fe li re ic))) := by
  unfold State.portConfigure
  rw [if_neg hc]
  simp only [takeEnum_known]
  rfl

theorem portConfigure_outside (hc : s.cc.custody ≠ .part) {x : Enum Port} {e : Option (Enum Bool)} {l t : Option Nat}
    {f : Option (Enum RingFreq)} {fe li re ic : Option (Enum Bool)}
    (h : ∃ c, x = .outside c ∨ e = some (.outside c) ∨ f = some (.outside c) ∨ fe = some (.outside c)
      ∨ li = some (.outside c) ∨ re = some (.outside c) ∨ ic = some (.outside c)) :
    s.portConfigure x e l t f fe li re ic = s.reply (.no .badArgument) := by
  unfold State.portConfigure
  rw [if_neg hc]
  cases x with
  | outside c => rfl
  | known p =>
    dsimp only
    split
    · rename_i he hf hfe hli hre hic
      obtain ⟨c, h⟩ := h
      rcases h with h | rfl | rfl | rfl | rfl | rfl | rfl
      · exact nomatch h
      · exact nomatch he
      · exact nomatch hf
      · exact nomatch hfe
      · exact nomatch hli
      · exact nomatch hre
      · exact nomatch hic
    · rfl

theorem portConfigure_runs {x : Enum Port} {e : Option (Enum Bool)} {l t : Option Nat} {f : Option (Enum RingFreq)}
    {fe li re ic : Option (Enum Bool)} {rest : List Byte} (h : s.asks (0x10 :: rest))
    (hr : readAll rPortArgs rest = some ⟨x, e, l, t, f, fe, li, re, ic⟩) :
    exec (.portConfigure x e l t f fe li re ic) s = .next (s.portConfigure x e l t f fe li re ic).settle :=
  congrArg _ (live_request _ h (by decide) hr)

/-! ## CADENCE_SET (R94) -/

theorem cadenceTime_eq (hi n : Nat) : cadenceTime hi n = max 100 (min hi ((n + 25) / 50 * 50)) := by
  have nearest : roundHalfUp n 50 = (n + 25) / 50 := by
    unfold roundHalfUp
    omega
  rw [cadenceTime, clampNat, nearest]

theorem roundCadence_eq (ps : List (Nat × Nat)) : roundCadence ps = ps.map fun x =>
    (max 100 (min 4000 ((x.1 + 25) / 50 * 50)), max 100 (min 6000 ((x.2 + 25) / 50 * 50))) := by
  simp only [roundCadence, cadenceTime_eq]

theorem applyCadence_eq (n : Nat) (c : Cadence) : s.applyCadence n c = { s with
    settings := { s.settings with cadences := Cadences.set s.settings.cadences n c }
    ports := { a := s.ports.a.recadence n, b := s.ports.b.recadence n } } := rfl

theorem cadenceSet_cases (n : Nat) (ps : List (Nat × Nat)) :
    (4 < ps.length → s.cadenceSet n ps = s.reply (.no .badArgument))
    ∧ (ps.length ≤ 4 → s.cc.custody = .part → s.cadenceSet n ps = s.reply (.no .refusedState))
    ∧ (ps.length ≤ 4 → s.cc.custody ≠ .part → 3 < n ∨ ps = [] → s.cadenceSet n ps = s.reply (.no .badArgument))
    ∧ (ps.length ≤ 4 → s.cc.custody ≠ .part → n ≤ 3 → ps ≠ [] → s.cadenceSet n ps
        = (s.applyCadence n (roundCadence ps)).reply
          (.ok (w8 n ++ wList (fun r : Nat × Nat => w16 r.1 ++ w16 r.2) (roundCadence ps)))) := by
  unfold State.cadenceSet
  refine ⟨fun h => if_pos h, fun h hc => ?_, fun h hc hn => ?_, fun h hc hn hp => ?_⟩
  · rw [if_neg (Nat.not_lt.mpr h), if_pos hc]
  · rw [if_neg (Nat.not_lt.mpr h), if_neg hc, if_pos (by simpa using hn)]
  · rw [if_neg (Nat.not_lt.mpr h), if_neg hc, if_neg (by simpa [hp] using hn)]

end

/-- Settles O25: the replies by custody and arguments, and what the settings stored make of the ports. -/
theorem portSettingsSet : Obligations.PortSettingsSet := by
  unfold Obligations.PortSettingsSet
  refine ⟨fun p e l t f fe li re ic rest s h hr => ?_, fun n ps rest s h hr => ?_⟩
  · have run := portConfigure_runs h hr
    refine ⟨fun hc => ?_, ?_, fun hc ho => ?_⟩
    · rw [run, portConfigure_part hc, reply_eq h.2]
      rfl
    · rintro hc q e' fe' li' re' ic' f' rfl rfl rfl rfl rfl rfl rfl
      rw [portConfigure_known hc] at run
      refine ⟨s.applyPort q (configuredPort (s.settings.ports.get q) e' l t f' fe' li' re' ic'),
        configuredPort (s.settings.ports.get q) e' l t f' fe' li' re' ic', rfl, rfl, rfl, rfl, rfl, rfl, rfl, rfl, ?_⟩
      generalize configuredPort (s.settings.ports.get q) e' l t f' fe' li' re' ic' = g at run ⊢
      obtain ⟨own, other⟩ := applyPort_disabled (s := s) (p := q) g
      have calm := calm_applyPort (s := s) (p := q) g
      obtain ⟨sts, uptime, sup, cc, plk, mu, ss⟩ := portSettled_rest (s := s) (p := q) g
      have requests : (s.applyPort q g).plk.requests = s.plk.requests := by rw [calm.requests, plk]
      refine ⟨calm.settings.trans (portSettled_settings g), own, other, calm.sts.trans sts, calm.uptime.trans uptime,
        by rw [calm.mode, sup], by rw [calm.custody, cc], requests, by rw [calm.accounts, mu], by rw [calm.upQueue, ss],
          ?_⟩
      rw [run, reply_eq ((asked_congr requests).trans h.2)]
      rfl
    · rw [run, portConfigure_outside hc ho, reply_eq h.2]
      rfl
  · have run : exec (.cadenceSet n ps) s = .next (s.cadenceSet n ps).settle :=
      congrArg _ (live_request _ h (by decide) hr)
    obtain ⟨long, part, bad, set⟩ := cadenceSet_cases (s := s) n ps
    refine ⟨fun hl => ?_, fun hl hc => ?_, fun hl hc hn => ?_, fun hl hc hn hp => ⟨_, rfl, ?_⟩⟩
    · rw [run, long hl, reply_eq h.2]
      rfl
    · rw [run, part hl hc, reply_eq h.2]
      rfl
    · rw [run, bad hl hc hn, reply_eq h.2]
      rfl
    · have asked : (s.applyCadence n (roundCadence ps)).asked = some (0x11 :: rest) := (asked_congr rfl).trans h.2
      rw [run, set hl hc hn hp, reply_eq asked, applyCadence_eq, roundCadence_eq]
      rfl

end Sys2Proof.Machine
end
